-- ==== Sys2Proof/Word.lean ====
section
/-! DEFINITION. The word types of the Z960 and their plainest arithmetic (00_scope.md R1 to R6): 64-bit words,
bytes, lane masks. Everything here is a BitVec abbreviation or a one-line function of one. -/

namespace Sys2Proof

/-- A 64-bit register, instruction word or address (R1, R148, R158). -/
abbrev Word := BitVec 64

/-- A byte of memory (R1). -/
abbrev Byte := BitVec 8

/-- A mask with one bit for each lane of a wave: bit l belongs to lane l (R152). -/
abbrev Mask := BitVec 64

/-- Bit n of a word, false above its width. -/
abbrev bit {w : Nat} (x : BitVec w) (n : Nat) : Bool := x.getLsbD n

/-- Bits hi : lo of a word, as a number. -/
def bits {w : Nat} (x : BitVec w) (hi lo : Nat) : Nat := (x.toNat / 2 ^ lo) % 2 ^ (hi + 1 - lo)

/-- EXTS(x, n): the low n bits of a number read as two's complement (R2). -/
def sext (x n : Nat) : Int :=
  let y := x % 2 ^ n
  if y < 2 ^ (n - 1) then (y : Int) else (y : Int) - (2 ^ n : Nat)

/-- The word that holds an integer modulo 2^64. -/
def word (i : Int) : Word := BitVec.ofInt 64 i

end Sys2Proof
end

