-- ==== Sys2Proof/Syntax.lean ====
section
/-! DEFINITION. The syntax of the Z960's steps: one constructor of `Instr` for every row of the opcode table.
An instruction of Coril-2 carries its operands and modifiers as typed data (10_encoding.md R158 to R176); an event
of the device names what it happens to by a `Subj` (95_what_each_step_holds.md). -/

namespace Sys2Proof

/-- The scopes .w .t .d .k .s (R64, R166). -/
inductive Scope | w | t | d | k | s
deriving DecidableEq, Repr

/-- The element types of layout A, in code order (R166). -/
inductive ETy
  | i8 | i16 | i32 | i64 | n8 | n16 | n32 | n64 | b32 | b64
  | f64 | f32 | f16 | bf16 | e5m2 | e4m3 | e3m2 | e2m3 | e2m1 | e8m0 | mxi8 | q4 | q8
deriving DecidableEq, Repr

/-- The sub-element counts, in code order (R166). -/
inductive Cnt | x1 | x2 | x4 | x8
deriving DecidableEq, Repr

/-- A type and count of layout A (R113, R166). -/
structure VTy where
  ty : ETy
  cnt : Cnt
deriving DecidableEq, Repr

/-- The memory types of layout M, in code order (R166). -/
inductive MTy | n8 | n16 | n32 | n64 | i8 | i16 | i32 | i64 | b32 | b64 | f32 | f64 | f16 | bf16
deriving DecidableEq, Repr

/-- The modifiers of layout M (R166). -/
structure MMod where
  scope : Scope
  ty : MTy
deriving DecidableEq, Repr

/-- Rounding modes, in code order (R117). -/
inductive Rnd | rne | rz | rdn | rup | sr
deriving DecidableEq, Repr

/-- A 10-bit operand field (R156, R164). `imm` is the constant of codes 768 to 1023; `rsv` holds a code that R156 or
R164 reserves, which `Instr.check` refuses with ILLEGAL_OPERAND. -/
inductive Opd
  | v (n : Fin 320)
  | zero | laneid | waveid | teamid | teamsize | accdrain | active | flags
  | acc (n : Fin 16)
  | p (n : Fin 15)
  | palways
  | s (n : Fin 256)
  | imm (x : BitVec 8)
  | rsv (code : BitVec 10)
deriving DecidableEq, Repr

/-- The predicate of a full word: every lane, or the lanes whose bit in p n is not `inv` (R163). -/
inductive Pred
  | always
  | sel (n : Fin 15) (inv : Bool)
deriving DecidableEq, Repr

/-- The operand a literal replaces (R167). -/
inductive LitSel | a | b | c
deriving DecidableEq, Repr

/-- The kinds of a literal, in code order (R169). -/
inductive LitKind | zext | sext | f32 | f64
deriving DecidableEq, Repr

/-- The literal of a leading word of form 0b10 (R167, R169). -/
structure Lit where
  sel : LitSel
  kind : LitKind
  val : BitVec 30
deriving DecidableEq, Repr

/-- The word of form 0b10 that leads a full word (R167, R168). -/
structure Pfx where
  mask : Option (Fin 15)
  zero : Bool
  rnd : Rnd
  scope : Option Scope
  e : Option Opd
  lit : Option Lit
deriving DecidableEq, Repr

/-- What every full word carries: its predicate, the word that leads it if any, and the operand fields d, a, b, c
(R163). A field that the instruction does not use, or uses as a control field, holds `zero` here. -/
structure Ops where
  pred : Pred
  pfx : Option Pfx
  d : Opd
  a : Opd
  b : Opd
  c : Opd
deriving DecidableEq, Repr

/-- The counters WAITC names, in code order (R202). -/
inductive Counter | ldc | stct | stcd | stck | stcs | xlc | engc
deriving DecidableEq, Repr

/-- The Leash conditions, in code order (R76, R203). -/
inductive LCmp | eq | ne | lts | ges | ltu | geu | chg
deriving DecidableEq, Repr

/-- The conditions of ICMP and FCMP, in code order (R225). -/
inductive Cond | eq | ne | lt | le | gt | ge | un | ord
deriving DecidableEq, Repr

/-- The operations of a scan or reduction, in code order (R239). -/
inductive ROp | add | min | max | and | or | xor
deriving DecidableEq, Repr

/-- The condition of BR and BRI, in code order (R323). -/
inductive BCond | always | nz | z
deriving DecidableEq, Repr

/-- The W control field of the multiply forms (R255). -/
structure WCtl where
  tb : BitVec 6
  z : Bool
deriving DecidableEq, Repr

/-- The mode of MMAS (R255, R263). -/
inductive SMode
  | code
  | bitmap (tb : BitVec 6)
  | pruned
deriving DecidableEq, Repr

/-- The mode of BKGET and BKPUT, in code order (R297). -/
inductive KMode | slot | walk | frag
deriving DecidableEq, Repr

/-- The 24 paired opcodes, in code order (R172). -/
inductive POp
  | add | sub | mul | min | max | addsat | subsat | absdiff | and | or | xor | andn | shl | shr | sar | mov
  | fadd | fsub | fmul | fmin | fmax | fneg | fabs | neg
deriving DecidableEq, Repr

/-- One half of a paired word (R170). -/
structure Half where
  op : POp
  d : BitVec 8
  a : BitVec 8
  t : VTy
deriving DecidableEq, Repr

/-- A clause header (R160): the flags it waits for, the two flags its instructions set, its length in words and its
safe-point bit. -/
structure Header where
  wait : BitVec 12
  seta : Option (Fin 12)
  setb : Option (Fin 12)
  len : BitVec 4
  sp : Bool
deriving DecidableEq, Repr

/-- Where a copy of memory is held other than its home: a core's L1 or a die's slices (R63, R64, R314). -/
inductive CopyPoint
  | l1 (core : Nat)
  | die (die : Nat)
  /-- the home slice of the address -/
  | home
deriving DecidableEq, Repr

/-- How a GDDR 7 burst ends: CRC retries first, of which the last succeeded, then the correction class of R33 and R34; or
all four of them failed. And what the code of the stacked layer finds in a sector it holds (R33). -/
inductive DramOutcome
  | clean (retries : Nat)
  | corrected (retries : Nat)
  | uncorrectable (retries : Nat)
  | crcExhausted
  | layerCorrected
  | layerRefetch
deriving DecidableEq, Repr

/-- A request that a peer sends through a fabric port (R431). -/
inductive PeerReq
  | read (addr len : Nat)
  | write (addr : Nat) (bytes : List Byte)
  | atomic (addr : Nat) (op : ROp) (ty : MTy) (val : Word)
  | exch (addr : Nat) (ty : MTy) (val : Word)
  | cas (addr : Nat) (ty : MTy) (cmp val : Word)
  | binned (addr : Nat) (ty : MTy) (val : Word)
  | binnedRead (addr : Nat) (ty : MTy)
deriving DecidableEq, Repr

/-- What an event happens to and with: the docstring of each event says which fields it reads. -/
structure Subj where
  a : Nat := 0
  b : Nat := 0
  c : Nat := 0
  d : Nat := 0
  val : Word := 0
  val2 : Word := 0
  flag : Bool := false
  scope : Scope := .w
  copy : CopyPoint := .l1 0
  outcome : DramOutcome := .clean 0
  peer : Option PeerReq := none
  bytes : List Byte := []
  nums : List Nat := []
  nums2 : List Nat := []
deriving DecidableEq, Repr

/-- The steps of the machine: the instructions of Coril-2 in the order of the opcode table, then the events of the
device. An event's subject stands in the state that it acts on (`State.subj`). -/
inductive Instr
  /-- `LD` (R194). Loads width(type) bytes at a + b in each selected lane at the given scope and extends the value into the destination. -/
  | ld (o : Ops) (m : MMod)
  /-- `ST` (R194). Stores the low bits of the data operand at a + b in each selected lane at the given scope. -/
  | st (o : Ops) (m : MMod)
  /-- `LDSC` (R195). Loads 1 to 8 consecutive 64-bit words into a run of scalar registers. -/
  | ldsc (o : Ops) (m : MMod) (words : BitVec 3)
  /-- `STSC` (R195). Stores a run of 1 to 8 scalar registers as consecutive 64-bit words. -/
  | stsc (o : Ops) (m : MMod) (words : BitVec 3)
  /-- `LDS` (R197). Loads from the team's scratchpad at byte offset a + b. -/
  | lds (o : Ops) (m : MMod)
  /-- `STS` (R197). Stores to the team's scratchpad at byte offset a + b. -/
  | sts (o : Ops) (m : MMod)
  /-- `LDT` (R197). Loads from a READY tile buffer at row a and byte b. -/
  | ldt (o : Ops) (m : MMod) (tb : BitVec 6)
  /-- `STT` (R197). Stores to a READY tile buffer at row a and byte b. -/
  | stt (o : Ops) (m : MMod) (tb : BitVec 6)
  /-- `LDBC` (R194). Loads element l of a contiguous block at a uniform base into lane l. -/
  | ldbc (o : Ops) (m : MMod)
  /-- `PREF` (R196). Asks for the line of each selected lane's address at the L1, die slice or home slice, and may be dropped. -/
  | pref (o : Ops) (m : MMod)
  /-- `AADD` (R198). Atomically adds the operand at the home slice and returns the old value. -/
  | aadd (o : Ops) (m : MMod)
  /-- `AMIN` (R198). Atomically takes the minimum at the home slice and returns the old value. -/
  | amin (o : Ops) (m : MMod)
  /-- `AMAX` (R198). Atomically takes the maximum at the home slice and returns the old value. -/
  | amax (o : Ops) (m : MMod)
  /-- `AAND` (R198). Atomically ANDs the operand at the home slice and returns the old value. -/
  | aand (o : Ops) (m : MMod)
  /-- `AOR` (R198). Atomically ORs the operand at the home slice and returns the old value. -/
  | aor (o : Ops) (m : MMod)
  /-- `AXOR` (R198). Atomically XORs the operand at the home slice and returns the old value. -/
  | axor (o : Ops) (m : MMod)
  /-- `AEXCH` (R198). Atomically exchanges the operand with memory and returns the old value. -/
  | aexch (o : Ops) (m : MMod)
  /-- `ACAS` (R199). Atomic compare-and-swap in which the lowest matching lane wins; it returns the old value and a success predicate. -/
  | acas (o : Ops) (m : MMod)
  /-- `REDADD` (R198). Adds at the home slice and returns nothing. -/
  | redadd (o : Ops) (m : MMod)
  /-- `REDMIN` (R198). Takes the minimum at the home slice and returns nothing. -/
  | redmin (o : Ops) (m : MMod)
  /-- `REDMAX` (R198). Takes the maximum at the home slice and returns nothing. -/
  | redmax (o : Ops) (m : MMod)
  /-- `REDAND` (R198). ANDs at the home slice and returns nothing. -/
  | redand (o : Ops) (m : MMod)
  /-- `REDOR` (R198). ORs at the home slice and returns nothing. -/
  | redor (o : Ops) (m : MMod)
  /-- `REDXOR` (R198). XORs at the home slice and returns nothing. -/
  | redxor (o : Ops) (m : MMod)
  /-- `BADD` (R200). Sends a floating-point contribution to a 32-byte binned cell. -/
  | badd (o : Ops) (m : MMod)
  /-- `BREAD` (R200). Reads a binned cell's total, rounded by RNE into the given format. -/
  | bread (o : Ops) (m : MMod)
  /-- `GATH` (R201). Issues a gather command from a four-scalar command block to the home slice of its index list. -/
  | gath (o : Ops) (m : MMod)
  /-- `SCAT` (R201). Issues a scatter command from a four-scalar command block. -/
  | scat (o : Ops) (m : MMod)
  /-- `SCATR` (R201). Issues a scatter-reduce command that applies each position as an atomic request. -/
  | scatr (o : Ops) (m : MMod)
  /-- `WAITC` (R202). Holds the lane group until the named counter is at most the given value. -/
  | waitc (o : Ops) (ctr : Counter)
  /-- `WAITU` (R204). Registers a Leash comparison at the home slice and leashes the lane group until a wake, an immediate reply or a timeout. -/
  | waitu (o : Ops) (cmp : LCmp) (wide : Bool) (st : Option (Fin 15))
  /-- `COPY` (R205). Sends a four-word copy command to the core's copy engine. -/
  | copy (o : Ops)
  /-- `STREAM` (R205). Sends a stream command with a layout record address to stream engine 0 or 1. -/
  | stream (o : Ops) (eng : Bool)
  /-- `TNSET` (R206). Writes eight scalars as one whole tensor table entry. -/
  | tnset (o : Ops) (tid : BitVec 8)
  /-- `TNGET` (R206). Reads one tensor table entry into eight scalars without a legality check. -/
  | tnget (o : Ops) (tid : BitVec 8)
  /-- `TTRDY` (R207). Moves an EMPTY tile to READY and advances gen. -/
  | ttrdy (o : Ops) (tb : BitVec 6)
  /-- `TTREL` (R207). Releases a READY tile to EMPTY. -/
  | ttrel (o : Ops) (tb : BitVec 6)
  /-- `TTSUB` (R207). Records a slot submit for a drain stream. -/
  | ttsub (o : Ops) (tb : BitVec 6)
  /-- `TTSTOP` (R207). Ends the stream engine's current stream with status STOPPED. -/
  | ttstop (o : Ops) (eng : Bool)
  /-- `TTGET` (R207). Reads a tile table entry into the destination. -/
  | ttget (o : Ops) (tb : BitVec 6)
  /-- `TRAV` (R209). Starts one Retriever walk for each selected lane with a start pointer, a key and a shared descriptor. -/
  | trav (o : Ops)
  /-- `ADD` (R218). Adds integer elements modulo 2^n. -/
  | add (o : Ops) (t : VTy)
  /-- `SUB` (R218). Subtracts integer elements modulo 2^n. -/
  | sub (o : Ops) (t : VTy)
  /-- `ADDSAT` (R218). Adds integer elements with saturation. -/
  | addsat (o : Ops) (t : VTy)
  /-- `SUBSAT` (R218). Subtracts integer elements with saturation. -/
  | subsat (o : Ops) (t : VTy)
  /-- `MUL` (R218). Multiplies integer elements modulo 2^n. -/
  | mul (o : Ops) (t : VTy)
  /-- `MULHI` (R218). Returns the high half of the exact integer product. -/
  | mulhi (o : Ops) (t : VTy)
  /-- `MAD` (R218). Forms an integer multiply-add modulo 2^n. -/
  | mad (o : Ops) (t : VTy)
  /-- `MADW` (R220). Forms a widening integer multiply-add into double-width elements. -/
  | madw (o : Ops) (t : VTy)
  /-- `DIV` (R219). Divides integers, truncating toward zero, with the corner cases decided. -/
  | div (o : Ops) (t : VTy)
  /-- `REM` (R219). Takes the integer remainder with the sign of the dividend. -/
  | rem (o : Ops) (t : VTy)
  /-- `NEG` (R218). Negates integer elements modulo 2^n. -/
  | neg (o : Ops) (t : VTy)
  /-- `ABS` (R218). Takes the absolute value of signed elements modulo 2^n. -/
  | abs (o : Ops) (t : VTy)
  /-- `MIN` (R218). Takes the integer minimum. -/
  | min (o : Ops) (t : VTy)
  /-- `MAX` (R218). Takes the integer maximum. -/
  | max (o : Ops) (t : VTy)
  /-- `CLAMP` (R218). Clamps integer elements between a low bound and a high bound. -/
  | clamp (o : Ops) (t : VTy)
  /-- `ABSDIFF` (R218). Returns the exact absolute difference as unsigned bits. -/
  | absdiff (o : Ops) (t : VTy)
  /-- `AND` (R222). Bitwise AND. -/
  | and (o : Ops) (t : VTy)
  /-- `OR` (R222). Bitwise OR. -/
  | or (o : Ops) (t : VTy)
  /-- `XOR` (R222). Bitwise XOR. -/
  | xor (o : Ops) (t : VTy)
  /-- `NOT` (R222). Bitwise NOT. -/
  | not (o : Ops) (t : VTy)
  /-- `ANDN` (R222). Bitwise AND with the complement of b. -/
  | andn (o : Ops) (t : VTy)
  /-- `SHL` (R222). Shifts left; an amount of n or more gives 0. -/
  | shl (o : Ops) (t : VTy)
  /-- `SHR` (R222). Shifts right, filling with zeros. -/
  | shr (o : Ops) (t : VTy)
  /-- `SAR` (R222). Shifts right, filling with copies of the top bit. -/
  | sar (o : Ops) (t : VTy)
  /-- `ROTL` (R222). Rotates left by the amount modulo n. -/
  | rotl (o : Ops) (t : VTy)
  /-- `FUNSHR` (R222). Funnel-shifts the concatenation of two operands right. -/
  | funshr (o : Ops) (t : VTy)
  /-- `BFX` (R223). Extracts a bit field and extends it by the type. -/
  | bfx (o : Ops) (t : VTy)
  /-- `BFI` (R223). Inserts a bit field whose width is the fourth operand. -/
  | bfi (o : Ops) (t : VTy)
  /-- `POPC` (R222). Counts the one bits. -/
  | popc (o : Ops) (t : VTy)
  /-- `CLZ` (R222). Counts the leading zeros. -/
  | clz (o : Ops) (t : VTy)
  /-- `CTZ` (R222). Counts the trailing zeros. -/
  | ctz (o : Ops) (t : VTy)
  /-- `BREV` (R222). Reverses the bits. -/
  | brev (o : Ops) (t : VTy)
  /-- `PERMB` (R224). Permutes bytes from a 16-byte pair by selectors. -/
  | permb (o : Ops) (t : VTy)
  /-- `SEL` (R224). Selects a or b per lane by a predicate. -/
  | sel (o : Ops) (t : VTy)
  /-- `MOV` (R224). Copies the source, or writes a whole predicate from a uniform value. -/
  | mov (o : Ops) (t : VTy)
  /-- `LEA` (R221). Computes a base plus a shifted index and writes all 64 bits. -/
  | lea (o : Ops) (t : VTy)
  /-- `ICMP` (R225). Compares integer elements and combines the results into a predicate or a scalar. -/
  | icmp (o : Ops) (t : VTy) (cond : Cond) (any : Bool)
  /-- `FADD` (R228). Floating-point add, rounded once by the mode. -/
  | fadd (o : Ops) (t : VTy)
  /-- `FSUB` (R228). Floating-point subtract. -/
  | fsub (o : Ops) (t : VTy)
  /-- `FMUL` (R228). Floating-point multiply. -/
  | fmul (o : Ops) (t : VTy)
  /-- `FMA` (R228). Fused multiply-add a × b + c. -/
  | fma (o : Ops) (t : VTy)
  /-- `FMS` (R228). Fused multiply-subtract a × b − c. -/
  | fms (o : Ops) (t : VTy)
  /-- `FNMA` (R228). Fused negated multiply-add c − a × b. -/
  | fnma (o : Ops) (t : VTy)
  /-- `FMIN` (R229). Floating-point minimum under the NaN and signed-zero rules of R66. -/
  | fmin (o : Ops) (t : VTy)
  /-- `FMAX` (R229). Floating-point maximum under the NaN and signed-zero rules of R66. -/
  | fmax (o : Ops) (t : VTy)
  /-- `FABS` (R229). Clears the sign of every non-NaN value. -/
  | fabs (o : Ops) (t : VTy)
  /-- `FNEG` (R229). Inverts the sign of every non-NaN value. -/
  | fneg (o : Ops) (t : VTy)
  /-- `FDIV` (R230). Correctly rounded division. -/
  | fdiv (o : Ops) (t : VTy)
  /-- `FSQRT` (R230). Correctly rounded square root. -/
  | fsqrt (o : Ops) (t : VTy)
  /-- `FRCP` (R230). Correctly rounded reciprocal. -/
  | frcp (o : Ops) (t : VTy)
  /-- `FRSQ` (R230). Correctly rounded reciprocal square root. -/
  | frsq (o : Ops) (t : VTy)
  /-- `FEXP2` (R231). 2^x, rounded by RNE. -/
  | fexp2 (o : Ops) (t : VTy)
  /-- `FLOG2` (R231). log2 x, rounded by RNE. -/
  | flog2 (o : Ops) (t : VTy)
  /-- `FSIN` (R231). sin(πx), rounded by RNE. -/
  | fsin (o : Ops) (t : VTy)
  /-- `FCOS` (R231). cos(πx), rounded by RNE. -/
  | fcos (o : Ops) (t : VTy)
  /-- `FTANH` (R231). tanh x, rounded by RNE. -/
  | ftanh (o : Ops) (t : VTy)
  /-- `FSIGM` (R231). The logistic sigmoid, rounded by RNE. -/
  | fsigm (o : Ops) (t : VTy)
  /-- `FRND` (R232). Rounds to an integral value by the mode. -/
  | frnd (o : Ops) (t : VTy)
  /-- `FFRAC` (R232). Returns a − floor(a), kept below 1. -/
  | ffrac (o : Ops) (t : VTy)
  /-- `FCMP` (R225). Compares floating-point elements into a predicate or a scalar. -/
  | fcmp (o : Ops) (t : VTy) (cond : Cond) (any : Bool)
  /-- `FCLASS` (R226). Tests each element's class against a class mask. -/
  | fclass (o : Ops) (t : VTy) (any : Bool)
  /-- `FDOT2` (R233). Forms two-term dot products of 16-bit elements into .f32x2. -/
  | fdot2 (o : Ops) (t : VTy)
  /-- `FDOT4` (R233). Forms four-term dot products of 8-bit elements. -/
  | fdot4 (o : Ops) (t : VTy)
  /-- `FSCALE` (R232). Multiplies by 2^b, rounded once. -/
  | fscale (o : Ops) (t : VTy)
  /-- `FCVT` (R235). Converts between floating-point formats, with a part selector. -/
  | fcvt (o : Ops) (t : VTy) (src : VTy)
  /-- `FTOI` (R235). Converts floating point to integer with clamping. -/
  | ftoi (o : Ops) (t : VTy) (src : VTy)
  /-- `ITOF` (R235). Converts integer to floating point. -/
  | itof (o : Ops) (t : VTy) (src : VTy)
  /-- `ICVT` (R235). Converts between integer types by value, with saturation. -/
  | icvt (o : Ops) (t : VTy) (src : VTy)
  /-- `PACK` (R236). Packs the low halves of two operands' elements without conversion. -/
  | pack (o : Ops) (t : VTy)
  /-- `UNPK` (R236). Unpacks half-width elements with extension. -/
  | unpk (o : Ops) (t : VTy)
  /-- `QCVT` (R237). Quantises values to .q4 or .q8 codes with a scale and zero point. -/
  | qcvt (o : Ops) (t : VTy) (src : VTy)
  /-- `QDEQ` (R237). Dequantises .q4 or .q8 codes into floating point. -/
  | qdeq (o : Ops) (t : VTy) (src : VTy)
  /-- `MXCVT` (R238). Forms one 32-element scaled block per quad and writes the codes and the shared scale. -/
  | mxcvt (o : Ops) (t : VTy)
  /-- `PAND` (R227). ANDs predicates. -/
  | pand (o : Ops)
  /-- `POR` (R227). ORs predicates. -/
  | por (o : Ops)
  /-- `PXOR` (R227). XORs predicates. -/
  | pxor (o : Ops)
  /-- `PANDN` (R227). ANDs a predicate with the complement of another. -/
  | pandn (o : Ops)
  /-- `PSET` (R227). Sets a predicate bit where the source is nonzero, or where it is zero. -/
  | pset (o : Ops) (zero : Bool)
  /-- `PAIRED_WORD` (R171). Issues two two-operand vector-ALU halves together on every active lane. -/
  | pairedWord (h1 h2 : Half)
  /-- `SHFL` (R244). Each lane reads a sub-element of a lane chosen by its own selector. -/
  | shfl (o : Ops) (t : VTy)
  /-- `SHFLX` (R244). Shuffles from the lane at l xor mask. -/
  | shflx (o : Ops) (t : VTy)
  /-- `SHFLU` (R244). Shuffles from lane l − delta. -/
  | shflu (o : Ops) (t : VTy)
  /-- `SHFLD` (R244). Shuffles from lane l + delta. -/
  | shfld (o : Ops) (t : VTy)
  /-- `SHFLS` (R244). Shuffles each sub-element from a flat element index. -/
  | shfls (o : Ops) (t : VTy)
  /-- `PUSH` (R245). Sends each lane's value to a target lane; the highest source lane wins. -/
  | push (o : Ops) (t : VTy)
  /-- `PUSHS` (R245). Sends each sub-element to a flat destination element. -/
  | pushs (o : Ops) (t : VTy)
  /-- `BCAST` (R244). Broadcasts one lane's value. -/
  | bcast (o : Ops) (t : VTy)
  /-- `VOTEANY` (R246). Returns 1 if any participant's condition holds. -/
  | voteany (o : Ops) (t : VTy)
  /-- `VOTEALL` (R246). Returns 1 if every participant's condition holds. -/
  | voteall (o : Ops) (t : VTy)
  /-- `VOTEEQ` (R246). Returns 1 if the source is equal in every participant. -/
  | voteeq (o : Ops) (t : VTy)
  /-- `BALLOT` (R246). Returns the mask of participants whose predicate bit is set. -/
  | ballot (o : Ops)
  /-- `PCOUNT` (R246). Counts the bits of the ballot mask. -/
  | pcount (o : Ops)
  /-- `MATCH` (R246). Gives each participant the mask of participants with an equal value. -/
  | matchv (o : Ops) (t : VTy)
  /-- `SCANI` (R247). Inclusive scan over the participants in the fixed tree order. -/
  | scani (o : Ops) (t : VTy) (op : ROp)
  /-- `SCANX` (R247). Exclusive scan over the participants. -/
  | scanx (o : Ops) (t : VTy) (op : ROp)
  /-- `WRED` (R247). Reduces each sub-element position over the participants. -/
  | wred (o : Ops) (t : VTy) (op : ROp)
  /-- `WREDV` (R248). Reduces over the lanes and then over the sub-elements to one element. -/
  | wredv (o : Ops) (t : VTy) (op : ROp)
  /-- `SEGSCAN` (R249). Inclusive scan that restarts at every head lane. -/
  | segscan (o : Ops) (t : VTy) (op : ROp)
  /-- `COMPACT` (R250). Packs the kept participants' values toward the lowest participants. -/
  | compact (o : Ops) (t : VTy)
  /-- `FIRSTL` (R246). Returns the lowest lane of the ballot mask, or 64. -/
  | firstl (o : Ops)
  /-- `MBIND` (R257). Binds an accumulator handle from a uniform value once the team's array is quiet. -/
  | mbind (o : Ops)
  /-- `MZERO` (R257). Zeroes a handle's accumulator tile. -/
  | mzero (o : Ops)
  /-- `MLDW` (R260). Loads one k-step of a weight tile into the shadow plane. -/
  | mldw (o : Ops) (tb : BitVec 6)
  /-- `MSWAP` (R260). Exchanges the active and shadow weight planes. -/
  | mswap (o : Ops)
  /-- `MMA` (R262). Queues a dense matrix multiply-accumulate into a handle. -/
  | mma (o : Ops) (w : WCtl)
  /-- `MMAS` (R263). Queues a sparse matrix multiply in CODE, BITMAP or PRUNED mode. -/
  | mmas (o : Ops) (w : WCtl) (mode : SMode)
  /-- `MMAQ` (R264). Queues a multiply against group-quantised weights. -/
  | mmaq (o : Ops) (w : WCtl)
  /-- `MMAX` (R267). Issues a joint matrix operation from the registers of the waves of a scoreboard entry. -/
  | mmax (o : Ops) (ty : ETy) (w : WCtl) (entry : BitVec 2)
  /-- `MRDY` (R266). Marks the wave arrived in a scoreboard entry and holds it until the MMAX completes. -/
  | mrdy (o : Ops) (entry : BitVec 2)
  /-- `MDRN` (R271). Opens an accumulator drain at a given row and column. -/
  | mdrn (o : Ops)
  /-- `MDRNC` (R271). Opens a drain that clears each element it supplies. -/
  | mdrnc (o : Ops)
  /-- `MSTA` (R272). Writes the accumulator tile to a tile, with conversion. -/
  | msta (o : Ops) (tb : BitVec 6) (rz : Bool)
  /-- `MLDA` (R272). Loads the accumulator tile from a tile, with conversion. -/
  | mlda (o : Ops) (tb : BitVec 6)
  /-- `MPGET` (R274). Optionally stops the team's matrix operations and reads a record of the stop list. -/
  | mpget (o : Ops) (idx : BitVec 4) (stop : Bool)
  /-- `MPSET` (R275). Re-enters a saved matrix operation record into the queue. -/
  | mpset (o : Ops)
  /-- `MSCB_SET` (R265). Sets a scoreboard entry's mask and base and clears arrived. -/
  | mscbSet (o : Ops) (entry : BitVec 2)
  /-- `MSCB_READ` (R265). Reads a scoreboard entry. -/
  | mscbRead (o : Ops) (entry : BitVec 2)
  /-- `MSCB_WRITE` (R265). Writes a scoreboard entry except busy, for restore routines. -/
  | mscbWrite (o : Ops) (entry : BitVec 2)
  /-- `MPAIR` (R257). Sets the team's pair mode and returns the previous one. -/
  | mpair (o : Ops) (paired : Bool)
  /-- `MUNBIND` (R257). Unbinds a handle. -/
  | munbind (o : Ops)
  /-- `MSCALE` (R273). Queues a scaling of every .f32 accumulator element. -/
  | mscale (o : Ops)
  /-- `MCVT` (R273). Queues a conversion of the accumulator between .i32 and .f32. -/
  | mcvt (o : Ops) (toInt : Bool)
  /-- `BMAKE` (R299). Checks a point-beam frame and allocates a HELD kennel slot holding the beam. -/
  | bmake (o : Ops)
  /-- `BMAKEA` (R299). Checks an area-beam frame and allocates a HELD kennel slot holding the beam. -/
  | bmakea (o : Ops)
  /-- `BWALK` (R300). Takes a walk entry and queues the selected HELD slots for a walk of a scene. -/
  | bwalk (o : Ops) (tb : BitVec 6) (scr keep : Bool)
  /-- `BSPLIT` (R304). Reads, and optionally writes, the team's split control. -/
  | bsplit (o : Ops) (write : Bool)
  /-- `BPOP` (R301). Takes fragments from the engine's fragment queue into eight registers per lane. -/
  | bpop (o : Ops) (st : Option (Fin 15)) (nowait : Bool)
  /-- `BREFL` (R302). Reflects an ENDED beam in its hit primitive and makes it HELD. -/
  | brefl (o : Ops)
  /-- `BKALLOC` (R305). Allocates the lowest FREE kennel slot as HELD. -/
  | bkalloc (o : Ops)
  /-- `BKFREE` (R305). Frees a HELD or ENDED slot. -/
  | bkfree (o : Ops)
  /-- `BKGET` (R306). Reads a slot, a walk entry, or removes the head fragment into scalars. -/
  | bkget (o : Ops) (mode : KMode)
  /-- `BKPUT` (R306). Writes a slot or a walk entry, or appends a fragment, from scalars. -/
  | bkput (o : Ops) (mode : KMode)
  /-- `BOVF` (R303). Marks HELD slots as ray bundles with a bundle size. -/
  | bovf (o : Ops)
  /-- `BSTAT_READ` (R307). Reads the beam engine status. -/
  | bstatRead (o : Ops)
  /-- `BSTAT_STOP` (R307). Stops the beam engine after its current step and reads its status. -/
  | bstatStop (o : Ops)
  /-- `BSTAT_RESUME` (R307). Lets a stopped beam engine run again. -/
  | bstatResume (o : Ops)
  /-- `BR` (R325). Relative branch, unconditional or on a condition operand, with a path hint. -/
  | br (o : Ops) (cond : BCond) (hint : Bool) (off : BitVec 20)
  /-- `BRI` (R325). Indirect branch to a per-lane target, optionally conditional. -/
  | bri (o : Ops) (cond : BCond) (hint : Bool)
  /-- `CALL` (R325). Relative call that writes the link. -/
  | call (o : Ops) (hint : Bool) (off : BitVec 20)
  /-- `CALLI` (R325). Indirect call that writes the link. -/
  | calli (o : Ops) (hint : Bool)
  /-- `RET` (R325). Returns to a per-lane address. -/
  | ret (o : Ops) (hint : Bool)
  /-- `REJOIN` (R328). Waits until every lane of a mask has arrived or exited, and then releases with reduced divergence depth. -/
  | rejoin (o : Ops)
  /-- `EXIT` (R330). Ends the selected lanes, and the wave and team when they are the last. -/
  | exit (o : Ops)
  /-- `NOP` (R330). Has no effect. -/
  | nop (o : Ops)
  /-- `BAR` (R331). Arrives at a team barrier and waits for its release. -/
  | bar (o : Ops) (idx : BitVec 2)
  /-- `BARL` (R331). Arrives at the team's part of the launch barrier and waits. -/
  | barl (o : Ops)
  /-- `BARA` (R331). Arrives at a team barrier without waiting. -/
  | bara (o : Ops) (idx : BitVec 2)
  /-- `BARGET` (R334). Reads the team part or the wave part of a barrier's state. -/
  | barget (o : Ops) (idx : Fin 5) (wavePart : Bool)
  /-- `BARSET` (R334). Writes barrier state and tests arrival and release at once. -/
  | barset (o : Ops) (idx : Fin 5) (wavePart : Bool)
  /-- `SPAWN` (R335). Offers one thread per selected lane to the spawn bin of a spawn-table kernel. -/
  | spawn (o : Ops)
  /-- `SPAWNL` (R337). Puts spawn items on a work queue in one step at its home slice. -/
  | spawnl (o : Ops)
  /-- `QPUT` (R337). Puts items at the owner end of a work queue. -/
  | qput (o : Ops)
  /-- `QTAKE` (R337). Takes items from the owner end of a work queue. -/
  | qtake (o : Ops) (st : Option (Fin 15))
  /-- `QSTEAL` (R337). Steals items from the steal end of a work queue. -/
  | qsteal (o : Ops) (st : Option (Fin 15))
  /-- `TASKNEW` (R341). Writes a whole task record with count, kernel, resume pc and registers. -/
  | tasknew (o : Ops) (nreg : Fin 17)
  /-- `TASKDEC` (R341). Decrements a task record's count at its home slice and returns the old value. -/
  | taskdec (o : Ops)
  /-- `SUSPEND` (R341). Saves a continuation into a task record, decrements its count and exits the lane. -/
  | suspend (o : Ops) (nreg : Fin 17)
  /-- `TRAP` (R343). Raises trap USER with a code and a value. -/
  | trap (o : Ops) (code : BitVec 7)
  /-- `SRGET` (R344). Reads a special register. -/
  | srget (o : Ops) (num : BitVec 10)
  /-- `SRSET` (R344). Writes a special register. -/
  | srset (o : Ops) (num : BitVec 10)
  /-- `DIVGET` (R346). Reads each lane's divergence depth and stop point. -/
  | divget (o : Ops)
  /-- `DIVSET` (R346). Sends each lane to a saved stop point with a saved divergence depth. -/
  | divset (o : Ops)
  /-- `FLGGET` (R347). Reads the flag counts and ENGC. -/
  | flgget (o : Ops)
  /-- `FLGSET` (R347). Replaces the flag counts and ENGC. -/
  | flgset (o : Ops)
  /-- `LSDET` (R348). Detaches the wave's outstanding Leash registration onto a dependence counter. -/
  | lsdet (o : Ops)
  /-- `LSATT` (R349). Attaches a detached Leash entry to the wave, or reports that its wake has happened. -/
  | lsatt (o : Ops)
  /-- `PCGET` (R345). Writes pc + 8 × offset. -/
  | pcget (o : Ops) (off : BitVec 20)
  /-- `CLKGET` (R345). Reads the issuing core's cycle count. -/
  | clkget (o : Ops)
  /-- `YIELD` (R350). Makes the lane group count as waiting for the rest of the slice cycle. -/
  | yield (o : Ops)
  /-- `BRKPT` (R343). Raises BREAKPOINT while breakpoints are enabled. -/
  | brkpt (o : Ops) (code : BitVec 7)
  /-- `PWRHINT` (R350). Tells the cluster's power control what work follows. -/
  | pwrhint (o : Ops) (code : BitVec 2)
  /-- `RATIO` (R350). Sets the wave's slice clock ratio request. -/
  | ratio (o : Ops) (code : BitVec 2)
  /-- `SEQGET` (R345). Reads the issuer's command sequence number. -/
  | seqget (o : Ops)
  /-- `SEQSET` (R345). Sets the issuer's command sequence number. -/
  | seqset (o : Ops)
  /-- `CLAUSE_HEADER_PASS` (R161). A waiting lane group passes a clause header once every named flag count is zero. -/
  | clauseHeaderPass (h : Header)
  /-- `UNASSIGNED_OPCODE` (R174). A lane group reaches a full or paired word whose opcode is not assigned, and the word raises ILLEGAL_INSTRUCTION precisely at that word. -/
  | unassignedOpcode (w : Word)
  /-- `LOAD_COMPLETE` (R190). A load's data arrives, the destination is written and LDC falls. Subject: `a` the tx, `b` the access. -/
  | loadComplete
  /-- `STORE_ACK` (R190). A point acknowledges a store and the STC counts of its scope fall. Subject: `a` the tx, `scope` the point. -/
  | storeAck
  /-- `DIE_SLICE_STORE` (R65). A store reaching a die slice is acknowledged, held and forwarded to its home slice. Subject: `a` the tx, `b` the access. -/
  | dieSliceStore
  /-- `HOME_STORE` (R67). A plain store takes its place in the address's total order at the home slice. Subject: `a` the tx, `b` the access. -/
  | homeStore
  /-- `HOME_ATOMIC` (R67). The home arithmetic unit applies an atomic or a reduction as one indivisible step. Subject: `a` the tx, `b` the access. -/
  | homeAtomic
  /-- `BINNED_CONTRIBUTION` (R72). Applies one contribution to a binned cell at its home slice. Subject: `a` the tx, `b` the access. -/
  | binnedContribution
  /-- `BINNED_READ` (R73). Returns a binned cell's total at its home slice. Subject: `a` the tx, `b` the access. -/
  | binnedRead
  /-- `LEASH_REGISTER` (R77). A WAITU registration is evaluated at the home slice and either replies at once or makes an entry. Subject: `a` the msg. -/
  | leashRegister
  /-- `HELD_REGISTRATION_ADMIT` (R79). The oldest held registration is admitted when room frees and re-evaluates its condition. Subject: `a` the die, `b` the slice. -/
  | heldRegistrationAdmit
  /-- `LEASH_TIMEOUT` (R204). The registering core's timeout expires and sends a cancel. Subject: `a` the wave. -/
  | leashTimeout
  /-- `LEASH_CANCEL` (R78). A cancel at the entry frees a WAITING entry with reply TIMEOUT, and is ignored while WAKING. Subject: `a` the msg. -/
  | leashCancel
  /-- `WAITU_REPLY` (R204). A wake, immediate reply or TIMEOUT reply reaches the core and writes the destination and status predicate. Subject: `a` the msg. -/
  | waituReply
  /-- `WAKE_ACK` (R78). The core acknowledges a wake and the entry becomes FREE. Subject: `a` the msg. -/
  | wakeAck
  /-- `LEASH_DETACH` (R78). A detach from LSDET replaces the waiter with a counter address. Subject: `a` the msg. -/
  | leashDetach
  /-- `LEASH_ATTACH` (R78). An attach from LSATT fills a new waiter and starts a new timeout. Subject: `a` the msg. -/
  | leashAttach
  /-- `DECREMENT_ACK` (R78). The counter decrement of a detached wake is acknowledged and the entry becomes FREE. Subject: `a` the msg. -/
  | decrementAck
  /-- `TASK_DECREMENT` (R342). A task count decrement is applied at its home slice. Subject: `a` the msg. -/
  | taskDecrement
  /-- `READY_QUEUE_INSERT` (R366). A decrement held for a full ready queue places its record once there is room. Subject: `a` the die. -/
  | readyQueueInsert
  /-- `QUEUE_STEP` (R337). A queue request is applied as one step at the descriptor's home slice. Subject: `a` the msg. -/
  | queueStep
  /-- `QUEUE_REPLY` (R338). The queue reply writes the destinations and status predicate and ends the lane group's wait. Subject: `a` the msg. -/
  | queueReply
  /-- `GATHER_SCATTER_RUN` (R74). A gather or scatter command starts at the home slice of its index list. Subject: `a` the cmd. -/
  | gatherScatterRun
  /-- `GATHER_ELEMENT` (R75). One position's read or write completes at the command's scope. Subject: `a` the cmd, `b` the pos. -/
  | gatherElement
  /-- `PAGE_WALK_COMPLETE` (R52). A five-level table walk ends and its waiting lanes proceed or take their fault. Subject: `a` the walk. -/
  | pageWalkComplete
  /-- `FAULT_ENTRY_WRITE` (R55). A parking fault writes, or attaches to, a fault ring entry once the ring has room. Subject: `a` the die. -/
  | faultEntryWrite
  /-- `XL_FRESOLVE_RETRY` (R56). Makes every request attached to the entry translate again. Subject: `a` the die, `b` the idx. -/
  | xlFresolveRetry
  /-- `XL_FRESOLVE_FAIL` (R56). Makes every attached lane take a precise PAGE_FAULT. Subject: `a` the die, `b` the idx. -/
  | xlFresolveFail
  /-- `XL_CTXBASE_WRITE` (R60). Writes the context table base, which takes effect at once or at the next kind-2 invalidation. Subject: `a` the die, `val` the value. -/
  | xlCtxbaseWrite
  /-- `INV_PAGE` (R58). Invalidates one page, or any page size covering va, in a context on all dies. Subject: `a` the die, `b` the ctx, `val` va. -/
  | invPage
  /-- `INV_CONTEXT` (R58). Invalidates a whole context on all dies. Subject: `a` the die, `b` the ctx. -/
  | invContext
  /-- `INV_ALL` (R58). Invalidates all contexts on all dies. Subject: `a` the die. -/
  | invAll
  /-- `INV_NONE` (R58). Removes nothing but counts as a command. Subject: `a` the die. -/
  | invNone
  /-- `INVALIDATION_COMPLETE` (R59). An invalidation completes and XL_INVDONE is incremented. Subject: `a` the die. -/
  | invalidationComplete
  /-- `LS_PURGE` (R80). Frees every Leash entry and held request of a context on all dies. Subject: `a` the die, `b` the ctx. -/
  | lsPurge
  /-- `LS_SPILLBASE_WRITE` (R80). Sets the spill area, and is ignored after the first launch. Subject: `a` the die, `val` the value. -/
  | lsSpillbaseWrite
  /-- `MS_ELOG_CLEAR` (R43). A write of zero clears MS_ELOG. Subject: `a` the die. -/
  | msElogClear
  /-- `REGISTER_WRITE` (R99). A write to a control register that has no behaviour of its own, with range checks. Subject: `a` the die, `b` the off, `val` the value. -/
  | registerWrite
  /-- `WINDOW_ACCESS` (R101). A window access is applied at the owning core between two of its own accesses. Subject: `a` the tx, `b` the access. -/
  | windowAccess
  /-- `CACHE_COPY_DROP` (R314). An L1 or visitor copy is filled or dropped at a point other than a home slice. Subject: `copy` which copy, `a` the addr, `flag` fill. -/
  | cacheCopyDrop
  /-- `DRAM_READ_COMPLETE` (R33). A GDDR 7 burst returns and is corrected, retried or reported uncorrectable. Subject: `a` the sector, `outcome`. -/
  | dramReadComplete
  /-- `PARTIAL_WRITE_MERGE` (R36). The merge read of a partial-sector write returns, and the write succeeds or is lost. Subject: `a` the sector, `nums` the byte offsets and `bytes`, `outcome`. -/
  | partialWriteMerge
  /-- `BANK_REFRESH` (R39). A stacked-layer bank's refresh interval expires and the bank is busy for 120 ns. Subject: `a` the die, `b` the bank. -/
  | bankRefresh
  /-- `THERMAL_READING` (R421). Every 16 µs the management core reads the core and stacked-layer sensors and writes the thermal registers. Subject: `a` the die, `nums` and `nums2` (core layer). -/
  | thermalReading
  /-- `COPY_ACCEPT` (R136). A copy engine accepts the command at its queue head, reads its tensor entries and checks legality. Subject: `a` the die, `b` the eng. -/
  | copyAccept
  /-- `ENGINE_ACCESS` (R141). One read or write of an engine command completes, parks on a fault or fails. Subject: `a` the cmd, `b` the unit. -/
  | engineAccess
  /-- `FILL_DONE` (R105). Every access of a fill has ended and the tile becomes READY or EMPTY with err. Subject: `a` the cmd. -/
  | fillDone
  /-- `DRAIN_DONE` (R105). Every access of a drain has ended and the tile becomes EMPTY or READY with err. Subject: `a` the cmd. -/
  | drainDone
  /-- `COMMAND_COMPLETE` (R138). An engine command completes: ENGC falls, its flags count down and FSTn receives its status. Subject: `a` the cmd. -/
  | commandComplete
  /-- `STREAM_START` (R142). A stream engine starts a queued stream and reads its layout record. Subject: `a` the core, `flag` eng. -/
  | streamStart
  /-- `STREAM_TILE_FILL` (R144). A fill stream fills the next tile once its slot is EMPTY. Subject: `a` the core, `flag` eng. -/
  | streamTileFill
  /-- `STREAM_DRAIN_SLOT` (R145). A drain stream marks a slot READY and drains it after its submit. Subject: `a` the core, `flag` eng. -/
  | streamDrainSlot
  /-- `STREAM_COMPLETE` (R147). A stream completes after its last tile, or ends after a fault or stop. Subject: `a` the core, `flag` eng. -/
  | streamComplete
  /-- `DESCRIPTOR_READ` (R82). The first Retriever reads a TRAV's walk descriptor once before any walk runs. Subject: `a` the cmd. -/
  | descriptorRead
  /-- `WALK_START` (R90). A walk takes a slot, reads and checks its rule program and moves to the Retriever of HOME(P). Subject: `a` the walk. -/
  | walkStart
  /-- `WALK_MIGRATE` (R88). A walk message arrives at another Retriever and waits for or takes a slot. Subject: `a` the walk. -/
  | walkMigrate
  /-- `PARKED_WALK_SLOT_MOVE` (R89). A walk parked in a reserved slot moves to a freed ordinary slot. Subject: `a` the walk. -/
  | parkedWalkSlotMove
  /-- `RULE_LDF` (R85). Loads a field at P + off into T. Subject: `a` the walk. -/
  | ruleLdf
  /-- `RULE_CMPK` (R85). Compares T with the key and branches. Subject: `a` the walk. -/
  | ruleCmpk
  /-- `RULE_CMPI` (R85). Compares T with an immediate and branches. Subject: `a` the walk. -/
  | ruleCmpi
  /-- `RULE_FOLLOW` (R85). Reads a pointer and steps to it, or takes the null target or the step limit. Subject: `a` the walk. -/
  | ruleFollow
  /-- `RULE_HASHK` (R85). Adds a hashed key offset to P. Subject: `a` the walk. -/
  | ruleHashk
  /-- `RULE_RET` (R85). Ends the walk FOUND with a record read at P + off. Subject: `a` the walk. -/
  | ruleRet
  /-- `RULE_MISS` (R85). Ends the walk NOT_FOUND. Subject: `a` the walk. -/
  | ruleMiss
  /-- `WALK_RESULT_WRITE` (R93). An ending walk writes its header and record, and becomes DONE once they complete. Subject: `a` the walk. -/
  | walkResultWrite
  /-- `PLANE_LOAD` (R253). Loads one k-step of weights into the shadow plane with its tag. Subject: `a` the core. -/
  | planeLoad
  /-- `MATRIX_STEP` (R262). The array runs one k-step of a queued operation over its rows. Subject: `a` the core. -/
  | matrixStep
  /-- `MATRIX_STREAMED_READ` (R269). A streamed activation read returns, or faults and stops the operation at its progress counter. Subject: `a` the core. -/
  | matrixStreamedRead
  /-- `MATRIX_COMPLETE` (R268). Every element is written, the flags clear and FSTn receives its status. Subject: `a` the core. -/
  | matrixComplete
  /-- `BEAM_WALK_START` (R294). A walk reads its scene descriptor and queues its slots, or ends at its start. Subject: `a` the core. -/
  | beamWalkStart
  /-- `BEAM_STEP` (R283). The engine advances a beam by one cursor step, testing a box or processing a primitive. Subject: `a` the core. -/
  | beamStep
  /-- `FRAGMENT_APPEND` (R289). An ended beam or ray appends a fragment once the queue has room, and its slot is freed or ended. Subject: `a` the core. -/
  | fragmentAppend
  /-- `BEAM_WALK_COMPLETE` (R296). A walk completes, frees its entry, lowers ENGC and clears its flags. Subject: `a` the core, `b` the entry. -/
  | beamWalkComplete
  /-- `HOST_WRITE` (R321). A posted host-link write of device memory is performed at .s in order. Subject: `a` the addr, `bytes`. -/
  | hostWrite
  /-- `HOST_READ` (R321). A host-link read of device memory is served after earlier posted writes. Subject: `a` the addr, `b` the len. -/
  | hostRead
  /-- `HOST_ATOMICOP` (R425). A host AtomicOp request completes with Unsupported Request status. Subject: `a` the addr. -/
  | hostAtomicop
  /-- `BAR0_ACCESS` (R426). A BAR0 access of a bad width or an unassigned offset is aborted or dropped. Subject: `a` the off, `b` the width, `flag` a write, of `val`. -/
  | bar0Access
  /-- `LAUNCH_ACCEPT` (R356). A control core accepts a queued launch record and checks the tag, the objects, the record and the fit. Subject: `a` the queue. -/
  | launchAccept
  /-- `LAUNCH_END` (R357). Once every team, wave and command has ended and stores are performed, the launch writes its status DONE. Subject: `a` the launch. -/
  | launchEnd
  /-- `TEAM_PLACE` (R358). Control core 0 places the next waiting team when resources free. Subject: `a` the die. -/
  | teamPlace
  /-- `TEAM_ADVERT` (R363). Every 4,096 cycles control core 0 sends its free resources to the other dies. Subject: `a` the die. -/
  | teamAdvert
  /-- `TEAM_SEND` (R363). A head-of-line team that has waited 65,536 cycles is sent to another die. Subject: `a` the die. -/
  | teamSend
  /-- `TEAM_RECEIVE` (R364). A migrating team is tried at the receiving die and returned if it does not fit. Subject: `a` the die. -/
  | teamReceive
  /-- `TEAM_RETURNED` (R364). A returned team goes back to the head of the sender's line. Subject: `a` the die. -/
  | teamReturned
  /-- `BIN_TIMEOUT` (R335). A spawn bin's timeout expires and it forms a wave. Subject: `a` the core, `b` the slot. -/
  | binTimeout
  /-- `DISPATCH_TAKE` (R365). A dispatcher takes one dispatch queue item into a spawn bin. Subject: `a` the core. -/
  | dispatchTake
  /-- `READY_RECORD_TAKE` (R366). A dispatcher takes a ready task record into a gathering slot. Subject: `a` the core. -/
  | readyRecordTake
  /-- `GATHERING_TIMEOUT` (R366). A gathering slot's timeout expires and it forms a wave. Subject: `a` the core, `b` the slot. -/
  | gatheringTimeout
  /-- `WAVE_PLACE` (R369). A formed wave is placed on the slice with the most free lanes. Subject: `a` the core. -/
  | wavePlace
  /-- `LAUNCH_BARRIER_RELEASE` (R375). The control cores see bcount reach k × nteams and deliver the release to every die. Subject: `a` the launch. -/
  | launchBarrierRelease
  /-- `CLUSTER_ADMIT_ROUND` (R375). Every 256 cycles a die admits up to 4 clusters' BARL lanes in sequence order. Subject: `a` the die, `b` the launch. -/
  | clusterAdmitRound
  /-- `TRAP_RECORD_WRITE` (R380). A trap record is written at TR_TAIL once the ring has room and is enabled. Subject: `a` the die. -/
  | trapRecordWrite
  /-- `TR_BASE_WRITE` (R381). Writes the trap ring base; enabling it writes the kept records in order. Subject: `a` the die, `val` the value. -/
  | trBaseWrite
  /-- `TRAP_RESUME` (R382). Resumes the lane groups of a trap. Subject: `a` the die, `b` the idx. -/
  | trapResume
  /-- `TRAP_SKIP` (R382). Resumes the trapping lanes at the next word. Subject: `a` the die, `b` the idx. -/
  | trapSkip
  /-- `TRAP_ABORT` (R382). Ends the launch with status FAULTED. Subject: `a` the die, `b` the idx. -/
  | trapAbort
  /-- `CONTROL_CORE_TRAP` (R383). A control core trap is logged by the monitor, which resets that control core. Subject: `a` the die, `b` the k. -/
  | controlCoreTrap
  /-- `CONTROL_CORE_RESTART` (R384). A restarted control core faults its running launches and reads its queues from head. Subject: `a` the die, `b` the k. -/
  | controlCoreRestart
  /-- `PREQ_CANCEL` (R386). Cancels a pending pre-emption request. Subject: `a` the die, `b` the team, `c` the queue, `d` the lslot. -/
  | preqCancel
  /-- `PREQ_SAVE` (R386). Requests a save that returns the team to the restore line. Subject: `a` the die, `b` the team, `c` the queue, `d` the lslot. -/
  | preqSave
  /-- `PREQ_SAVE_HOLD` (R386). Requests a save that holds the team. Subject: `a` the die, `b` the team, `c` the queue, `d` the lslot. -/
  | preqSaveHold
  /-- `PREQ_RELEASE` (R386). Releases a held team to the restore line. Subject: `a` the die, `b` the team, `c` the queue, `d` the lslot. -/
  | preqRelease
  /-- `PREQ_ABORT` (R386). Aborts the team's launch. Subject: `a` the die, `b` the team, `c` the queue, `d` the lslot. -/
  | preqAbort
  /-- `SAVE_ENTRY` (R387). A wave of a team to be saved enters a save routine at a safe point or while all its groups wait. Subject: `a` the wave. -/
  | saveEntry
  /-- `TEAM_SAVED` (R391). After the last wave exits its routine and stores are performed, the team is saved and the request is finished. Subject: `a` the team. -/
  | teamSaved
  /-- `TEAM_RESTORE` (R392). A saved team is placed again and its waves start at their restore routines. Subject: `a` the die. -/
  | teamRestore
  /-- `TS_HALT` (R398). A write of HALT = 1 stops every lane group of the context on the die. Subject: `a` the die. -/
  | tsHalt
  /-- `TS_RELEASE` (R398). A write of HALT = 0 releases every halted group. Subject: `a` the die. -/
  | tsRelease
  /-- `TS_STATE_WRITE` (R394). Sets the sequencer state and clears armed and count. Subject: `a` the die, `val` the value. -/
  | tsStateWrite
  /-- `SEQUENCER_CYCLE` (R396). In each cycle the trigger sequencer counts events, arms and may fire its action. Subject: `a` the die, `nums` (counts). -/
  | sequencerCycle
  /-- `STALL_SAMPLE` (R399). At each sample point a slice samples one wave and writes a stall record or drops it. Subject: `a` the core, `b` the slice. -/
  | stallSample
  /-- `RP_CTL_WRITE` (R405). Sets the replay mode, launch, quantum and context. Subject: `a` the die, `val` the value. -/
  | rpCtlWrite
  /-- `COMMIT_ROUND` (R408). When every wave has ended its quantum, commits side copies, buffers and held words in a fixed order. Subject: `a` the launch. -/
  | commitRound
  /-- `QUANTUM_REEXECUTE` (R410). After service, a struck wave is reloaded from its snapshot and re-executes its quantum. Subject: `a` the wave. -/
  | quantumReexecute
  /-- `PC_SET_WRITE` (R414). Clamps a requested clock and voltage to the fused limits and starts the regulator move. Subject: `a` the die, `b` the cluster, `val` the value. -/
  | pcSetWrite
  /-- `REGULATOR_STEP` (R414). One voltage or clock step of a regulator move completes and PC_ACTc shows it. Subject: `a` the die, `b` the cluster. -/
  | regulatorStep
  /-- `SLICE_RATIO_UPDATE` (R415). Every 256 cycles each slice sets its ratio from its waves' requests and the cap. Subject: `a` the core. -/
  | sliceRatioUpdate
  /-- `GRANT_WINDOW` (R416). Every 2,048 cycles a capped cluster adjusts its grant budget from the window's energy. Subject: `a` the die, `b` the cluster, `c` its energy in nJ, `d` the energy of the rest of the die since the last such event, `nums` the coding events of R41 since then. -/
  | grantWindow
  /-- `CLUSTER_GATE` (R418). At the end of the hold the cluster is gated and loses its contents. Subject: `a` the die, `b` the cluster. -/
  | clusterGate
  /-- `RAMP_END` (R420). A 1.2 µs ramp ends, the cluster returns to its point, and the arbiter starts the next. Subject: `a` the die, `b` the cluster. -/
  | rampEnd
  /-- `LOAD_FW` (R434). Verifies a firmware image and on success copies it and resets the control cores. Its arguments stand in the mailbox. -/
  | loadFw
  /-- `ATTEST` (R436). Writes a signed 400-byte attestation report. Its arguments stand in the mailbox. -/
  | attest
  /-- `IDKEY` (R433). Writes the identity public key. Its argument stands in the mailbox. -/
  | idkey
  /-- `RESET_CC` (R433). Resets every control core, which restart from the loaded image. -/
  | resetCc
  /-- `FP_CTL_WRITE` (R431). Sets a fabric port's enable and inbound rights; clearing EN refuses later requests. Subject: `a` the port, `val` the value. -/
  | fpCtlWrite
  /-- `PEER_REQUEST` (R431). A request from a peer is served at its home slice or refused with UNMAPPED_PHYS. Subject: `a` the port, `peer` the request. -/
  | peerRequest
  /-- `PORT_DOWN` (R430). A port that fails its link retries goes down and its sent requests complete as UNMAPPED_PHYS. Subject: `a` the port. -/
  | portDown
  /-- `RESET` (R435). At reset the ROM verifies and starts the security monitor, or the device fails. -/
  | reset
  /-- `MONITOR_READY` (R435). The monitor trains and zeroes memory, sets the fused limits and reports MEMORY_READY. -/
  | monitorReady
deriving DecidableEq, Repr

end Sys2Proof
end

