-- ==== Sys2Proof/Machine/Encoding.lean ====
section
/-! DEFINITION. The encoding tables of the spec (R156, R164 to R169, R186, R187, R213, R215, R239, R240, R255, R256,
R297, R298, R323, R324): each opcode's row says how its fields are used and what may lead it, `Instr.parts` gives the
fields of each instruction, and `Instr.check` reports the first of the checks of R173, steps 3 and 4, that fails. -/

namespace Sys2Proof

/-- The two traps of decoding (R173). -/
inductive DecErr
  | illegalInstruction
  | illegalOperand
deriving DecidableEq, Repr

/-! ### Types (R113, R213) -/

/-- The element width in bits, byte containers for the 6-bit and 4-bit formats (R113). -/
def ETy.width : ETy → Nat
  | .i64 | .n64 | .b64 | .f64 => 64
  | .i32 | .n32 | .b32 | .f32 => 32
  | .i16 | .n16 | .f16 | .bf16 => 16
  | _ => 8

/-- The number of sub-elements. -/
def Cnt.n : Cnt → Nat
  | .x1 => 1
  | .x2 => 2
  | .x4 => 4
  | .x8 => 8

/-- The counts that exist for a type (R113): the sub-elements fit in 64 bits. -/
def VTy.exist (t : VTy) : Bool := t.ty.width * t.cnt.n ≤ 64

/-- Bytes moved by a memory access of the type (R188). -/
def MTy.bytes : MTy → Nat
  | .n8 | .i8 => 1
  | .n16 | .i16 | .f16 | .bf16 => 2
  | .n32 | .i32 | .b32 | .f32 => 4
  | .n64 | .i64 | .b64 | .f64 => 8

/-- The memory type as an element type. -/
def MTy.ety : MTy → ETy
  | .n8 => .n8 | .n16 => .n16 | .n32 => .n32 | .n64 => .n64
  | .i8 => .i8 | .i16 => .i16 | .i32 => .i32 | .i64 => .i64
  | .b32 => .b32 | .b64 => .b64 | .f32 => .f32 | .f64 => .f64 | .f16 => .f16 | .bf16 => .bf16

def ETy.isSigned : ETy → Bool
  | .i8 | .i16 | .i32 | .i64 => true
  | _ => false

def ETy.isUnsigned : ETy → Bool
  | .n8 | .n16 | .n32 | .n64 => true
  | _ => false

/-- The types of the set INT of R213. -/
def ETy.isInt (t : ETy) : Bool := t.isSigned || t.isUnsigned

/-- The types of the set BIT of R213. -/
def ETy.isBit : ETy → Bool
  | .b32 | .b64 => true
  | _ => false

/-- The types of the set FP of R213. -/
def ETy.isFp : ETy → Bool
  | .f64 | .f32 | .f16 | .bf16 => true
  | _ => false

/-- The five narrow formats of R235. -/
def ETy.isNarrow : ETy → Bool
  | .e5m2 | .e4m3 | .e3m2 | .e2m3 | .e2m1 => true
  | _ => false

/-- The types that R235 lists for FCVT. -/
def ETy.isCvt (t : ETy) : Bool := t.isFp || t.isNarrow || t == .e8m0

/-! ### Operands (R156, R164) -/

namespace Opd

/-- A uniform operand: a scalar, a constant or a special operand other than LANEID and ACCDRAIN (R156). -/
def uniform : Opd → Bool
  | .v _ | .laneid | .accdrain | .rsv _ => false
  | _ => true

/-- Every operand that can be read (R156). -/
def readable : Opd → Bool
  | .rsv _ => false
  | _ => true

end Opd

/-- The kinds of operand that the encoding tables name. -/
inductive Kind
  | dst      -- a vector or scalar register, or ZERO
  | dstP     -- the same, or a predicate written whole (MOV, R224)
  | vec      -- a vector register
  | vecS     -- a vector or scalar register
  | scal     -- a scalar register
  | scalZ    -- a scalar register or ZERO
  | cmp      -- a predicate, a scalar register or ZERO
  | pred     -- a predicate or ZERO
  | acc      -- a handle
  | src      -- anything readable
  | srcX     -- anything readable but ACCDRAIN (R251, R324)
  | uni      -- a uniform operand
  | uniM     -- a scalar register or a constant (R255)
  | mask     -- a predicate or PALWAYS
  | maskZ    -- a predicate, PALWAYS or ZERO (R227)
  | slot     -- a slot number: anything readable (R297 names no kind of source that traps)
deriving DecidableEq, Repr

/-- Whether an operand is of a kind. -/
def Kind.ok (k : Kind) (o : Opd) : Bool :=
  match k, o with
  | .dst, .v _ | .dst, .s _ | .dst, .zero => true
  | .dstP, .v _ | .dstP, .s _ | .dstP, .zero | .dstP, .p _ => true
  | .vec, .v _ => true
  | .vecS, .v _ | .vecS, .s _ => true
  | .scal, .s _ => true
  | .scalZ, .s _ | .scalZ, .zero => true
  | .cmp, .p _ | .cmp, .s _ | .cmp, .zero => true
  | .pred, .p _ | .pred, .zero => true
  | .acc, .acc _ => true
  | .src, o => o.readable
  | .srcX, .accdrain => false
  | .srcX, o => o.readable
  | .uni, o => o.uniform
  | .uniM, .s _ | .uniM, .imm _ => true
  | .mask, .p _ | .mask, .palways => true
  | .maskZ, .p _ | .maskZ, .palways | .maskZ, .zero => true
  | .slot, o => o.readable
  | _, _ => false

/-- How an opcode uses an operand field. -/
inductive Use
  | none            -- must hold 320
  | ctl             -- a control field, whose layout the constructor's arguments give
  | opd (k : Kind)
deriving DecidableEq, Repr

/-- How a literal that replaces an operand is typed (R169). -/
inductive LitRule
  | no              -- no literal may stand here
  | int             -- an integer or bit value
  | own             -- the type of the instruction
  | src             -- the source type of a conversion
  | f32             -- an .f32 addend
  | bf16            -- a .bf16 element, as MXCVT reads its sources (R238)
deriving DecidableEq, Repr

/-- What a leading word may carry (R168). `lead` is false where none may stand. -/
structure Lead where
  lead : Bool
  rnd : Bool := false
  scope : Bool := false
  e : Option Kind := none
  la : LitRule := .no
  lb : LitRule := .no
  lc : LitRule := .no
deriving DecidableEq, Repr

/-- The row of an opcode: its operand fields, whether psel must be 15, and what may lead it. -/
structure Row where
  d : Use := .none
  a : Use := .none
  b : Use := .none
  c : Use := .none
  only15 : Bool := false
  lead : Lead := { lead := false }
deriving DecidableEq, Repr

namespace Row

/-- A leading word with mask, Z and literals in integer sources (R215). -/
def intLead : Lead := { lead := true, la := .own, lb := .own, lc := .own }
def fpLead : Lead := { lead := true, rnd := true, la := .own, lb := .own, lc := .own }
def memLead : Lead := { lead := true, scope := true, la := .int, lb := .int }

/-- d, a of the vector group. -/
def v1 (l : Lead := intLead) : Row := { d := .opd .dst, a := .opd .src, lead := { l with lb := .no, lc := .no } }
/-- d, a, b of the vector group. -/
def v2 (l : Lead := intLead) : Row :=
  { d := .opd .dst, a := .opd .src, b := .opd .src, lead := { l with lc := .no } }
/-- d, a, b, c of the vector group. -/
def v3 (l : Lead := intLead) : Row := { d := .opd .dst, a := .opd .src, b := .opd .src, c := .opd .src, lead := l }

/-- The rows of the memory group (R186, R211). -/
def memory : Nat → Row
  | 0x000 => { d := .opd .dst, a := .opd .src, b := .opd .src, lead := memLead }
  | 0x001 => { a := .opd .src, b := .opd .src, c := .opd .src, lead := { memLead with lc := .own } }
  | 0x002 => { d := .opd .scal, a := .opd .uni, b := .opd .uni, c := .ctl, lead := memLead }
  | 0x003 => { d := .opd .scal, a := .opd .uni, b := .opd .uni, c := .ctl, lead := memLead }
  | 0x004 => { d := .opd .dst, a := .opd .src, b := .opd .src, lead := memLead }
  | 0x005 => { a := .opd .src, b := .opd .src, c := .opd .src, lead := { memLead with lc := .own } }
  | 0x006 => { d := .opd .dst, a := .opd .src, b := .opd .src, c := .ctl, lead := memLead }
  | 0x007 => { d := .opd .src, a := .opd .src, b := .opd .src, c := .ctl, lead := memLead }
  | 0x008 => { d := .opd .dst, a := .opd .uni, b := .opd .uni, lead := memLead }
  | 0x009 => { a := .opd .src, b := .opd .src, lead := memLead }
  | 0x00A | 0x00B | 0x00C | 0x00D | 0x00E | 0x00F | 0x010 =>
      { d := .opd .dst, a := .opd .src, b := .opd .src, lead := { memLead with lb := .own } }
  | 0x011 => { d := .opd .pred, a := .opd .src, b := .opd .vecS, c := .opd .src,
               lead := { memLead with lb := .no, lc := .own } }
  | 0x012 | 0x013 | 0x014 | 0x015 | 0x016 | 0x017 | 0x018 =>
      { a := .opd .src, b := .opd .src, lead := { memLead with lb := .own } }
  | 0x019 => { d := .opd .dst, a := .opd .src, lead := { memLead with lb := .no } }
  | 0x01A | 0x01B | 0x01C => { a := .opd .scal, b := .opd .uni, lead := { memLead with la := .no } }
  | 0x01D => { a := .opd .uni, only15 := true, lead := { lead := true, la := .int } }
  | 0x01E => { d := .opd .dst, a := .opd .uni, b := .opd .uni, c := .ctl,
               lead := { lead := true, e := some .uni, lb := .int } }
  | 0x01F => { a := .opd .scal, lead := { lead := true } }
  | 0x020 => { a := .opd .uni, lead := { lead := true, la := .int } }
  | 0x021 => { a := .opd .scal, c := .ctl, lead := { lead := true } }
  | 0x022 => { d := .opd .scal, c := .ctl, lead := { lead := true } }
  | 0x023 | 0x024 | 0x025 => { c := .ctl, lead := { lead := true } }
  | 0x026 => { lead := { lead := true } }
  | 0x027 => { d := .opd .dst, c := .ctl, lead := { lead := true } }
  | _ => { a := .opd .src, b := .opd .src, c := .opd .uni, lead := { lead := true, la := .int, lb := .int, lc := .int } }

/-- The rows of the vector group (R213, R215). -/
def vector : Nat → Row
  | 0x08A | 0x08B | 0x093 | 0x09C | 0x09D | 0x09E | 0x09F => v1
  | 0x086 | 0x08E | 0x099 | 0x09A => v3
  | 0x087 => v3
  | 0x09B => { v3 with lead := { intLead with e := some .src } }
  | 0x0A0 => v3
  | 0x0A1 => { v2 with c := .opd .mask }
  | 0x0A2 => { v1 with d := .opd .dstP }
  | 0x0A3 => { v3 with lead := { lead := true, la := .int, lb := .own, lc := .int } }
  | 0x0A4 => { v2 with d := .opd .cmp, c := .ctl }
  | 0x0A5 | 0x0A6 | 0x0A7 | 0x0AF => v2 fpLead
  | 0x0A8 | 0x0A9 | 0x0AA => v3 fpLead
  | 0x0AB | 0x0AC => v2 { fpLead with rnd := false }
  | 0x0AD | 0x0AE => v1 { fpLead with rnd := false }
  | 0x0B0 | 0x0B1 | 0x0B2 | 0x0B9 | 0x0BA => v1 fpLead
  | 0x0B3 | 0x0B4 | 0x0B5 | 0x0B6 | 0x0B7 | 0x0B8 => v1 { fpLead with rnd := false }
  | 0x0BB => { v2 { fpLead with rnd := false } with d := .opd .cmp, c := .ctl }
  | 0x0BC => { d := .opd .cmp, a := .opd .src, b := .opd .uni, c := .ctl, lead := { lead := true, la := .own, lb := .int } }
  | 0x0BD => v3 { fpLead with lc := .f32 }
  | 0x0BE => v3 { fpLead with lc := .f32 }
  | 0x0BF => v2 { fpLead with lb := .int }
  | 0x0C0 | 0x0C1 | 0x0C2 => { d := .opd .dst, a := .opd .src, b := .opd .uni, c := .ctl,
                               lead := { lead := true, rnd := true, la := .src, lb := .int } }
  | 0x0C3 => { d := .opd .dst, a := .opd .src, b := .opd .uni, c := .ctl, lead := { lead := true, la := .src } }
  | 0x0C5 => { d := .opd .dst, a := .opd .src, b := .opd .uni, lead := { lead := true, la := .own } }
  | 0x0C6 | 0x0C7 => { d := .opd .dst, a := .opd .src, b := .opd .uni, c := .ctl,
                       lead := { lead := true, rnd := true, la := .src, lb := .int } }
  | 0x0C8 => { d := .opd .vec, a := .opd .vec, b := .opd .vec, c := .opd .vec,
               lead := { lead := true, rnd := true, la := .bf16, lb := .bf16 } }
  | 0x0C9 | 0x0CA | 0x0CB | 0x0CC => { d := .opd .pred, a := .opd .maskZ, b := .opd .maskZ, lead := { lead := true } }
  | 0x0CD => { d := .opd .pred, a := .opd .src, lead := { lead := true, la := .int } }
  | _ => v2

/-- The rows of the cross-lane group (R239, R240). -/
def cross : Nat → Row
  | 0x180 | 0x184 | 0x185 | 0x186 => { d := .opd .vec, a := .opd .srcX, b := .opd .srcX, lead := { lead := true } }
  | 0x181 | 0x182 | 0x183 => { d := .opd .vec, a := .opd .srcX, b := .opd .uni, lead := { lead := true, lb := .int } }
  | 0x187 => { d := .opd .vecS, a := .opd .srcX, b := .opd .uni, lead := { lead := true, lb := .int } }
  | 0x188 | 0x189 | 0x18A => { d := .opd .cmp, a := .opd .srcX, lead := { lead := true } }
  | 0x18B | 0x18C | 0x194 => { d := .opd .vecS, a := .opd .mask, lead := { lead := true } }
  | 0x18D => { d := .opd .vec, a := .opd .srcX, lead := { lead := true } }
  | 0x18E | 0x18F => { d := .opd .vec, a := .opd .srcX, c := .ctl, lead := { lead := true, rnd := true } }
  | 0x190 | 0x191 => { d := .opd .vecS, a := .opd .srcX, c := .ctl, lead := { lead := true, rnd := true } }
  | 0x192 => { d := .opd .vec, a := .opd .srcX, b := .opd .mask, c := .ctl, lead := { lead := true, rnd := true } }
  | _ => { d := .opd .vec, a := .opd .srcX, b := .opd .mask, lead := { lead := true } }

/-- The rows of the matrix group (R255): no leading word, psel 15 (R256). -/
def matrix : Nat → Row
  | 0x1C0 => { d := .opd .acc, a := .opd .uniM, only15 := true }
  | 0x1C1 | 0x1D1 => { d := .opd .acc, only15 := true }
  | 0x1C2 => { a := .opd .uniM, b := .ctl, only15 := true }
  | 0x1C3 => { only15 := true }
  | 0x1C4 | 0x1C6 => { d := .opd .acc, a := .opd .uniM, b := .ctl, only15 := true }
  | 0x1C5 => { d := .opd .acc, a := .opd .uniM, b := .ctl, c := .ctl, only15 := true }
  | 0x1C7 => { d := .opd .acc, a := .opd .vec, b := .ctl, c := .ctl, only15 := true }
  | 0x1C8 => { c := .ctl, only15 := true }
  | 0x1C9 | 0x1CA => { d := .opd .acc, a := .opd .uniM, b := .opd .uniM, only15 := true }
  | 0x1CB | 0x1CC => { d := .opd .acc, b := .ctl, only15 := true }
  | 0x1CD => { d := .opd .scal, c := .ctl, only15 := true }
  | 0x1CE => { a := .opd .scal, only15 := true }
  | 0x1CF => { d := .opd .scalZ, a := .opd .scal, c := .ctl, only15 := true }
  | 0x1D0 => { d := .opd .scalZ, c := .ctl, only15 := true }
  | 0x1D2 => { d := .opd .acc, a := .opd .uniM, only15 := true }
  | _ => { d := .opd .acc, a := .opd .uniM, c := .ctl, only15 := true }

/-- The rows of the beam group (R297, R298). -/
def beam : Nat → Row
  | 0x200 | 0x201 => { d := .opd .vec, a := .opd .vec, b := .opd .src }
  | 0x202 => { a := .opd .slot, b := .opd .uni, c := .ctl }
  | 0x203 => { d := .opd .scalZ, a := .opd .uni, c := .ctl, only15 := true }
  | 0x204 => { d := .opd .vec, c := .ctl }
  | 0x205 => { d := .opd .vec, a := .opd .slot, b := .opd .uni }
  | 0x206 => { d := .opd .vec }
  | 0x207 => { a := .opd .slot }
  | 0x208 => { d := .opd .scal, a := .opd .uni, c := .ctl, only15 := true }
  | 0x209 => { a := .opd .scal, b := .opd .uni, c := .ctl, only15 := true }
  | 0x20A => { a := .opd .slot, b := .opd .uni }
  | _ => { d := .opd .scalZ, c := .ctl, only15 := true }

/-- The rows of the control group (R323, R324). -/
def control : Nat → Row
  | 0x220 => { a := .opd .srcX, b := .ctl, c := .ctl }
  | 0x221 => { a := .opd .srcX, b := .opd .srcX }
  | 0x222 => { d := .opd .dst, b := .ctl, c := .ctl }
  | 0x223 => { d := .opd .dst, a := .opd .srcX }
  | 0x224 => { a := .opd .srcX }
  | 0x225 => { a := .opd .mask, only15 := true }
  | 0x226 | 0x227 => {}
  | 0x228 | 0x22A => { c := .ctl, only15 := true }
  | 0x229 => { only15 := true }
  | 0x22B => { d := .opd .scal, c := .ctl, only15 := true }
  | 0x22C => { a := .opd .scal, c := .ctl, only15 := true }
  | 0x22D => { a := .opd .srcX, b := .opd .srcX }
  | 0x22E | 0x22F => { d := .opd .pred, a := .opd .uni, b := .opd .srcX, c := .opd .srcX }
  | 0x230 | 0x231 => { d := .opd .vecS, a := .opd .uni, c := .ctl }
  | 0x232 => { d := .opd .vecS, a := .opd .srcX, b := .opd .srcX, c := .opd .srcX }
  | 0x233 => { d := .opd .dst, a := .opd .srcX }
  | 0x234 => { d := .opd .vecS, a := .opd .srcX, b := .opd .srcX }
  | 0x235 => { a := .opd .srcX }
  | 0x236 => { d := .opd .dst, c := .ctl, only15 := true }
  | 0x237 => { a := .opd .uni, c := .ctl, only15 := true }
  | 0x238 => { d := .opd .vec }
  | 0x239 => { a := .opd .vec }
  | 0x23A => { d := .opd .scal, only15 := true }
  | 0x23B => { a := .opd .scal, only15 := true }
  | 0x23C => { d := .opd .scal, a := .opd .uni, only15 := true }
  | 0x23D => { d := .opd .scalZ, a := .opd .scal, only15 := true }
  | 0x23E => { d := .opd .dst, b := .ctl, c := .ctl, only15 := true }
  | 0x23F | 0x244 => { d := .opd .dst, only15 := true }
  | 0x245 => { a := .opd .uni, only15 := true }
  | _ => { only15 := true }

/-- The row of an opcode (R174, R175). -/
def of (op : Nat) : Row :=
  if op < 0x080 then memory op
  else if op < 0x180 then vector op
  else if op < 0x1C0 then cross op
  else if op < 0x200 then matrix op
  else if op < 0x220 then beam op
  else control op

end Row


/-! ### Codes of the modifiers -/

def ETy.all : List ETy :=
  [.i8, .i16, .i32, .i64, .n8, .n16, .n32, .n64, .b32, .b64, .f64, .f32, .f16, .bf16, .e5m2, .e4m3, .e3m2, .e2m3,
   .e2m1, .e8m0, .mxi8, .q4, .q8]

/-- The type code of layout A (R166). -/
def ETy.code : ETy → Nat
  | .i8 => 0 | .i16 => 1 | .i32 => 2 | .i64 => 3 | .n8 => 4 | .n16 => 5 | .n32 => 6 | .n64 => 7
  | .b32 => 8 | .b64 => 9 | .f64 => 10 | .f32 => 11 | .f16 => 12 | .bf16 => 13 | .e5m2 => 14 | .e4m3 => 15
  | .e3m2 => 16 | .e2m3 => 17 | .e2m1 => 18 | .e8m0 => 19 | .mxi8 => 20 | .q4 => 21 | .q8 => 22

def ETy.ofCode (n : Nat) : Option ETy := ETy.all[n]?

def Cnt.code : Cnt → Nat | .x1 => 0 | .x2 => 1 | .x4 => 2 | .x8 => 3
def Cnt.ofCode (n : Nat) : Option Cnt := [Cnt.x1, .x2, .x4, .x8][n]?

def Scope.code : Scope → Nat | .w => 0 | .t => 1 | .d => 2 | .k => 3 | .s => 4
def Scope.ofCode (n : Nat) : Option Scope := [Scope.w, .t, .d, .k, .s][n]?

/-- The memory type code of layout M (R166). -/
def MTy.code : MTy → Nat
  | .n8 => 0 | .n16 => 1 | .n32 => 2 | .n64 => 3 | .i8 => 4 | .i16 => 5 | .i32 => 6 | .i64 => 7 | .b32 => 8 | .b64 => 9
  | .f32 => 10 | .f64 => 11 | .f16 => 12 | .bf16 => 13
def MTy.ofCode (n : Nat) : Option MTy :=
  [MTy.n8, .n16, .n32, .n64, .i8, .i16, .i32, .i64, .b32, .b64, .f32, .f64, .f16, .bf16][n]?

def Rnd.code : Rnd → Nat | .rne => 0 | .rz => 1 | .rdn => 2 | .rup => 3 | .sr => 4
def Rnd.ofCode (n : Nat) : Option Rnd := [Rnd.rne, .rz, .rdn, .rup, .sr][n]?

def Counter.code : Counter → Nat | .ldc => 0 | .stct => 1 | .stcd => 2 | .stck => 3 | .stcs => 4 | .xlc => 5 | .engc => 6
def Counter.ofCode (n : Nat) : Option Counter := [Counter.ldc, .stct, .stcd, .stck, .stcs, .xlc, .engc][n]?

def LCmp.code : LCmp → Nat | .eq => 0 | .ne => 1 | .lts => 2 | .ges => 3 | .ltu => 4 | .geu => 5 | .chg => 6
def LCmp.ofCode (n : Nat) : Option LCmp := [LCmp.eq, .ne, .lts, .ges, .ltu, .geu, .chg][n]?

def Cond.code : Cond → Nat | .eq => 0 | .ne => 1 | .lt => 2 | .le => 3 | .gt => 4 | .ge => 5 | .un => 6 | .ord => 7
def Cond.ofCode (n : Nat) : Option Cond := [Cond.eq, .ne, .lt, .le, .gt, .ge, .un, .ord][n]?

def ROp.code : ROp → Nat | .add => 0 | .min => 1 | .max => 2 | .and => 3 | .or => 4 | .xor => 5
def ROp.ofCode (n : Nat) : Option ROp := [ROp.add, .min, .max, .and, .or, .xor][n]?

def BCond.code : BCond → Nat | .always => 0 | .nz => 1 | .z => 2
def BCond.ofCode (n : Nat) : Option BCond := [BCond.always, .nz, .z][n]?

def KMode.code : KMode → Nat | .slot => 0 | .walk => 1 | .frag => 2
def KMode.ofCode (n : Nat) : Option KMode := [KMode.slot, .walk, .frag][n]?

def LitSel.code : LitSel → Nat | .a => 0 | .b => 1 | .c => 2
def LitSel.ofCode (n : Nat) : Option LitSel := [LitSel.a, .b, .c][n]?

def LitKind.code : LitKind → Nat | .zext => 0 | .sext => 1 | .f32 => 2 | .f64 => 3
def LitKind.ofCode (n : Nat) : Option LitKind := [LitKind.zext, .sext, .f32, .f64][n]?

/-- The paired opcodes (R172). -/
def POp.code : POp → Nat
  | .add => 0x00 | .sub => 0x01 | .mul => 0x02 | .min => 0x03 | .max => 0x04 | .addsat => 0x05 | .subsat => 0x06
  | .absdiff => 0x07 | .and => 0x08 | .or => 0x09 | .xor => 0x0A | .andn => 0x0B | .shl => 0x0C | .shr => 0x0D
  | .sar => 0x0E | .mov => 0x0F | .fadd => 0x10 | .fsub => 0x11 | .fmul => 0x12 | .fmin => 0x13 | .fmax => 0x14
  | .fneg => 0x15 | .fabs => 0x16 | .neg => 0x17
def POp.ofCode (n : Nat) : Option POp :=
  [POp.add, .sub, .mul, .min, .max, .addsat, .subsat, .absdiff, .and, .or, .xor, .andn, .shl, .shr, .sar, .mov,
   .fadd, .fsub, .fmul, .fmin, .fmax, .fneg, .fabs, .neg][n]?

/-- The full opcode whose row a paired half follows (R172). -/
def POp.full : POp → Nat
  | .add => 0x080 | .sub => 0x081 | .mul => 0x084 | .min => 0x08C | .max => 0x08D | .addsat => 0x082 | .subsat => 0x083
  | .absdiff => 0x08F | .and => 0x090 | .or => 0x091 | .xor => 0x092 | .andn => 0x094 | .shl => 0x095 | .shr => 0x096
  | .sar => 0x097 | .mov => 0x0A2 | .fadd => 0x0A5 | .fsub => 0x0A6 | .fmul => 0x0A7 | .fmin => 0x0AB | .fmax => 0x0AC
  | .fneg => 0x0AE | .fabs => 0x0AD | .neg => 0x08A

/-- An optional register number below 15, with code 15 for none (R163, R167, R203, R323). -/
def p15Code : Option (Fin 15) → Nat
  | some n => n.val
  | none => 15
def p15Of (n : Nat) : Option (Fin 15) := if h : n < 15 then some ⟨n, h⟩ else none

/-- The 10-bit code of an operand (R156, R164). -/
def Opd.code : Opd → BitVec 10
  | .v n => BitVec.ofNat 10 n.val
  | .zero => 320
  | .laneid => 321
  | .waveid => 322
  | .teamid => 323
  | .teamsize => 324
  | .accdrain => 325
  | .active => 326
  | .flags => 327
  | .acc n => BitVec.ofNat 10 (336 + n.val)
  | .p n => BitVec.ofNat 10 (352 + n.val)
  | .palways => 367
  | .s n => BitVec.ofNat 10 (512 + n.val)
  | .imm x => BitVec.ofNat 10 (768 + (x.toNat + 128) % 256)
  | .rsv c => c

/-- The operand that a 10-bit code names (R156, R164): constants hold the field minus 896. -/
def Opd.ofCode (c : BitVec 10) : Opd :=
  let n := c.toNat
  if h : n < 320 then .v ⟨n, h⟩
  else if n = 320 then .zero
  else if n = 321 then .laneid
  else if n = 322 then .waveid
  else if n = 323 then .teamid
  else if n = 324 then .teamsize
  else if n = 325 then .accdrain
  else if n = 326 then .active
  else if n = 327 then .flags
  else if h : 336 ≤ n ∧ n < 352 then .acc ⟨n - 336, by omega⟩
  else if h : 352 ≤ n ∧ n < 367 then .p ⟨n - 352, by omega⟩
  else if n = 367 then .palways
  else if h : 512 ≤ n ∧ n < 768 then .s ⟨n - 512, by omega⟩
  else if 768 ≤ n then .imm (BitVec.ofNat 8 (n - 768 + 128))
  else .rsv c

/-! ### The fields of an instruction (R163, R186, R213, R239, R255, R297, R323) -/

/-- The fields of a full word: opcode, operands, mod, the contents of b and c where they are control fields, and the
types that the checks of R173 look at. -/
structure Parts where
  op : Nat
  ops : Ops
  mod : BitVec 7 := 0
  b : BitVec 10 := 0
  c : BitVec 10 := 0
  own : Option VTy := none
  src : Option VTy := none
  mem : Option MMod := none
deriving DecidableEq, Repr

namespace Parts

def pA (op : Nat) (o : Ops) (t : VTy) : Parts :=
  { op, ops := o, mod := BitVec.ofNat 7 (t.ty.code * 4 + t.cnt.code), own := some t }
def pM (op : Nat) (o : Ops) (m : MMod) : Parts :=
  { op, ops := o, mod := BitVec.ofNat 7 (m.scope.code * 16 + m.ty.code), own := some ⟨m.ty.ety, .x1⟩, mem := some m }
def pE (op : Nat) (o : Ops) : Parts := { op, ops := o }
/-- The 20-bit word offset of bits 31:12 (R323). -/
def pOff (p : Parts) (off : BitVec 20) : Parts :=
  { p with b := BitVec.ofNat 10 (off.toNat / 1024), c := BitVec.ofNat 10 (off.toNat % 1024) }

def mBool (x : Bool) : BitVec 7 := if x then 1 else 0
def mTy (t : ETy) : BitVec 7 := BitVec.ofNat 7 (t.code * 4)
def mWaitu (c : LCmp) (wide : Bool) : BitVec 7 := BitVec.ofNat 7 (c.code * 8 + wide.toNat * 4)
def mBr (c : BCond) (h : Bool) : BitVec 7 := BitVec.ofNat 7 (c.code * 2 + h.toNat)
def cBool (x : Bool) : BitVec 10 := if x then 1 else 0
def cWords (k : BitVec 3) : BitVec 10 := k.zeroExtend 10
def cTb (tb : BitVec 6) : BitVec 10 := tb.zeroExtend 10
def cW (w : WCtl) : BitVec 10 := BitVec.ofNat 10 (w.tb.toNat + w.z.toNat * 64)
def cStat9 (st : Option (Fin 15)) : BitVec 10 := BitVec.ofNat 10 (p15Code st * 64)
def cStat (st : Option (Fin 15)) : BitVec 10 := BitVec.ofNat 10 (p15Code st)
def cCond (c : Cond) (any : Bool) : BitVec 10 := BitVec.ofNat 10 (c.code + any.toNat * 8)
def cSrc (t : VTy) : BitVec 10 := BitVec.ofNat 10 (t.ty.code + t.cnt.code * 32)
def cMode : SMode → BitVec 10
  | .code => 0
  | .bitmap tb => BitVec.ofNat 10 (1 + tb.toNat * 4)
  | .pruned => 2
def cMpget (idx : BitVec 4) (stop : Bool) : BitVec 10 :=
  BitVec.ofNat 10 (idx.toNat % 8 + stop.toNat * 8 + idx.toNat / 8 * 16)
def cBwalk (tb : BitVec 6) (scr keep : Bool) : BitVec 10 :=
  BitVec.ofNat 10 (tb.toNat + scr.toNat * 64 + keep.toNat * 128)
def cBpop (st : Option (Fin 15)) (nw : Bool) : BitVec 10 := BitVec.ofNat 10 (p15Code st + nw.toNat * 16)
def cBarget (idx : Fin 5) (part : Bool) : BitVec 10 := BitVec.ofNat 10 (idx.val + part.toNat * 8)
def cMscb (entry : BitVec 2) (op : Nat) : BitVec 10 := BitVec.ofNat 10 (entry.toNat + op * 4)

end Parts

open Parts in
/-- The fields of every full instruction; none for the paired word, the clause header and the events. -/
def Instr.parts : Instr → Option Parts
  | .ld o m => some (pM 0x000 o m)
  | .st o m => some (pM 0x001 o m)
  | .ldsc o m words => some { pM 0x002 o m with c := cWords words }
  | .stsc o m words => some { pM 0x003 o m with c := cWords words }
  | .lds o m => some (pM 0x004 o m)
  | .sts o m => some (pM 0x005 o m)
  | .ldt o m tb => some { pM 0x006 o m with c := cTb tb }
  | .stt o m tb => some { pM 0x007 o m with c := cTb tb }
  | .ldbc o m => some (pM 0x008 o m)
  | .pref o m => some (pM 0x009 o m)
  | .aadd o m => some (pM 0x00A o m)
  | .amin o m => some (pM 0x00B o m)
  | .amax o m => some (pM 0x00C o m)
  | .aand o m => some (pM 0x00D o m)
  | .aor o m => some (pM 0x00E o m)
  | .axor o m => some (pM 0x00F o m)
  | .aexch o m => some (pM 0x010 o m)
  | .acas o m => some (pM 0x011 o m)
  | .redadd o m => some (pM 0x012 o m)
  | .redmin o m => some (pM 0x013 o m)
  | .redmax o m => some (pM 0x014 o m)
  | .redand o m => some (pM 0x015 o m)
  | .redor o m => some (pM 0x016 o m)
  | .redxor o m => some (pM 0x017 o m)
  | .badd o m => some (pM 0x018 o m)
  | .bread o m => some (pM 0x019 o m)
  | .gath o m => some (pM 0x01A o m)
  | .scat o m => some (pM 0x01B o m)
  | .scatr o m => some (pM 0x01C o m)
  | .waitc o ctr => some { pE 0x01D o with mod := BitVec.ofNat 7 ctr.code }
  | .waitu o cmp wide sp => some { pE 0x01E o with mod := mWaitu cmp wide, c := cStat9 sp }
  | .copy o => some (pE 0x01F o)
  | .stream o eng => some { pE 0x020 o with mod := mBool eng }
  | .tnset o tid => some { pE 0x021 o with c := tid.zeroExtend 10 }
  | .tnget o tid => some { pE 0x022 o with c := tid.zeroExtend 10 }
  | .ttrdy o tb => some { pE 0x023 o with c := cTb tb }
  | .ttrel o tb => some { pE 0x024 o with c := cTb tb }
  | .ttsub o tb => some { pE 0x025 o with c := cTb tb }
  | .ttstop o eng => some { pE 0x026 o with mod := mBool eng }
  | .ttget o tb => some { pE 0x027 o with c := cTb tb }
  | .trav o => some (pE 0x028 o)
  | .add o t => some (pA 0x080 o t)
  | .sub o t => some (pA 0x081 o t)
  | .addsat o t => some (pA 0x082 o t)
  | .subsat o t => some (pA 0x083 o t)
  | .mul o t => some (pA 0x084 o t)
  | .mulhi o t => some (pA 0x085 o t)
  | .mad o t => some (pA 0x086 o t)
  | .madw o t => some (pA 0x087 o t)
  | .div o t => some (pA 0x088 o t)
  | .rem o t => some (pA 0x089 o t)
  | .neg o t => some (pA 0x08A o t)
  | .abs o t => some (pA 0x08B o t)
  | .min o t => some (pA 0x08C o t)
  | .max o t => some (pA 0x08D o t)
  | .clamp o t => some (pA 0x08E o t)
  | .absdiff o t => some (pA 0x08F o t)
  | .and o t => some (pA 0x090 o t)
  | .or o t => some (pA 0x091 o t)
  | .xor o t => some (pA 0x092 o t)
  | .not o t => some (pA 0x093 o t)
  | .andn o t => some (pA 0x094 o t)
  | .shl o t => some (pA 0x095 o t)
  | .shr o t => some (pA 0x096 o t)
  | .sar o t => some (pA 0x097 o t)
  | .rotl o t => some (pA 0x098 o t)
  | .funshr o t => some (pA 0x099 o t)
  | .bfx o t => some (pA 0x09A o t)
  | .bfi o t => some (pA 0x09B o t)
  | .popc o t => some (pA 0x09C o t)
  | .clz o t => some (pA 0x09D o t)
  | .ctz o t => some (pA 0x09E o t)
  | .brev o t => some (pA 0x09F o t)
  | .permb o t => some (pA 0x0A0 o t)
  | .sel o t => some (pA 0x0A1 o t)
  | .mov o t => some (pA 0x0A2 o t)
  | .lea o t => some (pA 0x0A3 o t)
  | .icmp o t cond any => some { pA 0x0A4 o t with c := cCond cond any }
  | .fadd o t => some (pA 0x0A5 o t)
  | .fsub o t => some (pA 0x0A6 o t)
  | .fmul o t => some (pA 0x0A7 o t)
  | .fma o t => some (pA 0x0A8 o t)
  | .fms o t => some (pA 0x0A9 o t)
  | .fnma o t => some (pA 0x0AA o t)
  | .fmin o t => some (pA 0x0AB o t)
  | .fmax o t => some (pA 0x0AC o t)
  | .fabs o t => some (pA 0x0AD o t)
  | .fneg o t => some (pA 0x0AE o t)
  | .fdiv o t => some (pA 0x0AF o t)
  | .fsqrt o t => some (pA 0x0B0 o t)
  | .frcp o t => some (pA 0x0B1 o t)
  | .frsq o t => some (pA 0x0B2 o t)
  | .fexp2 o t => some (pA 0x0B3 o t)
  | .flog2 o t => some (pA 0x0B4 o t)
  | .fsin o t => some (pA 0x0B5 o t)
  | .fcos o t => some (pA 0x0B6 o t)
  | .ftanh o t => some (pA 0x0B7 o t)
  | .fsigm o t => some (pA 0x0B8 o t)
  | .frnd o t => some (pA 0x0B9 o t)
  | .ffrac o t => some (pA 0x0BA o t)
  | .fcmp o t cond any => some { pA 0x0BB o t with c := cCond cond any }
  | .fclass o t any => some { pA 0x0BC o t with c := cBool any }
  | .fdot2 o t => some (pA 0x0BD o t)
  | .fdot4 o t => some (pA 0x0BE o t)
  | .fscale o t => some (pA 0x0BF o t)
  | .fcvt o t src => some { pA 0x0C0 o t with c := cSrc src, src := some src }
  | .ftoi o t src => some { pA 0x0C1 o t with c := cSrc src, src := some src }
  | .itof o t src => some { pA 0x0C2 o t with c := cSrc src, src := some src }
  | .icvt o t src => some { pA 0x0C3 o t with c := cSrc src, src := some src }
  | .pack o t => some (pA 0x0C4 o t)
  | .unpk o t => some (pA 0x0C5 o t)
  | .qcvt o t src => some { pA 0x0C6 o t with c := cSrc src, src := some src }
  | .qdeq o t src => some { pA 0x0C7 o t with c := cSrc src, src := some src }
  | .mxcvt o t => some (pA 0x0C8 o t)
  | .pand o => some (pE 0x0C9 o)
  | .por o => some (pE 0x0CA o)
  | .pxor o => some (pE 0x0CB o)
  | .pandn o => some (pE 0x0CC o)
  | .pset o zero => some { pE 0x0CD o with mod := mBool zero }
  | .shfl o t => some (pA 0x180 o t)
  | .shflx o t => some (pA 0x181 o t)
  | .shflu o t => some (pA 0x182 o t)
  | .shfld o t => some (pA 0x183 o t)
  | .shfls o t => some (pA 0x184 o t)
  | .push o t => some (pA 0x185 o t)
  | .pushs o t => some (pA 0x186 o t)
  | .bcast o t => some (pA 0x187 o t)
  | .voteany o t => some (pA 0x188 o t)
  | .voteall o t => some (pA 0x189 o t)
  | .voteeq o t => some (pA 0x18A o t)
  | .ballot o => some (pE 0x18B o)
  | .pcount o => some (pE 0x18C o)
  | .matchv o t => some (pA 0x18D o t)
  | .scani o t op => some { pA 0x18E o t with c := BitVec.ofNat 10 op.code }
  | .scanx o t op => some { pA 0x18F o t with c := BitVec.ofNat 10 op.code }
  | .wred o t op => some { pA 0x190 o t with c := BitVec.ofNat 10 op.code }
  | .wredv o t op => some { pA 0x191 o t with c := BitVec.ofNat 10 op.code }
  | .segscan o t op => some { pA 0x192 o t with c := BitVec.ofNat 10 op.code }
  | .compact o t => some (pA 0x193 o t)
  | .firstl o => some (pE 0x194 o)
  | .mbind o => some (pE 0x1C0 o)
  | .mzero o => some (pE 0x1C1 o)
  | .mldw o tb => some { pE 0x1C2 o with b := cTb tb }
  | .mswap o => some (pE 0x1C3 o)
  | .mma o w => some { pE 0x1C4 o with b := cW w }
  | .mmas o w mode => some { pE 0x1C5 o with b := cW w, c := cMode mode }
  | .mmaq o w => some { pE 0x1C6 o with b := cW w }
  | .mmax o ty w entry => some { pE 0x1C7 o with mod := mTy ty, b := cW w, c := entry.zeroExtend 10 }
  | .mrdy o entry => some { pE 0x1C8 o with c := entry.zeroExtend 10 }
  | .mdrn o => some (pE 0x1C9 o)
  | .mdrnc o => some (pE 0x1CA o)
  | .msta o tb rz => some { pE 0x1CB o with b := cW ⟨tb, rz⟩ }
  | .mlda o tb => some { pE 0x1CC o with b := cTb tb }
  | .mpget o idx stop => some { pE 0x1CD o with c := cMpget idx stop }
  | .mpset o => some (pE 0x1CE o)
  | .mscbSet o entry => some { pE 0x1CF o with c := cMscb entry 0 }
  | .mscbRead o entry => some { pE 0x1CF o with c := cMscb entry 1 }
  | .mscbWrite o entry => some { pE 0x1CF o with c := cMscb entry 2 }
  | .mpair o paired => some { pE 0x1D0 o with c := cBool paired }
  | .munbind o => some (pE 0x1D1 o)
  | .mscale o => some (pE 0x1D2 o)
  | .mcvt o toInt => some { pE 0x1D3 o with c := cBool toInt }
  | .bmake o => some (pE 0x200 o)
  | .bmakea o => some (pE 0x201 o)
  | .bwalk o tb scr keep => some { pE 0x202 o with c := cBwalk tb scr keep }
  | .bsplit o write => some { pE 0x203 o with c := cBool write }
  | .bpop o sp nowait => some { pE 0x204 o with c := cBpop sp nowait }
  | .brefl o => some (pE 0x205 o)
  | .bkalloc o => some (pE 0x206 o)
  | .bkfree o => some (pE 0x207 o)
  | .bkget o mode => some { pE 0x208 o with c := BitVec.ofNat 10 mode.code }
  | .bkput o mode => some { pE 0x209 o with c := BitVec.ofNat 10 mode.code }
  | .bovf o => some (pE 0x20A o)
  | .bstatRead o => some { pE 0x20B o with c := 0 }
  | .bstatStop o => some { pE 0x20B o with c := 1 }
  | .bstatResume o => some { pE 0x20B o with c := 2 }
  | .br o cond hint off => some (pOff { pE 0x220 o with mod := mBr cond hint } off)
  | .bri o cond hint => some { pE 0x221 o with mod := mBr cond hint }
  | .call o hint off => some (pOff { pE 0x222 o with mod := mBool hint } off)
  | .calli o hint => some { pE 0x223 o with mod := mBool hint }
  | .ret o hint => some { pE 0x224 o with mod := mBool hint }
  | .rejoin o => some (pE 0x225 o)
  | .exit o => some (pE 0x226 o)
  | .nop o => some (pE 0x227 o)
  | .bar o idx => some { pE 0x228 o with c := idx.zeroExtend 10 }
  | .barl o => some (pE 0x229 o)
  | .bara o idx => some { pE 0x22A o with c := idx.zeroExtend 10 }
  | .barget o idx part => some { pE 0x22B o with c := cBarget idx part }
  | .barset o idx part => some { pE 0x22C o with c := cBarget idx part }
  | .spawn o => some (pE 0x22D o)
  | .spawnl o => some (pE 0x22E o)
  | .qput o => some (pE 0x22F o)
  | .qtake o sp => some { pE 0x230 o with c := cStat sp }
  | .qsteal o sp => some { pE 0x231 o with c := cStat sp }
  | .tasknew o nreg => some { pE 0x232 o with mod := BitVec.ofNat 7 nreg.val }
  | .taskdec o => some (pE 0x233 o)
  | .suspend o nreg => some { pE 0x234 o with mod := BitVec.ofNat 7 nreg.val }
  | .trap o code => some { pE 0x235 o with mod := code }
  | .srget o num => some { pE 0x236 o with c := num }
  | .srset o num => some { pE 0x237 o with c := num }
  | .divget o => some (pE 0x238 o)
  | .divset o => some (pE 0x239 o)
  | .flgget o => some (pE 0x23A o)
  | .flgset o => some (pE 0x23B o)
  | .lsdet o => some (pE 0x23C o)
  | .lsatt o => some (pE 0x23D o)
  | .pcget o off => some (pOff (pE 0x23E o) off)
  | .clkget o => some (pE 0x23F o)
  | .yield o => some (pE 0x240 o)
  | .brkpt o code => some { pE 0x241 o with mod := code }
  | .pwrhint o code => some { pE 0x242 o with mod := code.zeroExtend 7 }
  | .ratio o code => some { pE 0x243 o with mod := code.zeroExtend 7 }
  | .seqget o => some (pE 0x244 o)
  | .seqset o => some (pE 0x245 o)
  | _ => none

/-- The row of an instruction: its opcode's, but for the operands that a code of its own leaves unused. -/
def Instr.row (i : Instr) (p : Parts) : Row :=
  let r := Row.of p.op
  match i with
  | .mscbRead _ _ => { r with a := .none }
  | .mcvt _ true => { r with a := .none }
  | .br _ .always _ _ => { r with a := .none }
  | .bri _ .always _ => { r with b := .none }
  | .bkget _ .frag => { r with a := .none }
  | .bkput _ .frag => { r with b := .none }
  | _ => r

/-! ### Step 3 of R173: ILLEGAL_INSTRUCTION -/

/-- The scopes and types of R187. -/
def memOk (op : Nat) (m : MMod) : Bool :=
  let ks := m.scope == .k || m.scope == .s
  let dks := m.scope == .d || ks
  let w := m.ty.ety
  let addT := m.ty == .i32 || m.ty == .i64 || m.ty == .n32 || m.ty == .n64
  let mmT := addT || m.ty == .f32 || m.ty == .f64
  let bT := m.ty == .b32 || m.ty == .b64
  if op == 0x000 || op == 0x001 || op == 0x008 then true
  else if op == 0x002 || op == 0x003 then m.ty == .b64
  else if 0x004 ≤ op && op ≤ 0x007 then m.scope == .t
  else if op == 0x009 then m.ty == .b64 && (m.scope == .t || m.scope == .d || m.scope == .k)
  else if op == 0x00A || op == 0x012 then ks && addT
  else if op == 0x00B || op == 0x00C || op == 0x013 || op == 0x014 then ks && mmT
  else if (0x00D ≤ op && op ≤ 0x011) || (0x015 ≤ op && op ≤ 0x017) then ks && bT
  else if op == 0x018 || op == 0x019 then ks && w.isFp
  else if op == 0x01A || op == 0x01B then dks && m.ty == .b64
  else dks && (mmT || bT || w.isFp)

/-- The type sets of R213 and R239. -/
def tyOk (op : Nat) (t : VTy) : Bool :=
  let i := t.ty.isInt
  let b := t.ty.isBit
  let f := t.ty.isFp
  let full := t.ty.width * t.cnt.n == 64
  t.exist &&
  (if op == 0x087 then i && t.ty.width * t.cnt.n == 32
   else if op == 0x08B then t.ty.isSigned
   else if op ≤ 0x08F then i
   else if op ≤ 0x094 then b
   else if op ≤ 0x098 then i
   else if op == 0x099 then b
   else if op == 0x09A then i && 32 ≤ t.ty.width
   else if op ≤ 0x09F then b
   else if op == 0x0A0 then t.ty == .b64
   else if op ≤ 0x0A2 then b
   else if op == 0x0A3 then i && 32 ≤ t.ty.width && t.cnt == .x1
   else if op == 0x0A4 then i
   else if op ≤ 0x0B2 then f
   else if op ≤ 0x0B8 then f && t.ty != .f64
   else if op ≤ 0x0BB then f
   else if op == 0x0BC then t.ty.isCvt
   else if op == 0x0BD then (t.ty == .f16 || t.ty == .bf16) && t.cnt == .x4
   else if op == 0x0BE then (t.ty.isNarrow || t.ty == .i8 || t.ty == .n8) && t.cnt == .x8
   else if op == 0x0BF then f
   else if op == 0x0C0 then t.ty.isCvt
   else if op == 0x0C1 then i
   else if op == 0x0C2 then f || t.ty.isNarrow
   else if op == 0x0C3 then i
   else if op == 0x0C4 then i && t.ty.width ≤ 32 && full
   else if op == 0x0C5 then i && 16 ≤ t.ty.width && full
   else if op == 0x0C6 then t.ty == .q4 || t.ty == .q8
   else if op == 0x0C7 then f
   else if op == 0x0C8 then (t.ty == .mxi8 || t.ty.isNarrow) && t.cnt == .x8
   else if op == 0x185 then t.ty == .b64
   else if op == 0x188 || op == 0x189 then b && t.cnt == .x1
   else if op == 0x18A then i || b
   else if op == 0x18D then (i || b) && 32 ≤ t.ty.width && t.cnt == .x1
   else if 0x18E ≤ op && op ≤ 0x192 then i || b || f
   else true)

/-- The source types of the conversions (R235, R237). -/
def srcOk (op : Nat) (t : VTy) : Bool :=
  t.exist &&
  (if op == 0x0C0 then t.ty.isCvt
   else if op == 0x0C1 then t.ty.isFp || t.ty.isNarrow
   else if op == 0x0C2 then t.ty.isInt
   else if op == 0x0C3 then t.ty.isInt
   else if op == 0x0C6 then t.ty.isFp || t.ty.isNarrow
   else t.ty == .q4 || t.ty == .q8)

/-- The numbers of the special registers that SRGET reads, and those that SRSET writes (R344). -/
def srReads (n : Nat) : Bool := n < 4 || (0x10 ≤ n && n < 0x1C) || n == 0x20 || n == 0x21 || n == 0x22 || n == 0x28
def srWrites (n : Nat) : Bool := n < 4 || (0x10 ≤ n && n < 0x1C) || n == 0x28

/-- The modifiers that only one instruction checks. -/
def Instr.modOk : Instr → Bool
  | .icmp _ _ c _ => c != .un && c != .ord
  | .scani _ t op | .scanx _ t op | .wred _ t op | .wredv _ t op | .segscan _ t op =>
      match op with
      | .add | .min | .max => t.ty.isInt || t.ty.isFp
      | _ => t.ty.isInt || t.ty.isBit
  | .srget _ n => srReads n.toNat
  | .srset _ n => srWrites n.toNat
  | .mmax _ ty _ _ => ty.isNarrow || ty == .bf16 || ty == .f16 || ty == .f32 || ty == .i8 || ty == .n8
  | _ => true

/-- Whether a literal of the kind may stand for an element of the type (R169). -/
def ETy.litOk (t : ETy) (k : LitKind) : Bool :=
  match t with
  | .f32 => k == .f32
  | .f64 => k == .f64
  | .f16 | .bf16 | .e5m2 | .e4m3 | .e8m0 => k == .zext
  | t => (t.isInt || t.isBit) && (k == .zext || k == .sext)

def LitRule.ok (r : LitRule) (own src : Option VTy) (k : LitKind) : Bool :=
  match r with
  | .no => false
  | .int => k == .zext || k == .sext
  | .own => own.any (·.ty.litOk k)
  | .src => src.any (·.ty.litOk k)
  | .f32 => if own.any (·.ty.isInt) then k == .zext || k == .sext else k == .f32
  | .bf16 => ETy.bf16.litOk k

/-- The literal rule of the operand a literal names. -/
def Lead.rule (l : Lead) : LitSel → LitRule
  | .a => l.la
  | .b => l.lb
  | .c => l.lc

def Ops.field (o : Ops) : LitSel → Opd
  | .a => o.a
  | .b => o.b
  | .c => o.c

/-- The operand that the literal of an instruction replaces. -/
def Ops.litSel (o : Ops) : Option LitSel := o.pfx.bind fun p => p.lit.map Lit.sel

/-- A word of the vector group whose d names a scalar register (R165). -/
def Parts.scalarForm (p : Parts) : Bool :=
  0x080 ≤ p.op && p.op < 0x180 && (match p.ops.d with | .s _ => true | _ => false)

/-- A MOV that writes a predicate whole (R224). -/
def Parts.movPred (p : Parts) : Bool :=
  p.op == 0x0A2 && (match p.ops.d with | .p _ => true | _ => false)

/-- The checks of the word that leads a full word (R168, R169, R211, R215, R240). -/
def leadOk (i : Instr) (p : Parts) (r : Row) : Bool :=
  match p.ops.pfx with
  | none => true
  | some x =>
    r.lead.lead && !p.movPred
    && (x.rnd == .rne || (r.lead.rnd &&
        (p.op < 0x180 || ((match i with
          | .scani _ _ op | .scanx _ _ op | .wred _ _ op | .wredv _ _ op | .segscan _ _ op => op == .add
          | _ => false) && p.own.any (·.ty.isFp)))))
    && (match x.scope with
        | none => true
        | some sc => r.lead.scope && (match p.mem with | some m => memOk p.op { m with scope := sc } | none => false))
    && (x.e.isNone || r.lead.e.isSome)
    && (match x.lit with
        | none => true
        | some l => (r.lead.rule l.sel).ok p.own p.src l.kind && p.ops.field l.sel == .zero)
    && (!p.scalarForm || (x.mask.isNone && !x.zero))

/-- A field that the row does not use, or uses as a control field, holds no operand (R164). -/
def Use.clear (u : Use) (o : Opd) : Bool :=
  match u with
  | .opd _ => true
  | _ => o == .zero

/-- Step 3 of R173. -/
def stepThree (i : Instr) (p : Parts) (r : Row) : Bool :=
  (!(r.only15 || p.scalarForm || p.movPred) || p.ops.pred == .always)
  && r.d.clear p.ops.d && r.a.clear p.ops.a && r.b.clear p.ops.b && r.c.clear p.ops.c
  && (match p.mem with | some m => memOk p.op m | none => p.own.all (tyOk p.op))
  && p.src.all (srcOk p.op)
  && i.modOk
  && leadOk i p r

/-! ### Step 4 of R173: ILLEGAL_OPERAND -/

/-- The operand of a field, a literal counting as a constant. -/
def Ops.eff (o : Ops) (f : LitSel) : Opd := if o.litSel == some f then .imm 0 else o.field f

def Use.opdOk (u : Use) (o : Opd) : Bool :=
  match u with
  | .opd k => k.ok o
  | _ => true

/-- The sources of a word, literals counting as constants. -/
def Parts.sources (p : Parts) (r : Row) : List Opd :=
  (match r.a with | .opd _ => [p.ops.eff .a] | _ => []) ++ (match r.b with | .opd _ => [p.ops.eff .b] | _ => [])
  ++ (match r.c with | .opd _ => [p.ops.eff .c] | _ => [])
  ++ (match p.ops.pfx with | some x => x.e.toList | none => [])

/-- A memory access made once for the wave (R165): none of its operands is a vector register, LANEID or ACCDRAIN. -/
def Parts.scalarAccess (p : Parts) (r : Row) : Bool :=
  p.op < 0x080 && (match r.d with | .opd _ => p.ops.d.uniform | _ => true) && (p.sources r).all Opd.uniform

/-- The operand rules that only some opcodes have (R156, R165, R194, R199, R224, R238). -/
def moreOpd (p : Parts) (r : Row) : Bool :=
  let src := p.sources r
  let isS : Opd → Bool := fun o => match o with | .s _ => true | _ => false
  ((p.ops.d :: src).count .accdrain ≤ 1)
  && (!(p.scalarForm || p.movPred) || src.all Opd.uniform)
  && (!(p.op < 0x080 && p.op != 0x003 && p.op != 0x007 && isS p.ops.d) || src.all Opd.uniform)
  && (!(p.op == 0x011 && isS p.ops.b) || (p.ops.eff .a).uniform)
  && (!(p.op == 0x0C8) || p.ops.c != p.ops.d)

/-- Step 4 of R173. -/
def stepFour (p : Parts) (r : Row) : Bool :=
  r.d.opdOk p.ops.d && r.a.opdOk (p.ops.eff .a) && r.b.opdOk (p.ops.eff .b) && r.c.opdOk (p.ops.eff .c)
  && (match p.ops.pfx with
      | some x => (match x.e, r.lead.e with | some o, some k => k.ok o | _, _ => true)
      | none => true)
  && moreOpd p r

/-! ### The other forms -/

/-- A type and count that the full instruction of a half's name accepts (R171, R214). -/
def Half.ok (h : Half) : Bool := tyOk h.op.full h.t

/-- The conditions of R171 on two halves. -/
def pairOk (h1 h2 : Half) : Bool :=
  h1.d.toNat % 4 != h2.d.toNat % 4 && h1.a != h2.d && h2.a != h1.d && h1.ok && h2.ok

/-- The conditions of R160 on a header. -/
def Header.ok (h : Header) : Bool := h.len != 0 && (h.seta.isNone || h.seta != h.setb)

/-- The full opcodes that are assigned (R174). -/
def opAssigned (op : Nat) : Bool :=
  op ≤ 0x028 || (0x080 ≤ op && op ≤ 0x0CD) || (0x180 ≤ op && op ≤ 0x194) || (0x1C0 ≤ op && op ≤ 0x1D3)
  || (0x200 ≤ op && op ≤ 0x20B) || (0x220 ≤ op && op ≤ 0x245)

/-- A full or paired word whose opcode is not assigned (R172, R174). -/
def unassigned (w : Word) : Bool :=
  let form := bits w 63 62
  (form == 0 && !opAssigned (bits w 61 52)) || (form == 1 && !(bits w 61 55 < 0x18 && bits w 30 24 < 0x18))

/-- The first check of R173, steps 3 and 4, that an instruction fails; an event has nothing to check. -/
def Instr.check (i : Instr) : Option DecErr :=
  match i with
  | .pairedWord h1 h2 => if pairOk h1 h2 then none else some .illegalInstruction
  | .clauseHeaderPass h => if h.ok then none else some .illegalInstruction
  | .unassignedOpcode w => if unassigned w then none else some .illegalInstruction
  | i =>
    match i.parts with
    | none => none
    | some p =>
      let r := i.row p
      if !stepThree i p r then some .illegalInstruction
      else if !stepFour p r then some .illegalOperand
      else none

end Sys2Proof
end

