-- ==== Sys2Proof/Machine/Float.lean ====
section
/-! DEFINITION. Floating-point formats, exact values and rounding (07_number_formats.md R108 to R121). A value is a
NaN, an infinity, or an exact number; an operation forms its exact result and `roundTo` rounds it once. -/

namespace Sys2Proof.Machine

/-- The sticky flags NV, OF, UF, NX, SKNF as bits 0 to 4 (R115). -/
abbrev Fl := BitVec 8
def Fl.nv : Fl := 1
def Fl.of : Fl := 2
def Fl.uf : Fl := 4
def Fl.nx : Fl := 8
def Fl.sknf : Fl := 16

/-- An exact number of magnitude q × 2^e, or with `sticky` one strictly between q × 2^e and (q + 1) × 2^e. -/
structure Ex where
  neg : Bool
  q : Nat
  e : Int
  sticky : Bool := false
deriving DecidableEq, Repr

/-- A value: a NaN, signalling or not, an infinity or a number (R108). -/
inductive Val
  | nan (neg sig : Bool)
  | inf (neg : Bool)
  | num (x : Ex)
deriving DecidableEq, Repr

/-- A format of R108: exponent and mantissa bits, bias, and which special codes it has. -/
structure Fmt where
  eb : Nat
  mb : Nat
  bias : Int
  /-- infinities and NaN codes as in .f64 -/
  ieee : Bool
  /-- the one NaN magnitude of .e4m3 -/
  nan7F : Bool := false
deriving DecidableEq, Repr

/-- The format of a floating-point type; .e8m0 and the integer types have none. -/
def fmtOf : ETy → Option Fmt
  | .f64 => some { eb := 11, mb := 52, bias := 1023, ieee := true }
  | .f32 => some { eb := 8, mb := 23, bias := 127, ieee := true }
  | .f16 => some { eb := 5, mb := 10, bias := 15, ieee := true }
  | .bf16 => some { eb := 8, mb := 7, bias := 127, ieee := true }
  | .e5m2 => some { eb := 5, mb := 2, bias := 15, ieee := true }
  | .e4m3 => some { eb := 4, mb := 3, bias := 7, ieee := false, nan7F := true }
  | .e3m2 => some { eb := 3, mb := 2, bias := 3, ieee := false }
  | .e2m3 => some { eb := 2, mb := 3, bias := 1, ieee := false }
  | .e2m1 => some { eb := 2, mb := 1, bias := 1, ieee := false }
  | _ => none

namespace Fmt

def width (f : Fmt) : Nat := 1 + f.eb + f.mb
/-- The exponent of the smallest normal. -/
def emin (f : Fmt) : Int := 1 - f.bias
def sign (f : Fmt) (neg : Bool) : Nat := if neg then 2 ^ (f.eb + f.mb) else 0
/-- The code of the largest finite magnitude. -/
def maxCode (f : Fmt) : Nat :=
  if f.ieee then (2 ^ f.eb - 1) * 2 ^ f.mb - 1 else if f.nan7F then 2 ^ (f.eb + f.mb) - 2 else 2 ^ (f.eb + f.mb) - 1
def infCode (f : Fmt) (neg : Bool) : Nat := f.sign neg + (2 ^ f.eb - 1) * 2 ^ f.mb
/-- The signed canonical NaN (R109); the largest magnitude in a format without one (R122). -/
def nanCode (f : Fmt) (neg : Bool) : Nat :=
  f.sign neg + (if f.ieee then (2 ^ f.eb - 1) * 2 ^ f.mb + 2 ^ (f.mb - 1) else 2 ^ (f.eb + f.mb) - 1)
/-- The exact number of a magnitude code that is no special code. -/
def magnitude (f : Fmt) (neg : Bool) (m : Nat) : Ex :=
  if m < 2 ^ f.mb then { neg, q := m, e := f.emin - f.mb }
  else { neg, q := m % 2 ^ f.mb + 2 ^ f.mb, e := f.emin - f.mb + (m / 2 ^ f.mb - 1 : Nat) }
/-- Whether a code is subnormal. -/
def subnormal (f : Fmt) (c : Nat) : Bool :=
  let m := c % 2 ^ (f.eb + f.mb)
  m != 0 && m < 2 ^ f.mb

/-- The value of a code (R108, R109). -/
def decode (f : Fmt) (c : Nat) : Val :=
  let neg := c / 2 ^ (f.eb + f.mb) % 2 == 1
  let m := c % 2 ^ (f.eb + f.mb)
  if f.ieee && m / 2 ^ f.mb == 2 ^ f.eb - 1 then
    if m % 2 ^ f.mb == 0 then .inf neg else .nan neg (m % 2 ^ f.mb < 2 ^ (f.mb - 1))
  else if f.nan7F && m == 2 ^ (f.eb + f.mb) - 1 then .nan neg false
  else .num (f.magnitude neg m)

/-- The value of an operand code, subnormals read as zeros under FZ (R121). -/
def operand (f : Fmt) (fz : Bool) (c : Nat) : Val :=
  if fz && f.eb != 11 && f.subnormal c then .num { neg := c / 2 ^ (f.eb + f.mb) % 2 == 1, q := 0, e := 0 }
  else f.decode c

end Fmt

/-! ### Exact arithmetic -/

namespace Ex

/-- The number as an integer multiple of 2^e, for an e no greater than its own. -/
def scaled (x : Ex) (e : Int) : Int :=
  let m : Int := (x.q * 2 ^ (x.e - e).toNat : Nat)
  if x.neg then -m else m

def isZero (x : Ex) : Bool := x.q == 0 && !x.sticky

def ofInt (i : Int) (e : Int := 0) : Ex := { neg := i < 0, q := i.natAbs, e }

/-- The sum; an exact zero sum of different signs is +0, or −0 under RDN (R118). -/
def add (rdn : Bool) (x y : Ex) : Ex :=
  let e := min x.e y.e
  let s := x.scaled e + y.scaled e
  if s == 0 then { neg := if x.neg == y.neg then x.neg else rdn, q := 0, e } else ofInt s e

def mul (x y : Ex) : Ex := { neg := x.neg != y.neg, q := x.q * y.q, e := x.e + y.e }

def negate (x : Ex) : Ex := { x with neg := !x.neg }

/-- x × 2^k. -/
def scale (x : Ex) (k : Int) : Ex := { x with e := x.e + k }

/-- The quotient to at least 96 bits; y is not zero. -/
def div (x y : Ex) : Ex :=
  if x.q == 0 then { neg := x.neg != y.neg, q := 0, e := 0 }
  else
    let k := 128 + y.q.log2 + 1
    let n := x.q * 2 ^ k
    { neg := x.neg != y.neg, q := n / y.q, e := x.e - y.e - k, sticky := n % y.q != 0 }

/-- The integer square root, by one bit at a time. -/
def isqrt (n : Nat) : Nat :=
  let rec go : Nat → Nat → Nat
    | 0, r => r
    | k + 1, r => let t := r + 2 ^ k; if t * t ≤ n then go k t else go k r
  go (n.log2 / 2 + 1) 0

/-- The square root of a nonnegative number, to at least 96 bits. -/
def sqrt (x : Ex) : Ex :=
  if x.q == 0 then { x with e := 0 }
  else
    let k : Nat := 256 + (if (x.e % 2) == 0 then 0 else 1)
    let n := x.q * 2 ^ k
    let r := isqrt n
    { neg := false, q := r, e := (x.e - k) / 2, sticky := r * r != n || x.sticky }

/-- Whether the magnitude is below, at or above another's. -/
def magLt (x y : Ex) : Bool :=
  let e := min x.e y.e
  x.q * 2 ^ (x.e - e).toNat < y.q * 2 ^ (y.e - e).toNat

/-- Signed order, −0 and +0 equal. -/
def lt (x y : Ex) : Bool :=
  let e := min x.e y.e
  x.scaled e < y.scaled e
def eq (x y : Ex) : Bool :=
  let e := min x.e y.e
  x.scaled e == y.scaled e

/-- The floor of the binary logarithm of a nonzero magnitude. -/
def log2 (x : Ex) : Int := x.q.log2 + x.e

/-- The largest integer not above the number. -/
def floor (x : Ex) : Int :=
  if 0 ≤ x.e then x.scaled 0
  else
    let d : Int := (2 ^ (-x.e).toNat : Nat)
    (x.scaled x.e) / d

end Ex

/-! ### Rounding (R117 to R119) -/

/-- Whether the magnitude n rounds up, where r of 2^sh is left over. -/
def roundUp (mode : Rnd) (rand : Nat) (neg : Bool) (n r sh : Nat) (sticky : Bool) : Bool :=
  let inexact := r != 0 || sticky
  match mode with
  | .rne => sh != 0 && (2 ^ (sh - 1) < r || (r == 2 ^ (sh - 1) && (sticky || n % 2 == 1)))
  | .rz => false
  | .rdn => neg && inexact
  | .rup => !neg && inexact
  | .sr => rand < r * 2 ^ 32 / 2 ^ sh

/-- The magnitude of a number in units of 2^qe, what is left over and its scale. -/
def Ex.split (x : Ex) (qe : Int) : Nat × Nat × Nat :=
  if qe ≤ x.e then (x.q * 2 ^ (x.e - qe).toNat, 0, 0)
  else
    let sh := (qe - x.e).toNat
    (x.q / 2 ^ sh, x.q % 2 ^ sh, sh)

/-- The code that an overflow gives (R118). -/
def overflowCode (f : Fmt) (mode : Rnd) (neg : Bool) : Nat :=
  let big := f.sign neg + f.maxCode
  if !f.ieee then big
  else match mode with
    | .rne | .sr => f.infCode neg
    | .rz => big
    | .rdn => if neg then f.infCode neg else big
    | .rup => if neg then big else f.infCode neg

/-- A number rounded once into a format, with OF and UF, and flushed under FZ (R118, R119, R121). `rand` is the
number rnd of R119. -/
def roundTo (f : Fmt) (fz : Bool) (mode : Rnd) (rand : Nat) (x : Ex) : Nat × Fl :=
  if x.isZero then (f.sign x.neg, 0)
  else
    let big := f.magnitude x.neg f.maxCode
    let above := big.magLt x || (x.sticky && !x.magLt big)
    let mode' := if above && mode == .sr then .rne else mode
    let sub : Int := f.emin - f.mb
    let qe := max (x.log2 - f.mb) sub
    let (n, r, sh) := x.split qe
    let up := roundUp mode' rand x.neg n r sh x.sticky
    let m := n + up.toNat
    let inexact := r != 0 || x.sticky
    let code := (qe - sub).toNat * 2 ^ f.mb + m
    if f.maxCode < code || (!f.ieee && above) then (overflowCode f mode x.neg, .of)
    else
      let tiny := x.log2 < f.emin
      let uf : Fl := if tiny && inexact then .uf else 0
      if fz && f.eb != 11 && code != 0 && code < 2 ^ f.mb then (f.sign x.neg, uf ||| .uf)
      else (f.sign x.neg + code, uf)

/-- A result rounded once into a format; an arithmetic NaN is the canonical one, with sign 0 (R109). -/
def roundVal (f : Fmt) (fz : Bool) (mode : Rnd) (rand : Nat) : Val → Nat × Fl
  | .nan _ _ => (f.nanCode false, 0)
  | .inf neg => if f.ieee then (f.infCode neg, 0) else (f.sign neg + f.maxCode, .of)
  | .num x => roundTo f fz mode rand x

/-! ### Random bits of stochastic rounding (R119) -/

/-- rnd of R119 from the wave's seed and count, the full word's address, the lane and the sub-element. -/
def srBits (seed pc cnt : Word) (lane sub : Nat) : Nat :=
  let x0 : Word := seed ^^^ (pc * 0x9E3779B97F4A7C15#64) ^^^ (cnt <<< 16) ^^^ (BitVec.ofNat 64 lane <<< 3)
    ^^^ BitVec.ofNat 64 sub
  let x1 := (x0 ^^^ (x0 >>> 30)) * 0xBF58476D1CE4E5B9#64
  let x2 := (x1 ^^^ (x1 >>> 27)) * 0x94D049BB133111EB#64
  let x3 := x2 ^^^ (x2 >>> 31)
  (x3 >>> 32).toNat

/-! ### Operations on values (R228 to R233) -/

namespace Val

def isNan : Val → Bool
  | .nan _ _ => true
  | _ => false
def sigNan : Val → Bool
  | .nan _ s => s
  | _ => false
def neg : Val → Bool
  | .nan n _ => n
  | .inf n => n
  | .num x => x.neg
def isZero : Val → Bool
  | .num x => x.isZero
  | _ => false
def isInf : Val → Bool
  | .inf _ => true
  | _ => false
def qnan : Val := .nan false false
def zero (n : Bool) : Val := .num { neg := n, q := 0, e := 0 }
def ofNat (n : Nat) : Val := .num { neg := false, q := n, e := 0 }

/-- NV for a signalling NaN operand (R109). -/
def sigFl (x : Val) : Fl := if x.sigNan then .nv else 0

def negate : Val → Val
  | .nan n s => .nan n s
  | .inf n => .inf (!n)
  | .num x => .num x.negate

/-- IEEE 754-2019 addition, exact; NV for ∞ − ∞ and a signalling NaN. -/
def add (rdn : Bool) (x y : Val) : Val × Fl :=
  match x, y with
  | .num a, .num b => (.num (a.add rdn b), 0)
  | .inf a, .inf b => if a == b then (.inf a, 0) else (qnan, .nv)
  | .inf a, .num _ => (.inf a, 0)
  | .num _, .inf b => (.inf b, 0)
  | _, _ => (qnan, x.sigFl ||| y.sigFl)

/-- IEEE 754-2019 multiplication, exact; NV for 0 × ∞ and a signalling NaN. -/
def mul (x y : Val) : Val × Fl :=
  if x.isNan || y.isNan then (qnan, x.sigFl ||| y.sigFl)
  else match x, y with
    | .num a, .num b => (.num (a.mul b), 0)
    | _, _ => if x.isZero || y.isZero then (qnan, .nv) else (.inf (x.neg != y.neg), 0)

/-- a × b + c with one rounding to come; NV for a product 0 × ∞ even when c is a quiet NaN (R228). -/
def fma (rdn : Bool) (x y z : Val) : Val × Fl :=
  let (p, f) := mul x y
  let (r, g) := add rdn p z
  (r, f ||| g ||| z.sigFl)

/-- The quotient (R230). -/
def div (x y : Val) : Val × Fl :=
  if x.isNan || y.isNan then (qnan, x.sigFl ||| y.sigFl)
  else
    let s := x.neg != y.neg
    match x, y with
    | .inf _, .inf _ => (qnan, .nv)
    | .inf _, _ => (.inf s, 0)
    | _, .inf _ => (zero s, 0)
    | .num a, .num b =>
      if b.isZero then if a.isZero then (qnan, .nv) else (.inf s, 0) else (.num (a.div b), 0)
    | _, _ => (qnan, 0)

/-- The square root (R230). -/
def sqrt (x : Val) : Val × Fl :=
  match x with
  | .nan _ _ => (qnan, x.sigFl)
  | .inf n => if n then (qnan, .nv) else (x, 0)
  | .num a => if a.isZero then (x, 0) else if a.neg then (qnan, .nv) else (.num a.sqrt, 0)

/-- The reciprocal square root (R230): the root of the reciprocal's exact ratio. -/
def rsqrt (x : Val) : Val × Fl :=
  match x with
  | .nan _ _ => (qnan, x.sigFl)
  | .inf n => if n then (qnan, .nv) else (zero false, 0)
  | .num a =>
    if a.isZero then (.inf a.neg, 0)
    else if a.neg then (qnan, .nv)
    else
      let k : Nat := 512 + 2 * a.q.log2
      let e2 : Int := -a.e - k
      let k' : Nat := if e2 % 2 == 0 then k else k + 1
      let n := 2 ^ k'
      let r := Ex.isqrt (n / a.q)
      (.num { neg := false, q := r, e := (-a.e - k') / 2, sticky := r * r * a.q != n }, 0)

/-- The order of R66: −0 below +0; a number beats a NaN; NV for a signalling NaN where the caller asks (R229). -/
def lessThan (x y : Val) : Bool :=
  match x, y with
  | .num a, .num b => a.lt b || (a.eq b && a.neg && !b.neg)
  | .inf a, .inf b => a && !b
  | .inf a, _ => a
  | _, .inf b => !b
  | _, _ => false
def minMax (wantMax : Bool) (x y : Val) : Val :=
  if x.isNan then (if y.isNan then qnan else y)
  else if y.isNan then x
  else if lessThan x y == wantMax then y else x

/-- Ordered comparisons of R225. -/
def numLt (x y : Val) : Bool :=
  match x, y with
  | .num a, .num b => a.lt b
  | .inf a, .inf b => a && !b
  | .inf a, .num _ => a
  | .num _, .inf b => !b
  | _, _ => false
def numEq (x y : Val) : Bool :=
  match x, y with
  | .num a, .num b => a.eq b
  | .inf a, .inf b => a == b
  | _, _ => false

end Val

/-- MIN and MAX of two codes by the rules of R66, the code of the chosen operand kept as it is. -/
def minMaxCode (f : Fmt) (wantMax : Bool) (a b : Nat) : Nat :=
  let x := f.decode a
  let y := f.decode b
  if x.isNan then (if y.isNan then f.nanCode false else b)
  else if y.isNan then a
  else if x.lessThan y == wantMax then b else a

end Sys2Proof.Machine
end

