-- ==== Sys2Proof/Machine/Convert.lean ====
section
/-! DEFINITION. Conversions between element types (07_number_formats.md R110 to R112, R122 to R124). -/

namespace Sys2Proof.Machine

/-- How a conversion rounds: FZ, the mode and the number rnd of R119. -/
structure Rc where
  fz : Bool := false
  mode : Rnd := .rne
  rand : Nat := 0
deriving DecidableEq, Repr

/-- The least and greatest values of an integer type. -/
def tyRange (t : ETy) : Int × Int :=
  if t.isSigned then (-(2 ^ (t.width - 1) : Nat), (2 ^ (t.width - 1) : Nat) - 1) else (0, (2 ^ t.width : Nat) - 1)

/-- An integer element's value: two's complement for .i types. -/
def tyInt (t : ETy) (c : Nat) : Int := if t.isSigned then sext c t.width else (c % 2 ^ t.width : Nat)

/-- The bits of an integer in an element of n bits. -/
def toBits (n : Nat) (i : Int) : Nat := (i % (2 ^ n : Nat)).toNat

/-- SAT(i, lo, hi) (R2), with OF when it clamps. -/
def sat (i lo hi : Int) : Int × Fl := if i < lo then (lo, .of) else if hi < i then (hi, .of) else (i, 0)

/-- The value of a floating-point source code (R108, R110), flushed under FZ (R121). -/
def srcVal (t : ETy) (fz : Bool) (c : Nat) : Val :=
  match fmtOf t with
  | some f => f.operand fz (c % 2 ^ f.width)
  | none => if c % 256 == 255 then .nan false false else .num { neg := false, q := 1, e := (c % 256 : Nat) - 127 }

/-- A number rounded to an integer by the mode (R232). -/
def roundInt (r : Rc) (x : Ex) : Int :=
  let (n, rest, sh) := x.split 0
  let m : Int := (n + (roundUp r.mode r.rand x.neg n rest sh x.sticky).toNat : Nat)
  if x.neg then -m else m

/-- To .e8m0: the sign is ignored (R122). -/
def toE8m0 (r : Rc) (v : Val) : Nat × Fl :=
  match v with
  | .nan _ _ => (0xFF, v.sigFl)
  | .inf _ => (0xFE, .of)
  | .num x =>
    if x.isZero then (0, .uf)
    else
      let l := x.log2
      if l < -127 then (0, .uf)
      else if 127 < l || (l == 127 && (x.sticky || x.q != 2 ^ x.q.log2)) then (0xFE, .of)
      else
        let n := (l + 127).toNat
        let (_, rest, sh) := x.split l
        (n + (roundUp r.mode r.rand false n rest sh x.sticky).toNat, 0)

/-- To a floating-point type (R122). -/
def toFloat (t : ETy) (r : Rc) (v : Val) : Nat × Fl :=
  match fmtOf t with
  | none => toE8m0 r v
  | some f =>
    match v with
    | .nan n _ => (f.nanCode n, v.sigFl ||| (if f.ieee || f.nan7F then 0 else .nx))
    | .inf n => if f.ieee then (f.infCode n, 0) else (f.sign n + f.maxCode, .of)
    | .num x => roundTo f r.fz r.mode r.rand x

/-- Float to integer (R123). -/
def toInt (t : ETy) (r : Rc) (v : Val) : Nat × Fl :=
  let (lo, hi) := tyRange t
  match v with
  | .nan _ _ => (0, .nv)
  | .inf n => (toBits t.width (if n then lo else hi), .of)
  | .num x => let (i, f) := sat (roundInt r x) lo hi; (toBits t.width i, f)

/-- Integer to integer, by value (R123). -/
def intToInt (src dst : ETy) (c : Nat) : Nat × Fl :=
  let (lo, hi) := tyRange dst
  let (i, f) := sat (tyInt src c) lo hi
  (toBits dst.width i, f)

/-- x / 2^k to .mxi8, clamped symmetrically (R111, R124). -/
def toMxi8 (r : Rc) (scale : Nat) (v : Val) : Nat × Fl :=
  match v with
  | .nan _ _ => (0, .nx ||| v.sigFl)
  | .inf n => (toBits 8 (if n then -127 else 127), .of)
  | .num x => let (i, f) := sat (roundInt r (x.scale (133 - scale))) (-127) 127; (toBits 8 i, f)

/-- To .q4 or .q8 under a scale g, an .f16 code, and a zero point (R124). -/
def toQ (w : Nat) (r : Rc) (g z : Nat) (v : Val) : Nat × Fl :=
  let hi : Int := (2 ^ w : Nat) - 1
  match v with
  | .nan _ _ => (z, .nx ||| v.sigFl)
  | .inf n =>
    let neg := n != (srcVal .f16 false g).neg
    (toBits w (if neg then 0 else hi), .of)
  | .num _ =>
    match (Val.div v (srcVal .f16 false g)).1 with
    | .nan _ _ => (z, .nx)
    | .inf n => (toBits w (if n then 0 else hi), .of)
    | .num q => let (i, f) := sat (roundInt r q + z) 0 hi; (toBits w i, f)

/-- The value g × (q − z) of a quantised code (R112); NV for an infinite g and q = z. -/
def qVal (g z q : Nat) : Val × Fl :=
  match srcVal .f16 false g with
  | .nan _ _ => (.qnan, 0)
  | .inf n => if q == z then (.qnan, .nv) else (.inf (n != decide (q < z)), 0)
  | .num x => (.num (x.mul (.ofInt ((q : Int) - z))), 0)

/-- The largest finite magnitude of a block (R124). -/
def amax (vs : List Val) : Ex :=
  vs.foldl (fun m v => match v with | .num x => if m.magLt x then { x with neg := false } else m | _ => m)
    { neg := false, q := 0, e := 0 }

/-- M of R124. -/
def scaleBias : ETy → Int
  | .e4m3 => 8
  | .e5m2 => 15
  | .e3m2 => 4
  | .e2m3 | .e2m1 => 2
  | _ => 0

/-- The shared scale code of a new block (R124). -/
def blockScale (t : ETy) (vs : List Val) : Nat :=
  let m := amax vs
  if m.isZero then 0 else ((sat (m.log2 - scaleBias t) (-127) 127).1 + 127).toNat

/-- An element of a new block under its scale code (R124). -/
def toBlock (t : ETy) (r : Rc) (scale : Nat) (v : Val) : Nat × Fl :=
  if t == .mxi8 then toMxi8 r scale v
  else toFloat t r (match v with | .num x => .num (x.scale (127 - scale)) | v => v)

/-- One conversion of FCVT, FTOI, ITOF or ICVT (R235). -/
def convert (src dst : ETy) (r : Rc) (c : Nat) : Nat × Fl :=
  if src.isInt then
    if dst.isInt then intToInt src dst c else toFloat dst r (.num (.ofInt (tyInt src c)))
  else
    let v := srcVal src r.fz c
    if dst.isInt then toInt dst r v else toFloat dst r v

end Sys2Proof.Machine
end

