-- ==== Sys2Proof/Machine/Transc.lean ====
section
/-! DEFINITION. The functions of R231 (12_isa_vector.md): 2^x, log2 x, sin(πx), cos(πx), tanh x and 1 / (1 + e^−x) of
an exact number, to `prec` fractional bits. Results that are exact in a format are exact; every other value is
irrational, so that no rounding boundary is met, and is handed on as a truncated number with `sticky`. That 800 bits
decide every rounding of a 24-bit format is log entry 12. -/

namespace Sys2Proof.Machine.Transc

/-- Fractional bits of the fixed-point arithmetic below. -/
def prec : Nat := 800

/-- 1 in fixed point. -/
def one : Nat := 2 ^ prec

/-- The magnitude of a number in fixed point, truncated. -/
def fix (x : Ex) : Nat :=
  if 0 ≤ x.e + prec then x.q * 2 ^ (x.e + prec).toNat else x.q / 2 ^ (-(x.e + prec)).toNat

/-- Σ z^(2k+1) / (2k+1) for k below n, from the term z^(2k+1). -/
def atanhSum (z2 : Nat) : Nat → Nat → Nat → Nat
  | 0, _, _ => 0
  | n + 1, t, d => t / d + atanhSum z2 n (t * z2 / one) (d + 2)

/-- ln of the ratio a / b with 1 ≤ a / b ≤ 2, by 2 artanh((a − b) / (a + b)). -/
def lnRatio (a b : Nat) : Nat :=
  let z := (a - b) * one / (a + b)
  2 * atanhSum (z * z / one) 260 z 1

def ln2 : Nat := lnRatio 2 1

/-- Σ t^k / k! from the term of index k. -/
def expSum (t : Nat) : Nat → Nat → Nat → Nat
  | 0, _, _ => 0
  | n + 1, term, k => term + expSum t n (term * t / one / k) (k + 1)

/-- e^t for 0 ≤ t < 1 in fixed point. -/
def exp (t : Nat) : Nat := expSum t 170 one 1

/-- Σ (−1)^k z^(2k+1) / (2k+1), for π by Machin's formula. -/
def atanSum (inv2 : Nat) : Nat → Nat → Nat → Int
  | 0, _, _ => 0
  | n + 1, t, d => (t / d : Nat) - atanSum inv2 n (t / inv2) (d + 2)

def pi : Nat := (16 * atanSum 25 180 (one / 5) 1 - 4 * atanSum (239 * 239) 60 (one / 239) 1).toNat

/-- Σ (−1)^k t^(2k+1) / (2k+1)! from the term of index d. -/
def sinSum (t2 : Nat) : Nat → Nat → Nat → Int
  | 0, _, _ => 0
  | n + 1, term, d => (term : Int) - sinSum t2 n (term * t2 / one / ((d + 1) * (d + 2))) (d + 2)

/-- sin(π r) for a fixed-point r in [0, 1/2]. -/
def sinPi (r : Nat) : Nat :=
  let t := r * pi / one
  (sinSum (t * t / one) 100 t 1).toNat

/-- A positive irrational near a fixed-point number. -/
def near (neg : Bool) (q : Nat) : Val :=
  if q == 0 then .num { neg, q := 1, e := -4000, sticky := true } else .num { neg, q, e := -(prec : Int), sticky := true }

/-- 2^x. -/
def exp2 (x : Ex) : Val :=
  if x.isZero then .ofNat 1
  else if 10 ≤ x.log2 then if x.neg then near false 0 else .num { neg := false, q := 1, e := 4000, sticky := true }
  else
    let n := x.floor
    let f := x.add false (.ofInt (-n))
    if f.isZero then .num { neg := false, q := 1, e := n }
    else
      let y := exp (fix f * ln2 / one)
      .num { neg := false, q := y, e := n - prec, sticky := true }

/-- log2 of a positive number. -/
def log2 (x : Ex) : Val :=
  let n := x.log2
  if x.q == 2 ^ x.q.log2 then .num (.ofInt n)
  else
    let y := lnRatio x.q (2 ^ x.q.log2) * one / ln2
    let v : Int := n * one + y
    if v < 0 then near true (v.natAbs - 1) else near false v.toNat

/-- sin(π x) of a nonzero number: x reduced modulo 2. -/
def sin (x : Ex) : Val :=
  let m : Ex := { x with neg := false }
  if 0 ≤ x.e then .zero x.neg
  else
    let d := 2 ^ (-x.e).toNat
    let r := m.q % (2 * d)
    let neg := x.neg != decide (d ≤ r)
    let r := r % d
    if r == 0 then .zero x.neg
    else if 2 * r == d then .num { neg, q := 1, e := 0 }
    else
      let r := if d < 2 * r then d - r else r
      near neg (sinPi (r * one / d))

/-- cos(π x) = sin(π (x + 1/2)); an exact zero is +0. -/
def cos (x : Ex) : Val :=
  let y := Ex.add false { x with neg := false } { neg := false, q := 1, e := -1 }
  let v := sin y
  if v.isZero then .zero false else v

/-- e^x of the magnitude of x, as a mantissa and a power of two. -/
def expPos (x : Ex) : Nat × Nat :=
  let t := fix x
  let n := t / ln2
  (exp (t - n * ln2), n)

/-- tanh x of a nonzero number. -/
def tanh (x : Ex) : Val :=
  if 8 ≤ x.log2 then near x.neg (one - 1)
  else
    let (m, n) := expPos (x.scale 1)
    let e := m * 2 ^ n
    near x.neg ((e - one) * one / (e + one))

/-- The logistic sigmoid of a nonzero number. -/
def sigm (x : Ex) : Val :=
  if 9 ≤ x.log2 then if x.neg then near false 0 else near false (one - 1)
  else
    let (m, n) := expPos x
    let e := m * 2 ^ n
    near false (if x.neg then one * one / (one + e) else e * one / (one + e))

end Sys2Proof.Machine.Transc
end

