-- ==== Sys2Proof/Machine/Flags.lean ====
section
/-! DEFINITION. What the arithmetic of one element gives: its bits and the FPFLAGS it raises (12_isa_vector.md R218 to
R237, 07_number_formats.md R109, R115, R118, R121, R125). The integer and logic functions raise none. -/

namespace Sys2Proof.Machine

/-! ### Integers (R218, R219) -/

namespace El

def add (t : ETy) (a b : Nat) : Nat := (a + b) % 2 ^ t.width
def sub (t : ETy) (a b : Nat) : Nat := toBits t.width ((a : Int) - b)
def clip (t : ETy) (i : Int) : Nat := toBits t.width (sat i (tyRange t).1 (tyRange t).2).1
def addsat (t : ETy) (a b : Nat) : Nat := clip t (tyInt t a + tyInt t b)
def subsat (t : ETy) (a b : Nat) : Nat := clip t (tyInt t a - tyInt t b)
def mul (t : ETy) (a b : Nat) : Nat := a * b % 2 ^ t.width
def mulhi (t : ETy) (a b : Nat) : Nat := toBits t.width (tyInt t a * tyInt t b / (2 ^ t.width : Nat))
def mad (t : ETy) (a b c : Nat) : Nat := (a * b + c) % 2 ^ t.width
def neg (t : ETy) (a : Nat) : Nat := toBits t.width (-(a : Int))
def abs (t : ETy) (a : Nat) : Nat := toBits t.width (tyInt t a).natAbs
def min (t : ETy) (a b : Nat) : Nat := if tyInt t b < tyInt t a then b else a
def max (t : ETy) (a b : Nat) : Nat := if tyInt t a < tyInt t b then b else a
def clamp (t : ETy) (a b c : Nat) : Nat := min t (max t a b) c
def absdiff (t : ETy) (a b : Nat) : Nat := toBits t.width (tyInt t a - tyInt t b).natAbs
/-- Truncating division; by zero all ones, and the least value by −1 wraps to itself (R219). -/
def div (t : ETy) (a b : Nat) : Nat :=
  if tyInt t b == 0 then 2 ^ t.width - 1 else toBits t.width (Int.tdiv (tyInt t a) (tyInt t b))
def rem (t : ETy) (a b : Nat) : Nat :=
  if tyInt t b == 0 then a else toBits t.width (Int.tmod (tyInt t a) (tyInt t b))

/-! ### Logic, shifts and bit fields (R222, R223) -/

def and (_ : ETy) (a b : Nat) : Nat := a &&& b
def or (_ : ETy) (a b : Nat) : Nat := a ||| b
def xor (_ : ETy) (a b : Nat) : Nat := a ^^^ b
def not (t : ETy) (a : Nat) : Nat := 2 ^ t.width - 1 - a
def andn (t : ETy) (a b : Nat) : Nat := a &&& not t b
def shl (t : ETy) (a s : Nat) : Nat := if t.width ≤ s then 0 else a * 2 ^ s % 2 ^ t.width
def shr (t : ETy) (a s : Nat) : Nat := if t.width ≤ s then 0 else a / 2 ^ s
def sar (t : ETy) (a s : Nat) : Nat := toBits t.width (sext a t.width / (2 ^ Nat.min s (t.width - 1) : Nat))
def rotl (t : ETy) (a s : Nat) : Nat :=
  let n := t.width
  let k := s % n
  (a * 2 ^ k + a / 2 ^ (n - k)) % 2 ^ n
def funshr (t : ETy) (a b c : Nat) : Nat := (a * 2 ^ t.width + b) / 2 ^ (c % t.width) % 2 ^ t.width
def bfx (t : ETy) (a b c : Nat) : Nat :=
  let n := t.width
  let wid := Nat.min (c % 256) n
  let field := (if t.isSigned then (sext a n / (2 ^ (b % 256) : Nat) % (2 ^ wid : Nat)).toNat else a / 2 ^ (b % 256) % 2 ^ wid)
  if wid == 0 then 0 else if t.isSigned then toBits n (sext field wid) else field
def bfi (t : ETy) (a b off e : Nat) : Nat :=
  let n := t.width
  let o := off % 256
  let wid := Nat.min (e % 256) n
  if n ≤ o then a
  else
    let k := Nat.min wid (n - o)
    a % 2 ^ o + b % 2 ^ k * 2 ^ o + a / 2 ^ (o + k) * 2 ^ (o + k)
def popc (t : ETy) (a : Nat) : Nat := ((List.range t.width).filter a.testBit).length
def clz (t : ETy) (a : Nat) : Nat := if a == 0 then t.width else t.width - 1 - a.log2
def ctz (t : ETy) (a : Nat) : Nat := (((List.range t.width).find? a.testBit)).getD t.width
def brev (t : ETy) (a : Nat) : Nat :=
  ((List.range t.width).map fun j => if a.testBit j then 2 ^ (t.width - 1 - j) else 0).sum

/-- ICMP's condition (R225). -/
def icmp (t : ETy) (c : Cond) (a b : Nat) : Bool :=
  let x := tyInt t a
  let y := tyInt t b
  match c with
  | .eq => x == y
  | .ne => x != y
  | .lt => x < y
  | .le => x ≤ y
  | .gt => y < x
  | .ge => y ≤ x
  | .un | .ord => false

/-! ### Floating point (R228 to R233) -/

/-- A result rounded once, beside the flags of the operation. -/
def fin (t : ETy) (r : Rc) (v : Val × Fl) : Nat × Fl :=
  match fmtOf t with
  | some f => let (c, g) := roundVal f r.fz r.mode r.rand v.1; (c, v.2 ||| g)
  | none => (0, v.2)

def rdn (r : Rc) : Bool := r.mode == .rdn

def fadd (t : ETy) (r : Rc) (a b : Nat) : Nat × Fl := fin t r (Val.add (rdn r) (srcVal t r.fz a) (srcVal t r.fz b))
def fsub (t : ETy) (r : Rc) (a b : Nat) : Nat × Fl :=
  fin t r (Val.add (rdn r) (srcVal t r.fz a) (srcVal t r.fz b).negate)
def fmul (t : ETy) (r : Rc) (a b : Nat) : Nat × Fl := fin t r (Val.mul (srcVal t r.fz a) (srcVal t r.fz b))
def fma (t : ETy) (r : Rc) (a b c : Nat) : Nat × Fl :=
  fin t r (Val.fma (rdn r) (srcVal t r.fz a) (srcVal t r.fz b) (srcVal t r.fz c))
def fms (t : ETy) (r : Rc) (a b c : Nat) : Nat × Fl :=
  fin t r (Val.fma (rdn r) (srcVal t r.fz a) (srcVal t r.fz b) (srcVal t r.fz c).negate)
def fnma (t : ETy) (r : Rc) (a b c : Nat) : Nat × Fl :=
  fin t r (Val.fma (rdn r) (srcVal t r.fz a).negate (srcVal t r.fz b) (srcVal t r.fz c))
def fdiv (t : ETy) (r : Rc) (a b : Nat) : Nat × Fl := fin t r (Val.div (srcVal t r.fz a) (srcVal t r.fz b))
def fsqrt (t : ETy) (r : Rc) (a : Nat) : Nat × Fl := fin t r (Val.sqrt (srcVal t r.fz a))
def frcp (t : ETy) (r : Rc) (a : Nat) : Nat × Fl := fin t r (Val.div (.ofNat 1) (srcVal t r.fz a))
def frsq (t : ETy) (r : Rc) (a : Nat) : Nat × Fl := fin t r (Val.rsqrt (srcVal t r.fz a))

/-- An operand's code with a subnormal replaced by the zero of its sign under FZ (R121). -/
def flush (f : Fmt) (fz : Bool) (c : Nat) : Nat :=
  if fz && f.eb != 11 && f.subnormal c then c / 2 ^ (f.eb + f.mb) * 2 ^ (f.eb + f.mb) else c

/-- FMIN and FMAX (R229). -/
def fminmax (wantMax : Bool) (t : ETy) (r : Rc) (a b : Nat) : Nat × Fl :=
  match fmtOf t with
  | some f => (minMaxCode f wantMax (flush f r.fz a) (flush f r.fz b), (f.decode a).sigFl ||| (f.decode b).sigFl)
  | none => (0, 0)
def fmin := fminmax false
def fmax := fminmax true

/-- FABS and FNEG (R229). -/
def fsign (change : Bool → Bool) (t : ETy) (r : Rc) (a : Nat) : Nat × Fl :=
  match fmtOf t with
  | some f =>
    match f.decode a with
    | .nan _ s => (f.nanCode false, if s then .nv else 0)
    | v => (f.sign (change v.neg) + flush f r.fz a % 2 ^ (f.eb + f.mb), 0)
  | none => (0, 0)
def fabs := fsign fun _ => false
def fneg := fsign fun n => !n

/-- The special functions (R231). -/
def fexp2 (t : ETy) (r : Rc) (a : Nat) : Nat × Fl :=
  let v := srcVal t r.fz a
  fin t r (match v with
    | .nan _ _ => (.qnan, v.sigFl)
    | .inf n => if n then (.zero false, 0) else (v, 0)
    | .num x => (Transc.exp2 x, 0))
def flog2 (t : ETy) (r : Rc) (a : Nat) : Nat × Fl :=
  let v := srcVal t r.fz a
  fin t r (match v with
    | .nan _ _ => (.qnan, v.sigFl)
    | .inf n => if n then (.qnan, .nv) else (v, 0)
    | .num x => if x.isZero then (.inf true, 0) else if x.neg then (.qnan, .nv) else (Transc.log2 x, 0))
def fsin (t : ETy) (r : Rc) (a : Nat) : Nat × Fl :=
  let v := srcVal t r.fz a
  fin t r (match v with
    | .nan _ _ => (.qnan, v.sigFl)
    | .inf _ => (.qnan, .nv)
    | .num x => if x.isZero then (v, 0) else (Transc.sin x, 0))
def fcos (t : ETy) (r : Rc) (a : Nat) : Nat × Fl :=
  let v := srcVal t r.fz a
  fin t r (match v with
    | .nan _ _ => (.qnan, v.sigFl)
    | .inf _ => (.qnan, .nv)
    | .num x => if x.isZero then (.ofNat 1, 0) else (Transc.cos x, 0))
def ftanh (t : ETy) (r : Rc) (a : Nat) : Nat × Fl :=
  let v := srcVal t r.fz a
  fin t r (match v with
    | .nan _ _ => (.qnan, v.sigFl)
    | .inf n => (.num (.ofInt (if n then -1 else 1)), 0)
    | .num x => if x.isZero then (v, 0) else (Transc.tanh x, 0))
def fsigm (t : ETy) (r : Rc) (a : Nat) : Nat × Fl :=
  let v := srcVal t r.fz a
  fin t r (match v with
    | .nan _ _ => (.qnan, v.sigFl)
    | .inf n => (if n then .zero false else .ofNat 1, 0)
    | .num x => if x.isZero then (.num { neg := false, q := 1, e := -1 }, 0) else (Transc.sigm x, 0))

/-- FRND (R232): a zero keeps the sign of the operand. -/
def frnd (t : ETy) (r : Rc) (a : Nat) : Nat × Fl :=
  let v := srcVal t r.fz a
  fin t { r with mode := .rne } (match v with
    | .nan _ _ => (.qnan, v.sigFl)
    | .inf _ => (v, 0)
    | .num x => (.num { neg := x.neg, q := (roundInt r x).natAbs, e := 0 }, 0))

/-- FFRAC (R232): a result that would round to 1 is the largest value below 1. -/
def ffrac (t : ETy) (r : Rc) (a : Nat) : Nat × Fl :=
  let v := srcVal t r.fz a
  match v with
  | .nan _ _ => fin t r (.qnan, v.sigFl)
  | .inf _ => fin t r (.qnan, .nv)
  | .num x =>
    let d := x.add false (.ofInt (-x.floor))
    if d.isZero then (0, 0)
    else
      let p := fin t r (.num d, 0)
      let one := (fin t {} (.ofNat 1, 0)).1
      if p.1 == one then (one - 1, p.2) else p

/-- FSCALE (R232). An exponent beyond 8192 in magnitude gives what 8192 gives. -/
def fscale (t : ETy) (r : Rc) (a b : Nat) : Nat × Fl :=
  let v := srcVal t r.fz a
  fin t r (match v with
    | .nan _ _ => (.qnan, v.sigFl)
    | .inf _ => (v, 0)
    | .num x => (.num (x.scale (sat (sext b t.width) (-8192) 8192).1), 0))

/-- FCMP's condition and flags (R225). -/
def fcmp (t : ETy) (fz : Bool) (c : Cond) (a b : Nat) : Bool × Fl :=
  let x := srcVal t fz a
  let y := srcVal t fz b
  let un := x.isNan || y.isNan
  (match c with
    | .eq => x.numEq y
    | .ne => !x.numEq y
    | .lt => x.numLt y
    | .le => x.numLt y || x.numEq y
    | .gt => y.numLt x
    | .ge => y.numLt x || x.numEq y
    | .un => un
    | .ord => !un, x.sigFl ||| y.sigFl)

/-- The class bit of a stored code (R226). -/
def classBit (t : ETy) (c : Nat) : Nat :=
  match fmtOf t with
  | none => if c % 256 == 255 then 1 else 8
  | some f =>
    let c := c % 2 ^ f.width
    match f.decode c with
    | .nan _ s => if s then 0 else 1
    | .inf n => if n then 2 else 9
    | .num x => if x.isZero then (if x.neg then 5 else 6)
      else if f.subnormal c then (if x.neg then 4 else 7) else (if x.neg then 3 else 8)

end El

/-! ### Short dot products (R125, R233) -/

/-- The exact sum of products and the flags of R125; an exact zero has the sign of IEEE 754-2019 addition. -/
def dotSum (rdn : Bool) (ps : List (Val × Fl)) : Val × Fl :=
  let vs := ps.map Prod.fst
  let fl := ps.foldl (fun f p => f ||| p.2) 0
  let pos := vs.contains (.inf false)
  let neg := vs.contains (.inf true)
  if pos && neg then (.qnan, fl ||| .nv)
  else if vs.any Val.isNan then (.qnan, fl)
  else
    match vs with
    | [] => (.zero true, fl)
    | v :: vs => (vs.foldl (fun a b => (Val.add rdn a b).1) v, fl)

/-- One element of FDOT2 or FDOT4 on floating-point elements: products and sum exact, rounded once into .f32. -/
def dotElem (t : ETy) (r : Rc) (as bs : List Nat) (c : Nat) : Nat × Fl :=
  let g := dotSum (El.rdn r) ((as.zip bs).map fun p => Val.mul (srcVal t r.fz p.1) (srcVal t r.fz p.2))
  let x := srcVal .f32 r.fz c
  let v := Val.add (El.rdn r) g.1 x
  El.fin .f32 r (v.1, g.2 ||| v.2 ||| x.sigFl)

/-- One element of FDOT4 on integers, exact modulo 2^32 (R233). -/
def dotInt (t : ETy) (as bs : List Nat) (c : Nat) : Nat :=
  toBits 32 (((as.zip bs).map fun p => tyInt t p.1 * tyInt t p.2).sum + c)

end Sys2Proof.Machine
end

