-- ==== Sys2Proof/Machine/BeamGeom.lean ====
section
/-! DEFINITION. The geometry of the beam engine (15_beam_engine.md R277, R283 to R286, R288 to R290). Numbers are .f32
codes; every operation is rounded by RNE, in the order written, nothing is fused or flushed and no flag is kept. -/

namespace Sys2Proof.Machine.Geo

/-! ### Numbers -/

def add (a b : Nat) : Nat := (El.fadd .f32 {} a b).1
def sub (a b : Nat) : Nat := (El.fsub .f32 {} a b).1
def mul (a b : Nat) : Nat := (El.fmul .f32 {} a b).1
def div (a b : Nat) : Nat := (El.fdiv .f32 {} a b).1
def neg (a : Nat) : Nat := (El.fneg .f32 {} a).1
def val (a : Nat) : Val := srcVal .f32 false a
def lt (a b : Nat) : Bool := (val a).numLt (val b)
def le (a b : Nat) : Bool := lt a b || (val a).numEq (val b)
def isZero (a : Nat) : Bool := (val a).isZero
def finite (a : Nat) : Bool := match val a with | .num _ => true | _ => false
def pos (a : Nat) : Bool := lt 0 a
def isNeg (a : Nat) : Bool := lt a 0
def one : Nat := 0x3F800000
def two : Nat := 0x40000000
def half : Nat := 0x3F000000
/-- A small integer. -/
def num (n : Nat) : Nat := (convert .n32 .f32 {} n).1
def sum : List Nat → Nat
  | [] => 0
  | x :: xs => xs.foldl add x
def least (xs : List Nat) : Nat := match xs with | [] => 0 | x :: xs => xs.foldl (fun m y => if lt y m then y else m) x
def greatest (xs : List Nat) : Nat := match xs with | [] => 0 | x :: xs => xs.foldl (fun m y => if lt m y then y else m) x

/-- A point or vector of three. -/
structure V3 where
  x : Nat
  y : Nat
  z : Nat
deriving DecidableEq, Repr

def V3.sub (a b : V3) : V3 := ⟨Geo.sub a.x b.x, Geo.sub a.y b.y, Geo.sub a.z b.z⟩
def V3.dot (a b : V3) : Nat := add (add (mul a.x b.x) (mul a.y b.y)) (mul a.z b.z)
def V3.cross (a b : V3) : V3 :=
  ⟨Geo.sub (mul a.y b.z) (mul a.z b.y), Geo.sub (mul a.z b.x) (mul a.x b.z), Geo.sub (mul a.x b.y) (mul a.y b.x)⟩
def V3.finite (a : V3) : Bool := Geo.finite a.x && Geo.finite a.y && Geo.finite a.z

/-- A point of the reference plane. -/
abbrev P2 := Nat × Nat
/-- A half-plane A s + B t + C ≥ 0, and a depth key. -/
abbrev Line := Nat × Nat × Nat

/-- A frame: origin, axis and dual vectors (R277). -/
structure Frame where
  o : V3
  a : V3
  u : V3
  v : V3
deriving DecidableEq, Repr

/-- Local coordinates (p, q, h) of a world point (R277). -/
def toLocal (f : Frame) (x : V3) : V3 :=
  let d := x.sub f.o
  ⟨d.dot f.u, d.dot f.v, d.dot f.a⟩

/-- The reference point of local coordinates (R277). -/
def project (area : Bool) (v : V3) : P2 := if area then (v.x, v.y) else (div v.x v.z, div v.y v.z)

/-! ### Polygons (R277, R290) -/

/-- The area of a fan triangle. -/
def fan (p q r : P2) : Nat :=
  div (sub (mul (sub q.1 p.1) (sub r.2 p.2)) (mul (sub r.1 p.1) (sub q.2 p.2))) two

/-- The fan triangles of a vertex list. -/
def fans (vs : List P2) : List (P2 × P2 × P2) :=
  match vs with
  | [] => []
  | v0 :: rest => (rest.zip (rest.drop 1)).map fun p => (v0, p.1, p.2)

def areaOf (vs : List P2) : Nat := sum ((fans vs).map fun t => fan t.1 t.2.1 t.2.2)

/-- The vertices of a polygon given by its edges: vertex i lies on edges i and i + 1 (R277). -/
def corner (e f : Line) : Nat × P2 :=
  let (ai, bi, ci) := e
  let (aj, bj, cj) := f
  let den := sub (mul ai bj) (mul aj bi)
  (den, div (sub (mul bi cj) (mul bj ci)) den, div (sub (mul aj ci) (mul ai cj)) den)

def rotated {α : Type} : List α → List α
  | [] => []
  | x :: xs => xs ++ [x]

/-- The vertices that a polygon's edges give, each with its den, be the polygon empty or not. -/
def corners (es : List Line) : List (Nat × P2) := (es.zip (rotated es)).map fun p => corner p.1 p.2
def points (es : List Line) : List P2 := (corners es).map Prod.snd

/-- The vertices of a polygon that is not empty; none for an empty one. -/
def vertices (es : List Line) : Option (List P2) :=
  let vs := points es
  let a := areaOf vs
  if es.length < 3 || (corners es).any (fun c => isZero c.1 || !finite c.1 || !finite c.2.1 || !finite c.2.2) || !finite a
      || !pos a then none
  else some vs

/-- Area, centroid and second central moments (R290). -/
structure Moments where
  area : Nat
  cs : Nat
  ct : Nat
  mss : Nat
  mtt : Nat
  mst : Nat
deriving DecidableEq, Repr

def moments (vs : List P2) : Moments :=
  let fs := (fans vs).map fun t => (fan t.1 t.2.1 t.2.2, t)
  let area := sum (fs.map Prod.fst)
  let first := fun (c : P2 → Nat) => div (sum (fs.map fun f =>
    mul f.1 (add (add (c f.2.1) (c f.2.2.1)) (c f.2.2.2)))) (mul (num 3) area)
  let cs := first Prod.fst
  let ct := first Prod.snd
  let second := fun (c : P2 → Nat) (m : Nat) => sub (div (sum (fs.map fun f =>
    let x := c f.2.1; let y := c f.2.2.1; let z := c f.2.2.2
    mul f.1 (sum [mul x x, mul y y, mul z z, mul x y, mul y z, mul z x]))) (mul (num 6) area)) (mul m m)
  let mst := sub (div (sum (fs.map fun f =>
    let (s0, t0) := f.2.1; let (si, ti) := f.2.2.1; let (sj, tj) := f.2.2.2
    mul f.1 (sum [mul (mul two s0) t0, mul (mul two si) ti, mul (mul two sj) tj, mul s0 ti, mul si t0, mul s0 tj,
      mul sj t0, mul si tj, mul sj ti]))) (mul (num 12) area)) (mul cs ct)
  { area, cs, ct, mss := second Prod.fst cs, mtt := second Prod.snd ct, mst }

/-- A line's value at a point. -/
def at_ (l : Line) (p : P2) : Nat := add (add (mul l.1 p.1) (mul l.2.1 p.2)) l.2.2

/-- The side of a polygon on which a line is ≥ 0 (R286): the edges that still bound a side of positive length, with the
line in place of the run of edges it removed; none where nothing is left. -/
def cut (es : List Line) (l : Line) : Option (List Line) :=
  match vertices es with
  | none => none
  | some vs =>
    let x := vs.map (at_ l)
    if !(x.any isNeg) then some es
    else if !(x.any pos) then none
    else
      let n := es.length
      let val := fun (i : Nat) => (x[i % n]?).getD 0
      -- edge i runs from vertex i − 1 to vertex i
      let kept := fun (i : Nat) => pos (val (i + n - 1)) || pos (val i)
      let j := ((List.range n).find? fun i => kept i && !pos (val i)).getD 0
      let k := (j + 1) % n
      let before := if kept k then j + 1 else k
      let part := fun (lo hi : Nat) => (es.zipIdx.filter fun p => lo ≤ p.2 && p.2 < hi && kept p.2).map Prod.fst
      some (part 0 before ++ l :: part before n)

def flip (l : Line) : Line := (neg l.1, neg l.2.1, neg l.2.2)

/-! ### Primitives (R284) -/

/-- An outline clipped to f ≥ 0. -/
def clip (vs : List V3) (f : V3 → Nat) : List V3 :=
  (vs.zip (rotated vs)).flatMap fun p =>
    let (a, b) := p
    let fi := f a
    let fj := f b
    (if le 0 fi then [a] else [])
      ++ (if (pos fi && isNeg fj) || (isNeg fi && pos fj) then
            let r := div fi (sub fi fj)
            [(⟨add a.x (mul r (sub b.x a.x)), add a.y (mul r (sub b.y a.y)), add a.z (mul r (sub b.z a.z))⟩ : V3)]
          else [])

/-- The mirror plane in local coordinates: its normal, first vertex and σ. The origin of a frame is 0 there. -/
structure Mirror where
  n : V3
  m0 : V3
  /-- −1, 0 or 1 as the sign that multiplies -/
  sg : Int
deriving DecidableEq, Repr

def mirrorOf (f : Frame) (v0 v1 v2 : V3) : Mirror :=
  let a := toLocal f v0
  let n := ((toLocal f v1).sub a).cross ((toLocal f v2).sub a)
  let x := n.dot ((⟨0, 0, 0⟩ : V3).sub a)
  { n, m0 := a, sg := if pos x then -1 else if isNeg x then 1 else 0 }

def Mirror.at (m : Mirror) (x : V3) : Nat :=
  let y := m.n.dot (x.sub m.m0)
  if m.sg = 0 then 0 else if m.sg < 0 then neg y else y

/-- A prepared primitive: the projected outline, its edges and its depth key. -/
structure Prep where
  pts : List P2
  edges : List Line
  key : Line
deriving DecidableEq, Repr

/-- The edges of a projected outline (R284). -/
def outlineEdges (vs : List P2) : List Line :=
  (vs.zip (rotated vs)).map fun p =>
    let ((x, y), (x', y')) := p
    (sub y y', sub x' x, sub (mul x y') (mul x' y))

/-- A primitive prepared for a beam; none where it is skipped on its own account. -/
def prepare (f : Frame) (area : Bool) (hn hf : Nat) (mirror : Option Mirror) (vs : List V3) : Option Prep :=
  if vs.any fun v => !v.finite then none
  else
    let ls := vs.map (toLocal f)
    let p := clip (clip ls fun v => sub v.z hn) fun v => sub hf v.z
    let p := match mirror with | some m => clip p m.at | none => p
    let pts := p.map (project area)
    let pts := if isNeg (areaOf pts) then (match pts with | v :: r => v :: r.reverse | [] => []) else pts
    let a := areaOf pts
    let es := outlineEdges pts
    if pts.length < 3 || pts.any (fun q => !finite q.1 || !finite q.2) || !finite a || !pos a || (vertices es).isNone then none
    else
      match ls with
      | v0 :: v1 :: v2 :: _ =>
        let n := (v1.sub v0).cross (v2.sub v0)
        let d := n.dot v0
        if area then
          if isZero n.z then none else some { pts, edges := es, key := (div n.x n.z, div n.y n.z, div (neg d) n.z) }
        else if isZero d then none
        else some { pts, edges := es, key := (div n.x d, div n.y d, div n.z d) }
      | _ => none

/-- An edge of either polygon has every vertex of the other strictly on its outside (R284). -/
def apart (ps : List P2) (pe : List Line) (q : Prep) : Bool :=
  pe.any (fun l => q.pts.all fun v => isNeg (at_ l v)) || q.edges.any fun l => ps.all fun v => isNeg (at_ l v)

/-! ### Boxes (R283) -/

/-- Whether a box fails for a beam: its six codes in the order of a node. -/
def boxFails (f : Frame) (area : Bool) (hn hf : Nat) (mirror : Option Mirror) (es : List Line) (b : List Nat) : Bool :=
  let g := fun (i : Nat) => (b[i]?).getD 0
  let cs := [g 0, g 3].flatMap fun x => [g 1, g 4].flatMap fun y => [g 2, g 5].map fun z => toLocal f ⟨x, y, z⟩
  cs.all (fun c => lt c.z hn) || cs.all (fun c => lt hf c.z)
    || es.any (fun l => cs.all fun c =>
        isNeg (add (add (mul l.1 c.x) (mul l.2.1 c.y)) (if area then l.2.2 else mul l.2.2 c.z)))
    || (match mirror with | some m => cs.all fun c => isNeg (m.at c) | none => false)

/-! ### Rays (R288) -/

/-- The samples of an n × n grid over a polygon's bounds, and the cell widths. -/
def samples (vs : List P2) (n : Nat) : List P2 :=
  let s0 := least (vs.map Prod.fst); let t0 := least (vs.map Prod.snd)
  let w := div (sub (greatest (vs.map Prod.fst)) s0) (num n)
  let h := div (sub (greatest (vs.map Prod.snd)) t0) (num n)
  (List.range (n * n)).map fun j => (add s0 (mul (add (num (j % n)) half) w), add t0 (mul (add (num (j / n)) half) h))

def cellWidths (vs : List P2) (n : Nat) : P2 :=
  (div (sub (greatest (vs.map Prod.fst)) (least (vs.map Prod.fst))) (num n),
   div (sub (greatest (vs.map Prod.snd)) (least (vs.map Prod.snd))) (num n))

/-- Every edge gives a point a value ≥ 0. -/
def inside (es : List Line) (p : P2) : Bool := es.all fun l => le 0 (at_ l p)

/-! ### Barycentric weights (R289) -/

/-- b1 and b2 of a point on the unclipped triangle; 0 where D, h or σ is 0 or a value formed is not finite. -/
def bary (f : Frame) (area : Bool) (v0 v1 v2 : V3) (c : P2) : P2 :=
  let l := [v0, v1, v2].map (toLocal f)
  let h := l.map V3.z
  match l.map (project area) with
  | [(s0, t0), (s1, t1), (s2, t2)] =>
    let (cs, ct) := c
    let d := sub (mul (sub s1 s0) (sub t2 t0)) (mul (sub s2 s0) (sub t1 t0))
    let b1 := div (sub (mul (sub cs s0) (sub t2 t0)) (mul (sub s2 s0) (sub ct t0))) d
    let b2 := div (sub (mul (sub s1 s0) (sub ct t0)) (mul (sub cs s0) (sub t1 t0))) d
    let base := [s0, t0, s1, t1, s2, t2, d, b1, b2]
    if isZero d then (0, 0)
    else if area then if base.all finite then (b1, b2) else (0, 0)
    else
      match h with
      | [h0, h1, h2] =>
        let b0 := sub (sub one b1) b2
        let q0 := div b0 h0
        let q1 := div b1 h1
        let q2 := div b2 h2
        let sg := add (add q0 q1) q2
        let r1 := div q1 sg
        let r2 := div q2 sg
        if isZero h0 || isZero h1 || isZero h2 || isZero sg || !((base ++ [b0, q0, q1, q2, sg, r1, r2]).all finite) then (0, 0)
        else (r1, r2)
      | _ => (0, 0)
  | _ => (0, 0)

end Sys2Proof.Machine.Geo
end

