-- ==== Sys2Proof/Config.lean ====
section
/-! DEFINITION. What the implementation fixes, and the free values: every value the spec leaves undefined is one of
the opaque functions below, applied to a counter that State holds, so that no proof can see what it is. -/

namespace Sys2Proof.Config

/-- The value of an undefined register, element or byte (00_scope.md R5): the first argument is the counter of State
at which it arose, the second says which location it is. Log entry 2. -/
opaque freeWord : Nat → Nat → BitVec 64

/-- The fused module identifier (22_host_firmware.md R432), and the identifiers of the modules at the four ports. -/
opaque moduleId : BitVec 16
opaque peerId : Nat → BitVec 16

/-- The fused largest clock, least voltage and largest voltage of a cluster of a die (21_power_thermal.md R413). -/
opaque fuseClk : Nat → Nat → BitVec 12
opaque fuseVmin : Nat → Nat → BitVec 12
opaque fuseVmax : Nat → Nat → BitVec 12

/-- SHA-512 of bytes, ECDSA verification on P-521 (key x and y, signature r and s, digest), and the r and s of a
signature with the identity key (R434 to R436): functions that the spec names and does not define. -/
opaque sha512 : List Byte → BitVec 512
opaque verify : Nat → Nat → Nat → Nat → BitVec 512 → Bool
opaque signR : BitVec 512 → BitVec 528
opaque signS : BitVec 512 → BitVec 528

/-- The identity public key, the fused key hash and the svn floor of each image type, and the contents of the port
die's flash (R433 to R435). -/
opaque idKeyX : BitVec 528
opaque idKeyY : BitVec 528
opaque keyHash : Nat → BitVec 512
opaque svnFloor : Nat → Nat
opaque flash : List Byte

/-- Where in the firmware region an image is copied to, which the spec does not give (R434). -/
opaque fwPlace : Nat

/-- The virtual address at which a control core starts to run the loaded image, which the spec does not give
(22_host_firmware.md R434, R435). -/
opaque ctlEntry : BitVec 64

/-- The part that is modelled: a Z960, every core position 4k + c working (01_device.md R12, R24). Log entry 3. -/
def coreMap (_die : Nat) : BitVec 64 := 0x0000FFFFFFFFFFFF

/-- The device configuration tag (R19). -/
def tag : BitVec 32 := 0x30020000

end Sys2Proof.Config
end

