-- ==== Sys2Proof/WellFormed.lean ====
section
/-! DEFINITION. Which terms of `Instr` are instructions: those that pass every static check of R173 (reserved bits
and invalid codes, then operand fields), and for the other forms those of R160, R171 and R174. -/

namespace Sys2Proof

/-- A well-formed instruction: no check of decoding refuses it. -/
def Instr.Wf (i : Instr) : Bool := i.check.isNone

end Sys2Proof
end

