-- ==== Sys2Proof/Decode.lean ====
section
/-! DEFINITION. The decoder, total on any word or pair of words and refusing by name (10_encoding.md R158 to R176),
and after it the encoder, written from the same tables. The decoder takes the fields apart, then reports the first
check of R173 that fails. -/

namespace Sys2Proof

/-! ### Taking a word apart -/

/-- The fields of a full word before they are checked: operands whose field is a control field hold `zero`. -/
structure Raw where
  o : Ops
  mod : BitVec 7
  b : BitVec 10
  c : BitVec 10

/-- Bits hi : lo of a word as a bit vector. -/
def field (w : Word) (lo n : Nat) : BitVec n := BitVec.ofNat n (w.toNat / 2 ^ lo)

/-- psel and pinv: code 15 takes no pinv (R163). -/
def readPred (w : Word) : Option Pred :=
  match p15Of (bits w 11 8) with
  | some n => some (.sel n (bit w 7))
  | none => if bit w 7 then none else some .always

/-- A word of form 0b10 (R167, R168): a field whose presence bit is 0 holds 0. -/
def readPfx (w : Word) : Option Pfx := do
  if bits w 34 30 != 0 then none
  let rnd ← Rnd.ofCode (bits w 56 54)
  let sc := bits w 53 51
  let scope ← if sc == 0 then some none else (Scope.ofCode (sc - 1)).map some
  let e ← if bit w 50 then some (some (Opd.ofCode (field w 40 10)))
          else if bits w 49 40 == 0 then some none else none
  let lit ← if bit w 39 then do
              let sel ← LitSel.ofCode (bits w 38 37)
              let kind ← LitKind.ofCode (bits w 36 35)
              some (some { sel, kind, val := field w 0 30 : Lit })
            else if bits w 38 35 == 0 && bits w 29 0 == 0 then some none else none
  some { mask := p15Of (bits w 61 58), zero := bit w 57, rnd, scope, e, lit }

/-- The fields of a full word and of the word that leads it, if any. -/
def readRaw (w : Word) (pfx : Option Word) : Option Raw := do
  let pred ← readPred w
  let px ← match pfx with
    | none => some none
    | some x => (readPfx x).map some
  let r := Row.of (bits w 61 52)
  let b := field w 22 10
  let c := field w 12 10
  some { o := { pred, pfx := px, d := .ofCode (field w 42 10), a := .ofCode (field w 32 10),
                b := if r.b == .ctl then .zero else .ofCode b, c := if r.c == .ctl then .zero else .ofCode c },
         mod := field w 0 7, b, c }

/-! ### Control fields -/

def rVTy (n : Nat) : Option VTy := do
  let ty ← ETy.ofCode (n / 4)
  let cnt ← Cnt.ofCode (n % 4)
  some { ty, cnt }
def rMMod (m : BitVec 7) : Option MMod := do
  let scope ← Scope.ofCode (bits m 6 4)
  let ty ← MTy.ofCode (bits m 3 0)
  some { scope, ty }
/-- Nothing but the bits below n of a control field is set. -/
def below {w : Nat} (x : BitVec w) (n : Nat) : Option Nat := if x.toNat < 2 ^ n then some x.toNat else none

def rA (f : Ops → VTy → Instr) (r : Raw) : Option Instr := (rVTy r.mod.toNat).map (f r.o)
def rM (f : Ops → MMod → Instr) (r : Raw) : Option Instr := (rMMod r.mod).map (f r.o)
def rE (f : Ops → Instr) (r : Raw) : Option Instr := if r.mod == 0 then some (f r.o) else none
/-- Layout E with mod zero and an n-bit c field. -/
def rC (n : Nat) (f : Ops → Nat → Option Instr) (r : Raw) : Option Instr := do
  let x ← below r.c n
  if r.mod == 0 then f r.o x else none
/-- Layout E with mod zero and an n-bit b field. -/
def rB (n : Nat) (f : Ops → Nat → Option Instr) (r : Raw) : Option Instr := do
  let x ← below r.b n
  if r.mod == 0 then f r.o x else none
/-- Layout E with an n-bit mod. -/
def rMod (n : Nat) (f : Ops → Nat → Option Instr) (r : Raw) : Option Instr := (below r.mod n).bind (f r.o)

def rWords (f : Ops → MMod → BitVec 3 → Instr) (r : Raw) : Option Instr := do
  let m ← rMMod r.mod
  let x ← below r.c 3
  some (f r.o m (BitVec.ofNat 3 x))
def rMTb (f : Ops → MMod → BitVec 6 → Instr) (r : Raw) : Option Instr := do
  let m ← rMMod r.mod
  let x ← below r.c 6
  some (f r.o m (BitVec.ofNat 6 x))
def rWaitc (f : Ops → Counter → Instr) : Raw → Option Instr := rMod 4 fun o x => (Counter.ofCode x).map (f o)
def rWaitu (f : Ops → LCmp → Bool → Option (Fin 15) → Instr) (r : Raw) : Option Instr := do
  let cmp ← LCmp.ofCode (bits r.mod 6 3)
  if bits r.mod 1 0 == 0 && bits r.c 5 0 == 0 then some (f r.o cmp (bit r.mod 2) (p15Of (bits r.c 9 6))) else none
def rEng (f : Ops → Bool → Instr) : Raw → Option Instr := rMod 1 fun o x => some (f o (x == 1))
def rTid (f : Ops → BitVec 8 → Instr) : Raw → Option Instr := rC 8 fun o x => some (f o (BitVec.ofNat 8 x))
def rTbC (f : Ops → BitVec 6 → Instr) : Raw → Option Instr := rC 6 fun o x => some (f o (BitVec.ofNat 6 x))
def rTbB (f : Ops → BitVec 6 → Instr) : Raw → Option Instr := rB 6 fun o x => some (f o (BitVec.ofNat 6 x))
def rCmp (f : Ops → VTy → Cond → Bool → Instr) (r : Raw) : Option Instr := do
  let t ← rVTy r.mod.toNat
  let x ← below r.c 4
  let c ← Cond.ofCode (x % 8)
  some (f r.o t c (x / 8 == 1))
def rClass (f : Ops → VTy → Bool → Instr) (r : Raw) : Option Instr := do
  let t ← rVTy r.mod.toNat
  let x ← below r.c 1
  some (f r.o t (x == 1))
def rCvt (f : Ops → VTy → VTy → Instr) (r : Raw) : Option Instr := do
  let t ← rVTy r.mod.toNat
  let x ← below r.c 7
  let ty ← ETy.ofCode (x % 32)
  let cnt ← Cnt.ofCode (x / 32)
  some (f r.o t { ty, cnt })
def rPset (f : Ops → Bool → Instr) : Raw → Option Instr := rMod 1 fun o x => some (f o (x == 1))
def rScan (f : Ops → VTy → ROp → Instr) (r : Raw) : Option Instr := do
  let t ← rVTy r.mod.toNat
  let x ← below r.c 3
  let op ← ROp.ofCode x
  some (f r.o t op)
def wctl (x : Nat) : WCtl := { tb := BitVec.ofNat 6 x, z := 64 ≤ x }
def rMma (f : Ops → WCtl → Instr) : Raw → Option Instr := rB 7 fun o x => some (f o (wctl x))
def rMmas (f : Ops → WCtl → SMode → Instr) (r : Raw) : Option Instr := do
  let y ← below r.c 8
  let mode ← match y % 4 with
    | 0 => if y == 0 then some SMode.code else none
    | 1 => some (.bitmap (BitVec.ofNat 6 (y / 4)))
    | 2 => if y == 2 then some .pruned else none
    | _ => none
  rB 7 (fun o x => some (f o (wctl x) mode)) r
def rMmax (f : Ops → ETy → WCtl → BitVec 2 → Instr) (r : Raw) : Option Instr := do
  let ty ← if bits r.mod 1 0 == 0 then ETy.ofCode (bits r.mod 6 2) else none
  let x ← below r.b 7
  let e ← below r.c 2
  some (f r.o ty (wctl x) (BitVec.ofNat 2 e))
def rTwo (f : Ops → BitVec 2 → Instr) : Raw → Option Instr := rC 2 fun o x => some (f o (BitVec.ofNat 2 x))
def rMsta (f : Ops → BitVec 6 → Bool → Instr) : Raw → Option Instr :=
  rB 7 fun o x => some (f o (BitVec.ofNat 6 x) (64 ≤ x))
def rMpget (f : Ops → BitVec 4 → Bool → Instr) : Raw → Option Instr :=
  rC 5 fun o x => some (f o (BitVec.ofNat 4 (x % 8 + x / 16 * 8)) (x / 8 % 2 == 1))
def rBoolC (f : Ops → Bool → Instr) : Raw → Option Instr := rC 1 fun o x => some (f o (x == 1))
def rMscb : Raw → Option Instr := rC 4 fun o x =>
  let e := BitVec.ofNat 2 x
  match x / 4 with
  | 0 => some (.mscbSet o e)
  | 1 => some (.mscbRead o e)
  | 2 => some (.mscbWrite o e)
  | _ => none
def rBwalk (f : Ops → BitVec 6 → Bool → Bool → Instr) : Raw → Option Instr :=
  rC 8 fun o x => some (f o (BitVec.ofNat 6 x) (x / 64 % 2 == 1) (x / 128 == 1))
def rBpop (f : Ops → Option (Fin 15) → Bool → Instr) : Raw → Option Instr :=
  rC 5 fun o x => some (f o (p15Of (x % 16)) (x / 16 == 1))
def rKmode (f : Ops → KMode → Instr) : Raw → Option Instr := rC 2 fun o x => (KMode.ofCode x).map (f o)
def rBstat : Raw → Option Instr := rC 2 fun o x =>
  match x with
  | 0 => some (.bstatRead o)
  | 1 => some (.bstatStop o)
  | 2 => some (.bstatResume o)
  | _ => none
/-- The 20-bit offset of bits 31:12 (R323). -/
def Raw.off (r : Raw) : BitVec 20 := BitVec.ofNat 20 (r.b.toNat * 1024 + r.c.toNat)
def rBr (f : Ops → BCond → Bool → BitVec 20 → Instr) (r : Raw) : Option Instr := do
  let x ← below r.mod 3
  let c ← BCond.ofCode (x / 2)
  some (f r.o c (x % 2 == 1) r.off)
def rBri (f : Ops → BCond → Bool → Instr) : Raw → Option Instr :=
  rMod 3 fun o x => (BCond.ofCode (x / 2)).map fun c => f o c (x % 2 == 1)
def rCall (f : Ops → Bool → BitVec 20 → Instr) (r : Raw) : Option Instr := do
  let x ← below r.mod 1
  some (f r.o (x == 1) r.off)
def rOff (f : Ops → BitVec 20 → Instr) (r : Raw) : Option Instr := if r.mod == 0 then some (f r.o r.off) else none
def rBarget (f : Ops → Fin 5 → Bool → Instr) : Raw → Option Instr := rC 4 fun o x =>
  if h : x % 8 < 5 then some (f o ⟨x % 8, h⟩ (x / 8 == 1)) else none
def rStat (f : Ops → Option (Fin 15) → Instr) : Raw → Option Instr := rC 4 fun o x => some (f o (p15Of x))
def rNreg (f : Ops → Fin 17 → Instr) : Raw → Option Instr := rMod 5 fun o x =>
  if h : x < 17 then some (f o ⟨x, h⟩) else none
def rCode (f : Ops → BitVec 7 → Instr) (r : Raw) : Option Instr := some (f r.o r.mod)
def rNum (f : Ops → BitVec 10 → Instr) (r : Raw) : Option Instr := if r.mod == 0 then some (f r.o r.c) else none
def rHint (f : Ops → BitVec 2 → Instr) : Raw → Option Instr := rMod 2 fun o x => some (f o (BitVec.ofNat 2 x))

/-! ### The opcode map (R175) -/

/-- The instruction of an assigned opcode; none for an invalid code in mod or a control field. -/
def build (op : Nat) (r : Raw) : Option Instr :=
  match op with
  | 0x000 => rM .ld r
  | 0x001 => rM .st r
  | 0x002 => rWords .ldsc r
  | 0x003 => rWords .stsc r
  | 0x004 => rM .lds r
  | 0x005 => rM .sts r
  | 0x006 => rMTb .ldt r
  | 0x007 => rMTb .stt r
  | 0x008 => rM .ldbc r
  | 0x009 => rM .pref r
  | 0x00A => rM .aadd r
  | 0x00B => rM .amin r
  | 0x00C => rM .amax r
  | 0x00D => rM .aand r
  | 0x00E => rM .aor r
  | 0x00F => rM .axor r
  | 0x010 => rM .aexch r
  | 0x011 => rM .acas r
  | 0x012 => rM .redadd r
  | 0x013 => rM .redmin r
  | 0x014 => rM .redmax r
  | 0x015 => rM .redand r
  | 0x016 => rM .redor r
  | 0x017 => rM .redxor r
  | 0x018 => rM .badd r
  | 0x019 => rM .bread r
  | 0x01A => rM .gath r
  | 0x01B => rM .scat r
  | 0x01C => rM .scatr r
  | 0x01D => rWaitc .waitc r
  | 0x01E => rWaitu .waitu r
  | 0x01F => rE .copy r
  | 0x020 => rEng .stream r
  | 0x021 => rTid .tnset r
  | 0x022 => rTid .tnget r
  | 0x023 => rTbC .ttrdy r
  | 0x024 => rTbC .ttrel r
  | 0x025 => rTbC .ttsub r
  | 0x026 => rEng .ttstop r
  | 0x027 => rTbC .ttget r
  | 0x028 => rE .trav r
  | 0x080 => rA .add r
  | 0x081 => rA .sub r
  | 0x082 => rA .addsat r
  | 0x083 => rA .subsat r
  | 0x084 => rA .mul r
  | 0x085 => rA .mulhi r
  | 0x086 => rA .mad r
  | 0x087 => rA .madw r
  | 0x088 => rA .div r
  | 0x089 => rA .rem r
  | 0x08A => rA .neg r
  | 0x08B => rA .abs r
  | 0x08C => rA .min r
  | 0x08D => rA .max r
  | 0x08E => rA .clamp r
  | 0x08F => rA .absdiff r
  | 0x090 => rA .and r
  | 0x091 => rA .or r
  | 0x092 => rA .xor r
  | 0x093 => rA .not r
  | 0x094 => rA .andn r
  | 0x095 => rA .shl r
  | 0x096 => rA .shr r
  | 0x097 => rA .sar r
  | 0x098 => rA .rotl r
  | 0x099 => rA .funshr r
  | 0x09A => rA .bfx r
  | 0x09B => rA .bfi r
  | 0x09C => rA .popc r
  | 0x09D => rA .clz r
  | 0x09E => rA .ctz r
  | 0x09F => rA .brev r
  | 0x0A0 => rA .permb r
  | 0x0A1 => rA .sel r
  | 0x0A2 => rA .mov r
  | 0x0A3 => rA .lea r
  | 0x0A4 => rCmp .icmp r
  | 0x0A5 => rA .fadd r
  | 0x0A6 => rA .fsub r
  | 0x0A7 => rA .fmul r
  | 0x0A8 => rA .fma r
  | 0x0A9 => rA .fms r
  | 0x0AA => rA .fnma r
  | 0x0AB => rA .fmin r
  | 0x0AC => rA .fmax r
  | 0x0AD => rA .fabs r
  | 0x0AE => rA .fneg r
  | 0x0AF => rA .fdiv r
  | 0x0B0 => rA .fsqrt r
  | 0x0B1 => rA .frcp r
  | 0x0B2 => rA .frsq r
  | 0x0B3 => rA .fexp2 r
  | 0x0B4 => rA .flog2 r
  | 0x0B5 => rA .fsin r
  | 0x0B6 => rA .fcos r
  | 0x0B7 => rA .ftanh r
  | 0x0B8 => rA .fsigm r
  | 0x0B9 => rA .frnd r
  | 0x0BA => rA .ffrac r
  | 0x0BB => rCmp .fcmp r
  | 0x0BC => rClass .fclass r
  | 0x0BD => rA .fdot2 r
  | 0x0BE => rA .fdot4 r
  | 0x0BF => rA .fscale r
  | 0x0C0 => rCvt .fcvt r
  | 0x0C1 => rCvt .ftoi r
  | 0x0C2 => rCvt .itof r
  | 0x0C3 => rCvt .icvt r
  | 0x0C4 => rA .pack r
  | 0x0C5 => rA .unpk r
  | 0x0C6 => rCvt .qcvt r
  | 0x0C7 => rCvt .qdeq r
  | 0x0C8 => rA .mxcvt r
  | 0x0C9 => rE .pand r
  | 0x0CA => rE .por r
  | 0x0CB => rE .pxor r
  | 0x0CC => rE .pandn r
  | 0x0CD => rPset .pset r
  | 0x180 => rA .shfl r
  | 0x181 => rA .shflx r
  | 0x182 => rA .shflu r
  | 0x183 => rA .shfld r
  | 0x184 => rA .shfls r
  | 0x185 => rA .push r
  | 0x186 => rA .pushs r
  | 0x187 => rA .bcast r
  | 0x188 => rA .voteany r
  | 0x189 => rA .voteall r
  | 0x18A => rA .voteeq r
  | 0x18B => rE .ballot r
  | 0x18C => rE .pcount r
  | 0x18D => rA .matchv r
  | 0x18E => rScan .scani r
  | 0x18F => rScan .scanx r
  | 0x190 => rScan .wred r
  | 0x191 => rScan .wredv r
  | 0x192 => rScan .segscan r
  | 0x193 => rA .compact r
  | 0x194 => rE .firstl r
  | 0x1C0 => rE .mbind r
  | 0x1C1 => rE .mzero r
  | 0x1C2 => rTbB .mldw r
  | 0x1C3 => rE .mswap r
  | 0x1C4 => rMma .mma r
  | 0x1C5 => rMmas .mmas r
  | 0x1C6 => rMma .mmaq r
  | 0x1C7 => rMmax .mmax r
  | 0x1C8 => rTwo .mrdy r
  | 0x1C9 => rE .mdrn r
  | 0x1CA => rE .mdrnc r
  | 0x1CB => rMsta .msta r
  | 0x1CC => rTbB .mlda r
  | 0x1CD => rMpget .mpget r
  | 0x1CE => rE .mpset r
  | 0x1CF => rMscb r
  | 0x1D0 => rBoolC .mpair r
  | 0x1D1 => rE .munbind r
  | 0x1D2 => rE .mscale r
  | 0x1D3 => rBoolC .mcvt r
  | 0x200 => rE .bmake r
  | 0x201 => rE .bmakea r
  | 0x202 => rBwalk .bwalk r
  | 0x203 => rBoolC .bsplit r
  | 0x204 => rBpop .bpop r
  | 0x205 => rE .brefl r
  | 0x206 => rE .bkalloc r
  | 0x207 => rE .bkfree r
  | 0x208 => rKmode .bkget r
  | 0x209 => rKmode .bkput r
  | 0x20A => rE .bovf r
  | 0x20B => rBstat r
  | 0x220 => rBr .br r
  | 0x221 => rBri .bri r
  | 0x222 => rCall .call r
  | 0x223 => rEng .calli r
  | 0x224 => rEng .ret r
  | 0x225 => rE .rejoin r
  | 0x226 => rE .exit r
  | 0x227 => rE .nop r
  | 0x228 => rTwo .bar r
  | 0x229 => rE .barl r
  | 0x22A => rTwo .bara r
  | 0x22B => rBarget .barget r
  | 0x22C => rBarget .barset r
  | 0x22D => rE .spawn r
  | 0x22E => rE .spawnl r
  | 0x22F => rE .qput r
  | 0x230 => rStat .qtake r
  | 0x231 => rStat .qsteal r
  | 0x232 => rNreg .tasknew r
  | 0x233 => rE .taskdec r
  | 0x234 => rNreg .suspend r
  | 0x235 => rCode .trap r
  | 0x236 => rNum .srget r
  | 0x237 => rNum .srset r
  | 0x238 => rE .divget r
  | 0x239 => rE .divset r
  | 0x23A => rE .flgget r
  | 0x23B => rE .flgset r
  | 0x23C => rE .lsdet r
  | 0x23D => rE .lsatt r
  | 0x23E => rOff .pcget r
  | 0x23F => rE .clkget r
  | 0x240 => rE .yield r
  | 0x241 => rCode .brkpt r
  | 0x242 => rHint .pwrhint r
  | 0x243 => rHint .ratio r
  | 0x244 => rE .seqget r
  | 0x245 => rE .seqset r
  | _ => none

/-! ### The forms (R159) -/

/-- A half of a paired word: op, d, a, the reserved bit, type and count (R170). -/
def readHalf (x : Nat) : Option Half := do
  let op ← POp.ofCode (x / 2 ^ 24 % 128)
  if x / 128 % 2 == 1 then none
  let t ← rVTy (x % 128)
  some { op, d := BitVec.ofNat 8 (x / 2 ^ 16), a := BitVec.ofNat 8 (x / 2 ^ 8), t }

/-- A flag field of a header: 0 to 11, or 15 for none (R160). -/
def readFlag (n : Nat) : Option (Option (Fin 12)) :=
  if h : n < 12 then some (some ⟨n, h⟩) else if n == 15 then some none else none

/-- A word of form 0b11 (R160). -/
def readHeader (w : Word) : Option Header := do
  let seta ← readFlag (bits w 49 46)
  let setb ← readFlag (bits w 45 42)
  if bits w 36 0 == 0 then
    some { wait := field w 50 12, seta, setb, len := field w 38 4, sp := bit w 37 }
  else none

/-- An instruction that passes every check, or the first check it fails (R173). -/
def checked (i : Option Instr) : Except DecErr Instr :=
  match i with
  | none => .error .illegalInstruction
  | some i =>
    match i.check with
    | none => .ok i
    | some e => .error e

/-- The instruction of a full word, or of a pair led by a word of form 0b10, before its operands are checked: what
the first two steps of R173 look at. -/
def unchecked (w next : Word) : Option Instr :=
  match bits w 63 62 with
  | 0 => if opAssigned (bits w 61 52) then (readRaw w none).bind (build (bits w 61 52)) else none
  | 2 =>
    if bits next 63 62 == 0 && opAssigned (bits next 61 52) then (readRaw next (some w)).bind (build (bits next 61 52))
    else none
  | _ => none

/-- A full word, led by another or not. -/
def decodeFull (w : Word) (pfx : Option Word) : Except DecErr Instr :=
  if opAssigned (bits w 61 52) then checked ((readRaw w pfx).bind (build (bits w 61 52)))
  else if pfx.isSome then .error .illegalInstruction
  else .ok (.unassignedOpcode w)

/-- The word at a program counter, with the word after it for a pair that a word of form 0b10 leads. A word whose
opcode is not assigned decodes to the step that raises ILLEGAL_INSTRUCTION (R174). -/
def decode (w next : Word) : Except DecErr Instr :=
  match bits w 63 62 with
  | 0 => decodeFull w none
  | 1 =>
    if unassigned w then .ok (.unassignedOpcode w)
    else checked (do
      let h1 ← readHalf (bits w 61 31)
      let h2 ← readHalf (bits w 30 0)
      some (.pairedWord h1 h2))
  | 2 => if bits next 63 62 == 0 then decodeFull next (some w) else .error .illegalInstruction
  | _ => checked ((readHeader w).map .clauseHeaderPass)

/-- The words an instruction takes: two for a pair that a word of form 0b10 leads (R161). -/
def Instr.words (i : Instr) : Nat :=
  match i.parts with
  | some p => if p.ops.pfx.isSome then 2 else 1
  | none => 1

/-! ### The encoder -/

/-- A word from its fields, each a number and the place of its lowest bit. -/
def pack (fs : List (Nat × Nat)) : Word := BitVec.ofNat 64 ((fs.map fun f => f.1 * 2 ^ f.2).sum)

def encPfx (x : Pfx) : Word :=
  pack [(2, 62), (p15Code x.mask, 58), (x.zero.toNat, 57), (x.rnd.code, 54),
    ((match x.scope with | some sc => sc.code + 1 | none => 0), 51),
    ((match x.e with | some o => 1024 + o.code.toNat | none => 0), 40),
    ((match x.lit with | some l => 2 ^ 39 + l.sel.code * 2 ^ 37 + l.kind.code * 2 ^ 35 + l.val.toNat | none => 0), 0)]

def encFull (p : Parts) : Word :=
  let r := Row.of p.op
  let pr := match p.ops.pred with
    | .always => 15 * 2
    | .sel n inv => n.val * 2 + inv.toNat
  pack [(p.op, 52), (p.ops.d.code.toNat, 42), (p.ops.a.code.toNat, 32),
    ((if r.b == .ctl then p.b else p.ops.b.code).toNat, 22), ((if r.c == .ctl then p.c else p.ops.c.code).toNat, 12),
    (pr, 7), (p.mod.toNat, 0)]

def encHalf (h : Half) : Nat :=
  h.op.code * 2 ^ 24 + h.d.toNat * 2 ^ 16 + h.a.toNat * 2 ^ 8 + h.t.ty.code * 4 + h.t.cnt.code

def encFlag : Option (Fin 12) → Nat
  | some n => n.val
  | none => 15

def encHeader (h : Header) : Word :=
  pack [(3, 62), (h.wait.toNat, 50), (encFlag h.seta, 46), (encFlag h.setb, 42), (h.len.toNat, 38), (h.sp.toNat, 37)]

/-- The word at an instruction's program counter and, for a pair, the word after it; none for an event. -/
def encode (i : Instr) : Option (Word × Option Word) :=
  match i with
  | .pairedWord h1 h2 => some (pack [(1, 62), (encHalf h1, 31), (encHalf h2, 0)], none)
  | .clauseHeaderPass h => some (encHeader h, none)
  | .unassignedOpcode w => some (w, none)
  | i =>
    match i.parts with
    | none => none
    | some p =>
      match p.ops.pfx with
      | none => some (encFull p, none)
      | some x => some (encPfx x, some (encFull p))

/-! ### The opcode table's numbering -/

/-- The instruction read from bits w, bit 0 the least significant bit of the first word, later words above it. -/
def decodeTableWord (_nbits w : Nat) : Option Instr :=
  match decode (BitVec.ofNat 64 w) (BitVec.ofNat 64 (w / 2 ^ 64)) with
  | .ok i => some i
  | .error _ => none

end Sys2Proof
end

