-- ==== Sys2Proof/Machine/Sparse.lean ====
section
/-! DEFINITION. Sparse data by key: a list of key and value pairs with strictly rising keys, and the same for bytes
of memory, where an unlisted address reads as zero and no zero is listed (22_host_firmware.md R435: the monitor
zeroes device memory before it can be read). -/

namespace Sys2Proof.Machine

/-- A sparse map from numbers, in strictly rising key order. -/
abbrev Map (α : Type) := List (Nat × α)

namespace Map
variable {α : Type}

/-- The value at a key. -/
def find? : Map α → Nat → Option α
  | [], _ => none
  | (k, x) :: m, n => if n = k then some x else if n < k then none else find? m n

/-- The value at a key, or a default. -/
def getD (m : Map α) (n : Nat) (d : α) : α := (m.find? n).getD d

/-- The map with a key set. -/
def set : Map α → Nat → α → Map α
  | [], n, y => [(n, y)]
  | (k, x) :: m, n, y =>
    if n = k then (n, y) :: m else if n < k then (n, y) :: (k, x) :: m else (k, x) :: set m n y

/-- The map with a key removed. -/
def del : Map α → Nat → Map α
  | [], _ => []
  | (k, x) :: m, n => if n = k then m else if n < k then (k, x) :: m else (k, x) :: del m n

/-- The value at a key changed, if the key is listed. -/
def upd (m : Map α) (n : Nat) (f : α → α) : Map α :=
  match m.find? n with
  | some x => m.set n (f x)
  | none => m

def keys (m : Map α) : List Nat := m.map Prod.fst
def vals (m : Map α) : List α := m.map Prod.snd

/-- The keys rise strictly. -/
def wf : Map α → Bool
  | [] => true
  | [_] => true
  | (k, _) :: (n, y) :: m => decide (k < n) && wf ((n, y) :: m)

/-- The first number from `lo` that is no key, looking at most `fuel` numbers ahead. -/
def fresh (m : Map α) (lo : Nat) : Nat → Nat
  | 0 => lo
  | fuel + 1 => if (m.find? lo).isSome then fresh m (lo + 1) fuel else lo

/-- The first key whose value passes a test. -/
def findKey? (m : Map α) (f : Nat → α → Bool) : Option Nat :=
  (List.find? (fun p => f p.1 p.2) m).map Prod.fst

end Map

/-- Bytes of memory by address. -/
abbrev Memory := Map Byte

namespace Memory

/-- One byte: an unlisted address reads as zero. -/
def byte (m : Memory) (a : Nat) : Byte := Map.getD m a 0

/-- A byte written: writing zero removes the entry. -/
def put (m : Memory) (a : Nat) (x : Byte) : Memory := if x = 0 then Map.del m a else Map.set m a x

/-- n bytes from an address, little-endian (R1). -/
def read (m : Memory) (a : Nat) : Nat → Nat
  | 0 => 0
  | n + 1 => (byte m a).toNat + 256 * read m (a + 1) n

/-- n bytes written from an address, little-endian (R1). -/
def write (m : Memory) (a : Nat) : Nat → Nat → Memory
  | 0, _ => m
  | n + 1, x => write (put m a (BitVec.ofNat 8 x)) (a + 1) n (x / 256)

/-- A list of bytes written from an address. -/
def writeBytes (m : Memory) (a : Nat) : List Byte → Memory
  | [] => m
  | x :: xs => writeBytes (put m a x) (a + 1) xs

/-- The canonical form: keys rise strictly and no listed byte is zero. -/
def wf (m : Memory) : Bool := Map.wf m && m.all fun p => p.2 != 0

end Memory

/-- The n bytes of a number, little-endian (R1). -/
def bytesOf (x : Nat) : Nat → List Byte
  | 0 => []
  | n + 1 => BitVec.ofNat 8 x :: bytesOf (x / 256) n

/-- The number that bytes hold, little-endian (R1). -/
def ofBytes : List Byte → Nat
  | [] => 0
  | b :: bs => b.toNat + 256 * ofBytes bs

end Sys2Proof.Machine
end

