-- ==== Sys2Proof/Machine/State.lean ====
section
/-! DEFINITION. The state of a Z960 as plain data: every register, memory, table, queue and work item that the spec
names, and the reasons a step can stop. Records are kept in sparse maps by number, so that a device of 192 cores and
4,096 control registers a die is one small term after reset. -/

namespace Sys2Proof.Machine

/-! ### Numbers of things

A core is 64 × die + position. A wave is 256 × core + 32 × slice + wave slot. Control core k of die d is the wave
2^20 + 2 d + k. A launch is 1024 × queue + record slot. -/

/-- The trap codes of R376. -/
inductive Trap
  | illegalInstruction | illegalOperand | misaligned | vaRange | ctxInvalid | badEntry | walkUnmapped | notPresent
  | permission | pageFault | unmappedPhys | memUncorr | atomicTarget | leashTarget | scratchRange | tileRange
  | tileUnbound | accUnbound | matrixShape | matrixPair | matrixScb | kennelSlot | kennelState | beamControl
  | barrierScope | barrierState | spawnTarget | queueDesc | rejoinCycle | user | breakpoint
deriving DecidableEq, Repr

/-- The 8-bit code of a trap (R376). -/
def Trap.code : Trap → Nat
  | .illegalInstruction => 0x01 | .illegalOperand => 0x02 | .misaligned => 0x03 | .vaRange => 0x04
  | .ctxInvalid => 0x05 | .badEntry => 0x06 | .walkUnmapped => 0x07 | .notPresent => 0x08 | .permission => 0x09
  | .pageFault => 0x0A | .unmappedPhys => 0x0B | .memUncorr => 0x0C | .atomicTarget => 0x0D | .leashTarget => 0x0E
  | .scratchRange => 0x0F | .tileRange => 0x10 | .tileUnbound => 0x11 | .accUnbound => 0x12 | .matrixShape => 0x13
  | .matrixPair => 0x14 | .matrixScb => 0x15 | .kennelSlot => 0x16 | .kennelState => 0x17 | .beamControl => 0x18
  | .barrierScope => 0x19 | .barrierState => 0x1A | .spawnTarget => 0x1B | .queueDesc => 0x1C | .rejoinCycle => 0x1D
  | .user => 0x1E | .breakpoint => 0x1F

/-! ### Lanes and waves -/

/-- What a lane waits for (R161, R202, R204, R328, R331, R338). -/
inductive Wait
  | none
  /-- held at issue, or waiting at a clause header, and tried again at each turn; `true` counts as waiting (R161), and
  the number is the stall reason of R401 -/
  | held (counts : Bool) (why : Nat)
  /-- the page walks of its access are under way (R52); it is no hold, and tried again at each turn -/
  | walk
  /-- held at a cross-lane instruction until parked members of the group are back, and tried again (R242) -/
  | cross
  /-- leashed at a WAITU (R204) -/
  | leash
  /-- at a REJOIN, with the mask snapshot (R328) -/
  | rejoin (m : Mask)
  /-- at barrier index 0 to 4 (R331) -/
  | bar (idx : Nat)
  /-- released from the launch barrier, resuming in a round of the limiter (R375) -/
  | inRound
  /-- at a queue, task or Leash reply; the number names the message (R338, R341, R348, R349) -/
  | reply (msg : Nat)
  /-- at a SUSPEND whose record stores have not completed at .k (R341) -/
  | suspend (tx : Nat)
  /-- waiting for the rest of the slice cycle (R350) -/
  | yield
  /-- at an MRDY whose MMAX has not completed (R266) -/
  | mrdy (entry : Nat)
deriving DecidableEq, Repr

/-- What a lane knows of its clause (R161). -/
inductive Clause
  /-- the next word must be a header -/
  | header
  /-- inside a clause whose last word is before the address, with its two flags -/
  | inside (stop : Word) (seta setb : Option (Fin 12))
  /-- resumed at a stop point (R161, R346) -/
  | resume
deriving DecidableEq, Repr

/-- Whether a lane runs (R54, R330, R370). -/
inductive LaneSt
  | active
  /-- parked at its word under a translation fault (R54) -/
  | parked
  | exited
deriving DecidableEq, Repr

/-- A lane: its program counter and divergence depth (R326), and where it stands. -/
structure Lane where
  pc : Word := 0
  dd : BitVec 8 := 0
  st : LaneSt := .active
  wait : Wait := .none
  cl : Clause := .header
  /-- issues of the wave that passed its group over while it was ready (R373) -/
  passes : Nat := 0
  /-- the lane group that a lane parked from, which it is a pending member of; 0 for none (R242) -/
  pend : Mask := 0
  /-- the stop point and depth that DIVGET reads in a save routine (R346, R388) -/
  stop : Option (Word × BitVec 8) := none
  /-- the wait that a lane was stopped in when its wave entered a save routine -/
  was : Wait := .none
  /-- the lane stands for its group's load, which waits for page walks and is counted in LDC (R52) -/
  counted : Bool := false
deriving DecidableEq, Repr

/-- A register that an access in flight will write (R192): 64 n + lane for vector register n, 2^16 + n for scalar n,
2^17 + 64 n + lane for a predicate bit. -/
structure Out where
  tx : Nat
  reg : Nat
  /-- written since, so that completion leaves an undefined value -/
  hit : Bool := false
deriving DecidableEq, Repr

/-- A cross-lane instruction whose destinations are not written yet (R243): the slice cycles until they are, and what they
receive, by the registers' numbers of `Out`. -/
structure XRes where
  left : Nat
  writes : List (Nat × Word)
deriving DecidableEq, Repr

/-- What an instruction with no lane to serve lowers again in the next cycle (R161, R190). -/
structure Fall where
  seta : Option (Fin 12)
  setb : Option (Fin 12)
  ldc : Bool := false
  stc : List Scope := []
deriving DecidableEq, Repr

/-- A wave's outstanding or adopted Leash registration (R204, R348, R349). -/
structure Reg where
  token : Nat
  cmp : LCmp
  wide : Bool
  pa : Nat
  operand : Word
  /-- the lanes leashed, with the words, destination and status predicate of their WAITU; none while adopted -/
  lanes : Mask
  k : Nat := 1
  dst : Opd
  status : Option (Fin 15)
  sel : Mask
  /-- units of 1,024 cycles, 0 for no limit, and the core cycle the registration left at (R204) -/
  units : Nat
  since : Nat
  adopted : Bool := false
  /-- an adopted entry's wake, or its TIMEOUT, that has already arrived (R349) -/
  woken : Option Word := none
  expired : Bool := false
  /-- a cancel has been sent -/
  cancelled : Bool := false
deriving DecidableEq, Repr

/-- An open accumulator drain (R271). -/
structure Drain where
  handle : Nat
  row : Nat
  col : Nat
  clear : Bool
deriving DecidableEq, Repr

/-- What kind of thing a wave is (R335, R366, R369, R392). -/
inductive WKind | team | spawned | dispatched | task | control
deriving DecidableEq, Repr

/-- A log record of replay, or what a wave's quantum has done (R406 to R409). -/
structure Quantum where
  /-- words issued in the quantum -/
  count : Nat := 0
  ended : Bool := false
  /-- the private buffer: transactions of stores and reductions held for the commit round, oldest first (R407) -/
  heldTx : List Nat := []
  /-- commands held for the commit round -/
  heldCmd : List Nat := []
  /-- lanes whose word waits for the round, and those whose word the round has granted -/
  wants : Mask := 0
  grant : Mask := 0
  /-- in a save or restore routine, which runs unbuffered and is not counted (R410) -/
  routine : Bool := false
  /-- the first number that a transaction of the quantum may have -/
  start : Nat := 0
  /-- the results logged in the quantum, kind, lane and value, and those that its re-execution has still to take (R410) -/
  memo : List (Nat × Nat × Word) := []
  redo : List (Nat × Nat × Word) := []
deriving DecidableEq, Repr

/-- How a save of a wave stands (R387, R391). -/
inductive SaveSt
  | none
  /-- in the save routine of safe-point record i -/
  | saving (i : Nat)
deriving DecidableEq, Repr

/-- A wave resident on a slice, or a control core (R148 to R157, R190, R326, R344). -/
structure Wave where
  kind : WKind := .team
  /-- counts waves as they are created, so that a later wave in the slot is another wave (R382, R391) -/
  serial : Nat := 0
  launch : Nat := 0
  team : Nat := 0
  teamNo : Word := 0
  waveId : Nat := 0
  teamSize : Nat := 0
  ctx : Nat := 0
  /-- virtual address of the kernel header -/
  kernel : Nat := 0
  width : Nat := 16
  /-- vector and scalar registers allocated, and their base row and entry (R157) -/
  nv : Nat := 0
  ns : Nat := 0
  row : Nat := 0
  entry : Nat := 0
  lanes : List Lane := []
  /-- vector register n of lane l at 64 n + l; an unlisted one holds the wave's undefined value (R149) -/
  v : Map Word := []
  s : Map Word := []
  p : List Mask := List.replicate 15 0
  fpctl : Word := 0
  fpflags : Word := 0
  srseed : Word := 0
  srcnt : Word := 0
  flags : List Nat := List.replicate 12 0
  fst : List (BitVec 32) := List.replicate 12 0
  ldc : Nat := 0
  stct : Nat := 0
  stcd : Nat := 0
  stck : Nat := 0
  stcs : Nat := 0
  xlc : Nat := 0
  engc : Nat := 0
  seq : BitVec 32 := 0
  outs : List Out := []
  /-- cross-lane results on their way, and what falls in the next cycle -/
  xl : List XRes := []
  fall : List Fall := []
  leash : Option Reg := none
  adopted : Option Reg := none
  drain : Option Drain := none
  /-- clock ratio request (R350) -/
  ratio : BitVec 2 := 0
  hint : BitVec 2 := 0
  /-- holder and held lanes (R372) -/
  holds : List (Mask × Mask) := []
  /-- lane + 64 × virtual page, for each walk that ended in a fault that the lane's next issue takes (R52, R53) -/
  xfault : List (Nat × Trap) := []
  /-- stopped by a trap (R377) -/
  stopped : Bool := false
  /-- traps of the wave that wait for an action (R382) -/
  traps : List Nat := []
  save : SaveSt := .none
  /-- matrix operations in flight that read the wave's registers, and the vector and scalar registers written since the
  first of them issued, newest first (R155, R267) -/
  watch : Nat := 0
  vhits : List Nat := []
  /-- TKERNEL of a control core (R344) -/
  tkernel : Word := 0
  quantum : Quantum := {}
deriving DecidableEq, Repr

/-! ### Teams and launches -/

/-- A team barrier (R331). -/
structure Barrier where
  phase : Bool := false
  sent : Bool := false
  count : Nat := 0
  /-- one bit for each wave index, 0 to 383 -/
  mask : BitVec 384 := 0
  /-- LA, by wave index -/
  la : Map Mask := []
deriving DecidableEq, Repr

/-- A scoreboard entry (R265). -/
structure Scb where
  mask : BitVec 32 := 0
  arrived : BitVec 32 := 0
  busy : Bool := false
  base : BitVec 9 := 0
deriving DecidableEq, Repr

/-- A tile bound by a team: the launch's copy of its tensor entry (R134, R254). -/
structure Tile where
  tb : Nat
  entry : List Word
deriving DecidableEq, Repr

/-- A stopped matrix operation (R274). -/
structure MRec where
  word : Word
  seta : Option (Fin 12)
  setb : Option (Fin 12)
  wave : Nat
  row : Nat
  step : Nat
  pc : Word
  mask : BitVec 32
  base : BitVec 9
deriving DecidableEq, Repr

/-- A save request on a team (R386). -/
inductive SaveReq
  | none
  /-- op 1 or 2 (hold), and the die that received the write -/
  | pending (hold : Bool) (die : Nat)
deriving DecidableEq, Repr

/-- A team placed on a core or core pair (R154, R257, R304, R331, R358). -/
structure Team where
  launch : Nat := 0
  number : Nat := 0
  core : Nat := 0
  pair : Bool := false
  /-- takes a team slot; false for a wave formed from a bin, a queue or a record (R369) -/
  slot : Bool := true
  kernel : Nat := 0
  nwaves : Nat := 1
  /-- wave numbers by wave index; an ended wave is removed -/
  waves : Map Nat := []
  /-- pinned line ranges, first line and lines: the scratchpad, and the kennels of the leader and the follower -/
  scratch : Nat × Nat := (0, 0)
  kennel : Nat × Nat := (0, 0)
  kennel2 : Nat × Nat := (0, 0)
  kslots : Nat := 0
  tiles : List Tile := []
  accBase : Nat := 0
  accSize : Nat := 0
  handles : List Word := List.replicate 16 0
  paired : Bool := false
  scb : List Scb := List.replicate 4 {}
  stopList : List MRec := []
  split : Word := 0x38
  bars : List Barrier := List.replicate 5 {}
  save : SaveReq := .none
  /-- its save header is written, and its area (R389) -/
  saving : Bool := false
  area : Nat := 0
  /-- the waves that the save header counts, by WAVEID, and those that have entered a routine -/
  saveWs : List Nat := []
  entered : List Nat := []
deriving DecidableEq, Repr

/-- A team waiting to be restored or placed, or held (R360, R363, R386, R391). -/
structure Saved where
  launch : Nat
  number : Nat
  /-- a saved team, with its area; false for one that has not begun -/
  saved : Bool
  pair : Bool := false
  hold : Bool := false
  area : Nat := 0
  /-- it came from another die, whose slices' copies it has still to be kept from (R322) -/
  away : Bool := false
deriving DecidableEq, Repr

/-- The fields of a kernel header that placement and issue use (R177), and its tables (R178, R179). -/
structure Kernel where
  va : Nat := 0
  entry : Nat := 0
  clen : Nat := 0
  width : Nat := 16
  team : Nat := 1
  nv : Nat := 8
  ns : Nat := 16
  ratio : BitVec 2 := 0
  skc : Bool := false
  fz : Bool := false
  kennel : Nat := 0
  acc : Nat := 0
  scr : Nat := 0
  /-- tb, scr bit, tid -/
  tiles : List (Nat × Bool × Nat) := []
  /-- safe point, save routine, restore routine, save area bytes -/
  safe : List (Nat × Nat × Nat × Nat) := []
deriving DecidableEq, Repr

/-- How a launch stands (R356, R357, R382). -/
inductive LaunchSt | running | aborting | ended
deriving DecidableEq, Repr

/-- An accepted launch (R355, R356). -/
structure Launch where
  st : LaunchSt := .running
  queue : Nat := 0
  slot : Nat := 0
  /-- physical address of the record -/
  record : Nat := 0
  ctx : Nat := 0
  prio : Nat := 0
  order : Nat := 0
  kernel : Kernel := {}
  nteams : Nat := 0
  dmask : BitVec 4 := 0
  co : Bool := false
  scr : Bool := false
  task : Bool := false
  ser : Bool := false
  bto : Nat := 4096
  seed : Word := 0
  tnbase : Nat := 0
  spawn : List Kernel := []
  dq : Nat := 0
  done : Nat := 0
  tiles : List Tile := []
  /-- by die, how many teams of its share have left the dealing order, and those that left it before their turn -/
  dealt : List Nat := List.replicate 4 0
  taken : List Nat := []
  ended : Nat := 0
  /-- releases of the launch barrier so far, and the launch's pointer (R375) -/
  releases : Nat := 0
  pointer : Nat := 0
  /-- after a release, for each die: the cycle of its control core 0 at which the release came, the next round and the
  clusters still to be admitted, in sequence order (R375) -/
  rounds : List (Nat × Nat × Nat × List Nat) := []
  /-- aborted: status FAULTED in place of DONE (R382) -/
  faulted : Bool := false
  /-- recorded (1) or replayed (2), with its quantum of words (R406) -/
  rec_ : Nat := 0
  quantum : Nat := 0
deriving DecidableEq, Repr

/-! ### Memory accesses in flight -/

/-- What a memory access does (R194 to R200, R341). -/
inductive TxKind
  | load | store
  | atomic (op : ROp)
  | exch | cas
  | reduce (op : ROp)
  | badd | bread
deriving DecidableEq, Repr

/-- One lane's access, or one word of a scalar run. -/
structure Acc where
  lane : Nat
  va : Word
  pa : Nat
  n : Nat
  data : Word := 0
  data2 : Word := 0
  /-- stores: 0 at the store queue, 1 performed at the L1, 2 at the die slice, 3 at the home slice -/
  stage : Nat := 0
  /-- an atomic or binned read has been performed, with its old value -/
  old : Option Word := none
  win : Bool := false
  /-- a flag of FPFLAGS that a binned read sets (R200) -/
  fl : Nat := 0
  /-- a deferred failure (R378) -/
  failed : Option Trap := none
  /-- its destination is written -/
  done : Bool := false
  /-- the host has written its bytes of host memory while it is in flight (R67) -/
  clash : Bool := false
deriving DecidableEq, Repr

/-- A task record of a TASKNEW, TASKDEC or SUSPEND: the lane, the addresses of its count word, and the old count once
decremented (R341). -/
structure TaskDec where
  lane : Nat
  va : Word
  pa : Nat
  old : Option Word := none
deriving DecidableEq, Repr

/-- A memory instruction's accesses (R190, R310, R311). -/
structure Tx where
  wave : Nat
  serial : Nat
  kind : TxKind
  scope : Scope
  ty : MTy
  dst : Opd
  dst2 : Opd := .zero
  /-- a run of scalars (R195) -/
  run : Bool := false
  /-- made once for the wave (R165) -/
  scalar : Bool := false
  seta : Option (Fin 12) := none
  setb : Option (Fin 12) := none
  pc : Word
  seq : BitVec 32
  accs : List Acc
  /-- the selected lanes that issued it -/
  sel : Mask := 0
  /-- scopes whose acknowledgement has not lowered its count yet (R190) -/
  owed : List Scope := []
  /-- still counted in LDC, with its flags raised -/
  ldc : Bool := false
  launch : Nat := 0
  ctx : Nat := 0
  core : Nat := 0
  /-- its deferred trap has been taken (R378) -/
  struck : Bool := false
  /-- a sampled request: the cycle it issued in and where its wave stands, word 0x10 of R400 (R403) -/
  sample : Option (Nat × Word) := none
  /-- in the private buffer of its wave's quantum (R407) -/
  held : Bool := false
  /-- task records (R341) -/
  tasks : List TaskDec := []
  /-- the lanes exit once their records' counts have been decremented -/
  suspend : Bool := false
deriving DecidableEq, Repr

/-- A translation (R48, R51): log2 of the page size, its page numbers and rights. -/
structure Leaf where
  ctx : Nat
  size : Nat
  va : Nat
  pa : Nat
  rd : Bool
  w : Bool
  x : Bool
deriving DecidableEq, Repr

/-- A walk in progress (R52): the page, and the waves and lanes that wait on it. -/
structure Walking where
  die : Nat
  ctx : Nat
  vpn : Nat
  /-- wave, serial and lanes -/
  waiting : List (Nat × Nat × Mask)
deriving DecidableEq, Repr

/-- Who is attached to an entry of the fault ring (R55 to R57). -/
inductive Attached
  | lanes (wave serial : Nat) (m : Mask)
  | cmd (n unit : Nat)
  | walk (n : Nat)
  | matrix (core : Nat)
  | beam (core : Nat)
  | dispatch (core launch : Nat)
  | ready (core die : Nat)
deriving DecidableEq, Repr

/-- A fault that has not been written to the ring yet, or an unresolved entry of it (R55). -/
structure FaultReq where
  ctx : Nat
  va : Nat
  access : Nat
  fault : Nat
  requester : Nat
  origin : Nat
  lanes : Nat
  pc : Word
  seq : BitVec 32
  who : Attached
deriving DecidableEq, Repr

/-- An unresolved entry of a fault ring: its key and what is attached to it. -/
structure FaultEntry where
  idx : BitVec 32
  ctx : Nat
  vpn : Nat
  access : Nat
  who : List Attached
deriving DecidableEq, Repr

/-! ### The Leash -/

inductive LeashSt | waiting | detached | waking
deriving DecidableEq, Repr

/-- A monitor entry, in the table or in a spill bucket, or a held registration (R76, R79). -/
structure LeashEntry where
  st : LeashSt
  cmp : LCmp
  wide : Bool
  pa : Nat
  operand : Word
  /-- attached: the registering wave and its serial; detached: the counter's physical address -/
  wave : Nat
  serial : Nat
  counter : Nat := 0
  ctx : Nat
  token : Nat
  /-- order of registration -/
  order : Nat
  spilled : Bool := false
deriving DecidableEq, Repr

/-- A record on a ready queue (R366): its physical address, its virtual address where the decrement named it by one, the
context, how often it has been passed over, and the step in which it came (R368). -/
structure Ready where
  pa : Nat
  va : Option Word
  ctx : Nat
  passes : Nat := 0
  at_ : Nat := 0
deriving DecidableEq, Repr

/-- A message between a core and a home slice (R78, R204, R337, R342, R348, R349). -/
inductive Msg
  | register (wave serial : Nat) (e : LeashEntry)
  | cancel (wave serial token pa : Nat)
  | reply (wave serial token pa : Nat) (value : Option Word) (wake : Bool)
  | wakeAck (pa token ctx : Nat)
  /-- LSDET and LSATT, with the first of their scalar registers (R348, R349); 256 discards the status -/
  | detach (wave serial token pa counter dst : Nat)
  | attach (wave serial dst units : Nat) (e : LeashEntry)
  /-- a detached wake on its way to its counter, with the value that it stores there; once its decrement is made, what is to
  be acknowledged -/
  | decrement (pa counter token ctx : Nat) (value : Option Word)
  /-- the decrement of one record of a TASKDEC or SUSPEND (R341) -/
  | taskDec (tx idx : Nat)
  /-- a queue request, whose terms stand in `queues` under the message's number, and its reply (R337, R338) -/
  | queue
  | queueReply (items : List (Word × Word)) (n : Nat) (fault : Option Trap)
  /-- a store of a unit to a control register, on its way: die, offset, value and context (R99) -/
  | ctlWrite (die off : Nat) (val : Word) (ctx : Nat)
  /-- a held decrement whose record waits for room on a ready queue (R366) -/
  | readyHeld (die : Nat) (r : Ready)
deriving DecidableEq, Repr

/-- A queue request (R337): what is put or taken. -/
structure QReq where
  wave : Nat
  serial : Nat
  put : Bool
  steal : Bool
  desc : Nat
  va : Word
  ctx : Nat
  sel : Mask
  mask : Mask
  once : Bool
  items : List (Word × Word)
  dst : Opd
  /-- the predicate that receives the status bits, or ZERO -/
  status : Opd
  pc : Word
  seq : BitVec 32
  /-- the cycle of control core 0 of the descriptor's die in which it was made (R68) -/
  at_ : Nat := 0
deriving DecidableEq, Repr

/-! ### Engines -/

inductive CmdKind
  | copy | stream | gath | scat | scatr | tnset | tnget | trav
deriving DecidableEq, Repr

/-- One read or write of a command: where, how far, and what it carried (R137, R141). -/
structure EUnit where
  done : Bool := false
  parked : Bool := false
  failed : Option Nat := none
  /-- what its read brought, until its write -/
  got : Option (List Nat) := none
  /-- a block of a copy or a stream: the sectors that its reads and its writes failed on (R141), and the part last tried,
  by address and length -/
  lostR : List Nat := []
  lostW : List Nat := []
  part : Nat × Nat := (0, 0)
deriving DecidableEq, Repr

inductive CmdSt | queued | running | parked | finished
deriving DecidableEq, Repr

/-- An engine command (R135 to R147, R193, R201, R205, R206, R209). -/
structure Cmd where
  kind : CmdKind
  wave : Nat
  serial : Nat
  ctx : Nat
  core : Nat
  launch : Nat
  seta : Option (Fin 12)
  setb : Option (Fin 12)
  pc : Word
  seq : BitVec 32
  words : List Word
  scope : Scope := .k
  ty : MTy := .b64
  count : Nat := 0
  tid : Nat := 0
  dst : Opd := .zero
  tnbase : Nat := 0
  /-- engine: 8 × die + number for a copy, 2 × core + number for a stream -/
  eng : Nat := 0
  st : CmdSt := .queued
  /-- the tensor entries read at acceptance (R132): those that its one read has brought so far (R129), then those of its
  source and its destination -/
  entries : List (List Word) := []
  src : List Word := []
  dstE : List Word := []
  /-- how far it has come, its accesses by number, and the status so far (R139, R141) -/
  phase : Nat := 0
  units : Map EUnit := []
  status : Nat := 0
  fpflags : Nat := 0
  range : Bool := false
  stopped : Bool := false
  /-- streams: tile position, and slots submitted or released before their time (R143 to R145) -/
  pos : Nat := 0
  submits : List Nat := []
  tile : Option Nat := none
  /-- walks of a TRAV not yet done -/
  walks : Nat := 0
  /-- held for a commit round (R407) -/
  held : Bool := false
deriving DecidableEq, Repr

inductive WalkSt | queued | running | moving | parked | ending | done
deriving DecidableEq, Repr

/-- A Retriever walk (R82 to R94). -/
structure WalkRec where
  cmd : Nat
  lane : Nat
  ctx : Nat
  st : WalkSt := .queued
  /-- the five registers; an unset G is none -/
  p : Word
  k : Word
  t : Word := 0
  g : Option Word := none
  n : Nat := 0
  /-- the rule to run, the rules it carries, and how many have run since its last step -/
  rule : Nat := 0
  rules : List Word := []
  since : Nat := 0
  /-- 8 × die + Retriever, and whether it holds a slot there, and a reserved one -/
  retr : Nat := 0
  hasSlot : Bool := false
  reserved : Bool := false
  /-- the order in which it arrived as a migrating walk -/
  arrived : Nat := 0
  /-- the fault it is parked under: its code and address -/
  fault : Nat := 0
  faultVa : Nat := 0
  /-- the header, pointer and record of its result -/
  result : Option (Word × Word × List Byte) := none
deriving DecidableEq, Repr

/-! ### Cores -/

/-- A plane of the matrix array: its tag and the weights it copied (R253). -/
structure Plane where
  /-- the core that holds the weight tile -/
  core : Nat
  tb : Nat
  gen : Nat
  step : Nat
  /-- the bytes of the weight tile at the load -/
  image : List Byte
deriving DecidableEq, Repr

/-- A queued matrix operation (R252, R262, R270). -/
structure MOp where
  word : Word
  instr : Instr
  wave : Nat
  serial : Nat
  team : Nat
  waveId : Nat
  seta : Option (Fin 12)
  setb : Option (Fin 12)
  pc : Word
  seq : BitVec 32
  ctx : Nat
  handle : Word
  factor : Word
  fz : Bool
  skc : Bool
  gen : Nat
  step : Nat := 0
  row : Nat := 0
  began : Bool := false
  parked : Bool := false
  status : Nat := 0
  fpflags : Nat := 0
  mask : BitVec 32 := 0
  base : BitVec 9 := 0
  /-- the tensor entry of a streamed activation, once read -/
  tensor : Option (List Word) := none
  /-- the streamed row that has been read for the next step: code and scale of each k -/
  rowData : Option (List (Nat × Nat)) := none
  ended : Bool := false
  /-- the operation's number; one in PAIRED mode holds an entry of this number in both queues (R274) -/
  no : Nat := 0
  /-- the follower's entry of such an operation -/
  mirror : Bool := false
  /-- held for a commit round (R407) -/
  held : Bool := false
  /-- locations written while it is in flight (R155): `sramKey` and `accKey` number them -/
  hits : List Nat := []
  /-- the waves whose registers it reads, with how many writes of each had been noted at issue: the participants of an
  MMAX, or the wave that gives a scalar operand -/
  joined : List (Nat × Nat) := []
deriving DecidableEq, Repr

/-- A walk entry of a beam engine (R293). -/
structure BWalk where
  w0 : Word
  scene : Word
  seq : BitVec 32
  live : Nat
  pc : Word
  order : Nat
  serial : Nat
  wave : Nat
  desc : Option (List Word) := none
  status : Nat := 0
  parked : Bool := false
  /-- the slots that its BWALK named and that its start queues -/
  slots : List Nat := []
  /-- its screen tile's fill has been accepted (R292) -/
  filling : Bool := false
  /-- it ended early, or its last slot has ended -/
  ended : Bool := false
  /-- held for a commit round (R407) -/
  held : Bool := false
deriving DecidableEq, Repr

/-- A BPOP that waits for fragments, in issue order (R301). -/
structure BPop where
  wave : Nat
  serial : Nat
  lanes : List Nat
  dst : Opd
  status : Option (Fin 15)
  nowait : Bool
  seta : Option (Fin 12)
  setb : Option (Fin 12)
  /-- its number among the accesses in flight (R192) -/
  tx : Nat
  seq : BitVec 32
  sel : Mask
  /-- the fragments taken so far, by lane -/
  got : List (Nat × List Word) := []
deriving DecidableEq, Repr

/-- A beam engine (R278 to R307). -/
structure Beam where
  walks : Map BWalk := []
  frags : List (List Word) := []
  stopped : Bool := false
  conversions : Nat := 0
  pops : List BPop := []
  parked : Bool := false
  /-- the slot whose beam the engine advances (R294) -/
  cur : Option Nat := none
  /-- the words of entries not in use, as BKPUT left them (R306) -/
  spare : Map (List Word) := []
  /-- a fragment that an ended beam or ray still has to append (R289): its slot and words -/
  pending : Option (Nat × List Word) := none
deriving DecidableEq, Repr

/-- A thread waiting in a bin: entry address, argument and the number TEAMID will read (R335). -/
structure Thread where
  arg : Word
  team : Word
deriving DecidableEq, Repr

/-- A spawn bin of a core for one kernel of a launch (R335). -/
structure Bin where
  launch : Nat
  kernel : Nat
  threads : List Thread
  since : Nat
deriving DecidableEq, Repr

/-- A gathering slot of a core (R366). -/
structure Gather where
  launch : Nat
  ctx : Nat
  kernel : Nat
  pc : Word
  /-- the registers of each record -/
  recs : List (List Word)
  since : Nat
deriving DecidableEq, Repr

/-- A formed wave that waits for a place (R369), and the step in which it formed (R368). -/
structure Formed where
  launch : Nat
  kernel : Nat
  kind : WKind
  pc : Word
  team : Word
  threads : List (List Word)
  at_ : Nat := 0
deriving DecidableEq, Repr

/-- What a slice's last issue was: the core cycle and the primary's word; and its stall samples (R399, R402): points
passed, the slot last sampled, records dropped since the last written one. -/
structure SliceSt where
  issuedAt : Option (Nat × Word) := none
  points : Nat := 0
  slot : Option Nat := none
  dropped : Nat := 0
deriving DecidableEq, Repr

/-- A core (R10, R96 to R107, R252, R335, R366). -/
structure Core where
  /-- cycles of the core beyond the time of the device (R351) -/
  clock : Nat := 0
  /-- memory instructions counted for sampling (R403) -/
  mrCount : Nat := 0
  /-- the thermal allowance register (R421) -/
  thermal : Word := 0x000005F0000005F0
  /-- bytes of pinned SRAM and of accumulator memory that are defined; others hold undefined values (R103) -/
  sram : Map Byte := []
  acc : Map Byte := []
  /-- tile table entries that are bound (R104) -/
  tiles : Map Word := []
  /-- register storage that no wave holds, written through the window (R101): by window offset -/
  raw : Map Byte := []
  /-- the model's own: how often gating has taken what the core held, read by the free values of what it then holds
  (R418, R420) -/
  gatings : Nat := 0
  active : Option Plane := none
  shadow : Option Plane := none
  mq : List MOp := []
  beam : Beam := {}
  /-- gather and scatter commands in flight (R193) -/
  credits : Nat := 0
  /-- stream commands of each engine, the running one first (R142) -/
  stream0 : List Nat := []
  stream1 : List Nat := []
  bins : List Bin := []
  gathering : Map Gather := []
  formed : List Formed := []
  /-- the wave slot each slice issued last (R371) -/
  last : List Nat := List.replicate 6 31
  slices : List SliceSt := List.replicate 6 {}
  /-- the core cycle from which sample points are counted, while sampling is on (R399) -/
  sampleFrom : Option Nat := none
  /-- current clock ratio of each slice (R415) -/
  ratio : List Nat := List.replicate 6 0
  ratioAt : Nat := 0
  /-- launches whose dispatch queue, and dies whose ready queue, the dispatcher leaves alone until a fault entry is
  resolved (R367) -/
  dqStall : List Nat := []
  rqStall : List Nat := []
  /-- the core's translation cache (R51) -/
  tlb : List Leaf := []
  /-- copies of memory in the L1 (R63, R314) and stores it holds for the die slice, newest first (R311) -/
  l1 : Map Byte := []
  l1Held : List (Nat × Byte × Nat) := []
  /-- the cycle of the last change of the tile table, and of a kennel slot, with its place in the order that R208 and
  R294 give the changes of one cycle -/
  tableAt : Nat × Nat := (0, 0)
  kennelAt : Nat × Nat := (0, 0)
  /-- tiles by number, with the cycle in which their drain was accepted (R106) -/
  drainAt : Map Nat := []
deriving DecidableEq, Repr

/-! ### Dies -/

/-- A trap that waits for an action: kept, or written to the ring at an index (R377 to R382). -/
structure TrapRec where
  id : Nat
  wave : Nat
  serial : Nat
  /-- what the record says of the wave: context, WAVEID, TEAMID and launch -/
  ctx : Nat
  waveId : Nat
  team : Word
  launch : Nat
  trap : Trap
  /-- the part's lanes, the lane group that stopped, its program counter and value -/
  lanes : Mask
  group : Mask
  pc : Word
  value : Word
  ucode : Nat
  seq : BitVec 32
  part : Nat
  parts : Nat
  written : Option (BitVec 32)
deriving DecidableEq, Repr

/-- A pending invalidation (R58). -/
structure Inval where
  kind : Nat
  size : Nat
  va : Nat
  ctx : Nat
  /-- transactions with lower numbers may have been translated with what it removes (R59) -/
  upto : Nat
deriving DecidableEq, Repr

/-- A regulator move in progress (R414): the point it goes to, in MHz and mV. -/
structure Move where
  clock : Nat
  volt : Nat
deriving DecidableEq, Repr

/-- How a cluster's power stands (R417 to R420). -/
inductive Gate
  | on
  | hold (since : Nat)
  | off
  | queued
  | ramp
deriving DecidableEq, Repr

/-- A cluster's power control (R413 to R420). -/
structure Cluster where
  gate : Gate := .on
  move : Option Move := none
  /-- the cycle of the cluster at which its present metering window began (R416) -/
  last : Nat := 0
deriving DecidableEq, Repr

/-- A line of a die's stacked layer (R30): its tag and a valid bit for each sector. The data are those of the memory
behind it, which always holds the latest (R31). -/
structure LayerLine where
  tag : Nat
  valid : BitVec 4
deriving DecidableEq, Repr

/-- A line that a home slice holds (R63): its sectors, and those that have still to go to the stacked layer. The data are
those at the home slice. -/
structure L2Line where
  valid : BitVec 4
  dirty : BitVec 4
deriving DecidableEq, Repr

/-- The requests that reached a slice in a core cycle (R68): the cycle, the last port in order, and the queues that have
been taken from and stolen from. -/
structure Arrivals where
  at_ : Nat := 0
  port : Nat := 0
  taken : List Nat := []
  stolen : List Nat := []
deriving DecidableEq, Repr

/-- A die (R8 to R12, R42, R51 to R60, R63, R65, R76 to R80, R366, R380 to R386, R394 to R424). -/
structure Die where
  /-- control registers that have been written or counted, by offset in the control area (R98) -/
  regs : Map Word := []
  /-- XL_CTXBASE in effect (R60) -/
  ctxbase : Word := 0
  /-- the die's translation cache (R51) -/
  tlb : List Leaf := []
  /-- table entries of levels 4 to 1, by 2^52 × context + address (R51) -/
  wcache : Map Word := []
  faultWait : List FaultReq := []
  faults : List FaultEntry := []
  inval : List Inval := []
  /-- visitor copies of other dies' lines, and stores held on the way home, newest first (R63, R65, R311) -/
  visitor : Map Byte := []
  held : List (Nat × Byte × Nat) := []
  /-- the stacked layer, by set: up to four lines, the most recently used first (R30) -/
  layer : Map (List LayerLine) := []
  /-- lines of the die's memory that its slices hold, by line number of the die window (R63) -/
  l2 : Map L2Line := []
  /-- what reached each slice last (R68) -/
  arrived : Map Arrivals := []
  /-- stores on the way home in the order they were acknowledged: transaction and lane (R65) -/
  fwd : List (Nat × Nat) := []
  /-- Leash entries of the die's slices, by order of registration: slice and entry (R76) -/
  leash : List (Nat × LeashEntry) := []
  leashHeld : List (Nat × LeashEntry) := []
  ready : List Ready := []
  traps : List TrapRec := []
  /-- copy engine queues, 8 engines: commands, the running one first (R135) -/
  copyq : Map (List Nat) := []
  /-- the restore line and returned teams (R360, R364), a message in flight, adverts received -/
  line : List Saved := []
  /-- a team that a die has sent back, with the number of that die -/
  returned : Option (Nat × Saved) := none
  flight : Option (Nat × Saved) := none
  adverts : List (Nat × Nat) := List.replicate 4 (0, 0)
  blocked : List Nat := []
  /-- the team last found to be head of line without room: launch, number and the cycle of control core 0 (R363) -/
  head : Option (Nat × Nat × Nat) := none
  /-- the cycle of control core 0 of the last adverts -/
  advertAt : Nat := 0
  clusters : Map Cluster := []
  /-- clusters queued for the ramp arbiter (R420) -/
  arbiter : List Nat := []
  /-- occurrences of each event code on their way to the trigger sequencer (R395) -/
  events : Map Nat := []
  /-- doubled refresh of the stacked layer (R38) -/
  layerHot : Bool := false
  /-- energy credited for coded transfers, in units of 0.1 pJ (R41) -/
  credit : Nat := 0
deriving DecidableEq, Repr

/-! ### The device -/

/-- The lane group that issues (R370 to R373): its wave, its lanes, the address of its word and whether it issues as
the secondary of a cycle. -/
structure Cur where
  wave : Nat
  mask : Mask
  pc : Word
  seta : Option (Fin 12) := none
  setb : Option (Fin 12) := none
deriving DecidableEq, Repr

/-- What moves next: one slice's issue cycle, one control core's, an event, or cycles that pass. -/
inductive Act
  | slice (core sl : Nat)
  | control (die k : Nat)
  /-- the rest of such a cycle, once clause headers have been passed in it -/
  | sliceOn (core sl : Nat)
  | controlOn (die k : Nat)
  | event (i : Instr) (u : Subj)
  | tick (core n : Nat)
deriving DecidableEq, Repr

/-- What the device sends to the host or to a peer (R28, R425 to R431). -/
inductive HostOut
  | data (bytes : List Byte)
  | completerAbort
  | unsupportedRequest
  | msix (vector : Nat)
  | peerData (port : Nat) (bytes : List Byte)
  | peerUnmapped (port : Nat)
  | peerUncorr (port : Nat)
deriving DecidableEq, Repr

/-- How far bring-up has come (R427, R435): DEV_STATE 1, 2, 5 with its failure code, 3 and 4. -/
inductive DevSt
  | resetting
  | training
  | failed (code : Nat)
  | ready
  | running
deriving DecidableEq, Repr

/-- The memory is up, and the monitor runs. -/
def DevSt.up : DevSt → Bool
  | .ready | .running => true
  | _ => false

/-- What a command has written of an aligned 8-byte unit of memory: its number, and a mask of the unit's bytes (R137). -/
structure Claim where
  cmd : Nat
  bytes : BitVec 8
deriving DecidableEq, Repr

/-- A write of an engine that stands in a private buffer (R407): the wave and sequence number of its command, and the
bytes, or the operand of a reduction there. -/
structure EWrite where
  wave : Nat
  seq : Nat
  pa : Nat
  bytes : List Byte
  op : Option (Option ROp × MTy)
deriving DecidableEq, Repr

/-- Deterministic replay of a launch (R405 to R411). -/
structure Replay where
  round : Nat := 0
  /-- 0 between rounds; in a round, 1 while the held words are performed, 2 while registrations are made, and 3 while
  wakes and timeouts are decided (R408) -/
  phase : Nat := 0
  /-- the wave and sequence number of the command whose writes are buffered now, and the buffered ones -/
  writer : Option (Nat × Nat) := none
  buffer : List EWrite := []
  /-- the words on which atomics of the interval have been performed, and how many on each address (R407, R409) -/
  side : Map Byte := []
  orders : Map Nat := []
  /-- each wave as it stood at the start of its quantum, and the waves that an event has struck (R410) -/
  snap : List (Nat × Wave) := []
  struck : List Nat := []
  /-- waves that ended in the interval with words held for its round: number and quantum (R406) -/
  left : List (Nat × Quantum) := []
deriving DecidableEq, Repr

/-- A sector whose memory fails (R33, R34, R42): its kind in MS_ELOG, and whether the event that found it has been logged
with no requester told yet. -/
structure BadSector where
  kind : Nat
  fresh : Bool
deriving DecidableEq, Repr

/-- The engine command whose access is made now: its core, its scope, and whether it allocates nothing in the stacked
layer (R31, R319). -/
structure Via where
  core : Nat
  scope : Scope
  noAlloc : Bool
deriving DecidableEq, Repr

/-- The machine. -/
structure State where
  /-- what moves next, in order; empty leaves the choice to the scheduler of `Step` -/
  agenda : List Act := []
  /-- the model's own: advanced by every step, and read by every free value -/
  epoch : Nat := 0
  /-- the subject of the event that runs -/
  subj : Subj := {}
  /-- the lane group that issues -/
  cur : Option Cur := none
  /-- set when an instruction issues rather than being held -/
  issued : Bool := false
  /-- core cycles that every core has counted (R345) -/
  time : Nat := 0
  dev : DevSt := .resetting
  mem : Memory := []
  /-- sectors of device memory with an uncorrectable error (R34) -/
  bad : Map BadSector := []
  /-- bytes of host memory that home slices hold, and whether they have still to go to the host (R63, R64, R321) -/
  hostL2 : Map (Byte × Bool) := []
  via : Option Via := none
  /-- a request of the event that runs cannot reach its slice in this cycle any more (R68) -/
  late : Bool := false
  /-- contexts in which undefined behaviour has occurred, whose lane groups issue no more (R5) -/
  lost : List Nat := []
  dies : Map Die := []
  cores : Map Core := []
  waves : Map Wave := []
  teams : Map Team := []
  launches : Map Launch := []
  txs : Map Tx := []
  cmds : Map Cmd := []
  /-- the units of memory that commands in flight have written in part, the command that reached one last first (R137) -/
  claims : Map (List Claim) := []
  walks : Map WalkRec := []
  walking : Map Walking := []
  msgs : Map Msg := []
  queues : Map QReq := []
  /-- records seen of each launch queue (R353) -/
  seen : Map Nat := []
  serial : Nat := 0
  /-- numbers for transactions, commands, walks, messages and traps -/
  fresh : Nat := 0
  launched : Bool := false
  /-- host mailbox and log registers of the port die, by offset (R427) -/
  port : Map Word := []
  /-- ports that are down (R430) -/
  down : List Nat := []
  /-- completions and interrupts sent to the host and to peers, oldest first -/
  out : List HostOut := []
  /-- the SHA-512 of the running control-core image, and the svn of the monitor and of that image (R436) -/
  fwHash : BitVec 512 := 0
  svns : Nat × Nat := (0, 0)
  /-- the fused svn floors of type 1 and type 2, as far as the monitor has raised them (R434) -/
  floors : Nat × Nat := (0, 0)
  replay : Replay := {}
deriving DecidableEq, Repr

/-- Why the machine stops with a fault. -/
inductive Fault
  /-- The spec calls the behaviour undefined and gives it no effect (R5). Raised by an instruction that asks for it in place
  of an effect; none does, since undefined behaviour stays in its context (`State.lost`). Safe. -/
  | undefinedBehaviour
deriving DecidableEq, Repr

/-- Why a step is refused. -/
inductive Refusal
  /-- The instruction has no meaning in the model yet; raised by `exec` alone. Safe. -/
  | notModelled (mnemonic : String)
  /-- No lane group is issuing, so that there is no instruction to run; raised by the meanings of instructions. Safe. -/
  | noIssuer
  /-- The event cannot happen in this state; raised by the meanings of events. Safe. -/
  | notEnabled (event : String)
deriving DecidableEq, Repr

namespace State

/-- The machine right after reset: nothing has run, the security monitor has not yet started (R435), every control
register reads its reset value, device memory lists nothing. -/
def reset : State := {}

end State

end Sys2Proof.Machine
end

