-- ==== Sys2Proof/Machine/Ops.lean ====
section
/-! DEFINITION. The named operations over the state: records by number, registers of waves, lane groups, the wave
counters and flags, taking a trap and returning from one (09_registers.md, 18_scheduling.md R370 to R372,
19_faults_preemption.md R376 to R382). -/

namespace Sys2Proof.Machine

/-! ### Numbers -/

def coresPerDie : Nat := 64
def coreNo (die pos : Nat) : Nat := 64 * die + pos
def dieOfCore (core : Nat) : Nat := core / 64
def waveNo (core slice slot : Nat) : Nat := 256 * core + 32 * slice + slot
/-- The number of control core k of a die. -/
def ctlNo (die k : Nat) : Nat := 2 ^ 20 + 2 * die + k
def isCtl (wave : Nat) : Bool := 2 ^ 20 ≤ wave
def coreOf (wave : Nat) : Nat := wave / 256
def sliceOf (wave : Nat) : Nat := wave / 32 % 8
def slotOf (wave : Nat) : Nat := wave % 32
/-- The place of a wave's change among those of one cycle and kind: ascending slice and wave slot (R208, R294). -/
def placeOf (kind wave : Nat) : Nat := 512 * kind + 2 * (32 * sliceOf wave + slotOf wave) + coreOf wave % 2
/-- The die of a wave or control core. -/
def dieOf (wave : Nat) : Nat := if isCtl wave then (wave - 2 ^ 20) / 2 % 4 else coreOf wave / 64
/-- The clock that counts a wave's cycles: its core, or 2^12 + number for a control core (R345). -/
def clockOf (wave : Nat) : Nat := if isCtl wave then 4096 + (wave - 2 ^ 20) else coreOf wave
/-- The twelve clusters of four cores of a die (R10). -/
def clusterOf (core : Nat) : Nat := core % 64 / 4

/-! ### Masks -/

/-- Bits 0 to n − 1. -/
def lowMask (n : Nat) : Mask := BitVec.ofNat 64 (2 ^ n - 1)
def maskOf (ls : List Nat) : Mask := ls.foldl (fun m l => m ||| BitVec.ofNat 64 (2 ^ l)) 0
/-- The lanes of a mask, ascending. -/
def lanesOf (m : Mask) : List Nat := (List.range 64).filter fun l => m.getLsbD l
def popc {n : Nat} (m : BitVec n) : Nat := ((List.range n).filter fun l => m.getLsbD l).length
/-- The lowest lane of a mask, or 64. -/
def lowest (m : Mask) : Nat := ((lanesOf m).head?).getD 64

/-! ### Sorting -/

/-- An element put into a list sorted by a relation, behind the elements that may stand before it. -/
def insertBy {α : Type} (le : α → α → Bool) (x : α) : List α → List α
  | [] => [x]
  | y :: ys => if le y x then y :: insertBy le x ys else x :: y :: ys
/-- A list sorted by a relation, stably. -/
def sortBy {α : Type} (le : α → α → Bool) (xs : List α) : List α := xs.foldl (fun ys x => insertBy le x ys) []

namespace State

/-! ### Records -/

def die (s : State) (d : Nat) : Die := s.dies.getD d {}
def core (s : State) (c : Nat) : Core := s.cores.getD c {}
def wave? (s : State) (k : Nat) : Option Wave := s.waves.find? k
def wave (s : State) (k : Nat) : Wave := s.waves.getD k {}
def team (s : State) (t : Nat) : Team := s.teams.getD t {}
def launch (s : State) (l : Nat) : Launch := s.launches.getD l {}

def setDie (s : State) (d : Nat) (x : Die) : State := { s with dies := s.dies.set d x }
def setCore (s : State) (c : Nat) (x : Core) : State := { s with cores := s.cores.set c x }
def setWave (s : State) (k : Nat) (x : Wave) : State := { s with waves := s.waves.set k x }
def setTeam (s : State) (t : Nat) (x : Team) : State := { s with teams := s.teams.set t x }
def setLaunch (s : State) (l : Nat) (x : Launch) : State := { s with launches := s.launches.set l x }

def updDie (s : State) (d : Nat) (f : Die → Die) : State := s.setDie d (f (s.die d))
def updCore (s : State) (c : Nat) (f : Core → Core) : State := s.setCore c (f (s.core c))
/-- A wave changed, if it is resident. -/
def updWave (s : State) (k : Nat) (f : Wave → Wave) : State :=
  match s.waves.find? k with
  | some w => s.setWave k (f w)
  | none => s
def updTeam (s : State) (t : Nat) (f : Team → Team) : State :=
  match s.teams.find? t with
  | some x => s.setTeam t (f x)
  | none => s
def updLaunch (s : State) (l : Nat) (f : Launch → Launch) : State :=
  match s.launches.find? l with
  | some x => s.setLaunch l (f x)
  | none => s

/-- A wave by number and serial, so that a later wave in the slot is not taken for it (R382, R391). -/
def waveAt (s : State) (k serial : Nat) : Option Wave :=
  match s.waves.find? k with
  | some w => if w.serial = serial then some w else none
  | none => none

/-- A wave changed, if it is still the wave of that serial. -/
def updWaveAt (s : State) (k serial : Nat) (f : Wave → Wave) : State :=
  match s.waveAt k serial with
  | some w => s.setWave k (f w)
  | none => s

/-- A wave changed by what it started earlier: where replay keeps the wave as it stood at the start of its quantum, and
the cause is older than that, the kept wave changes too (R410). -/
def updWaveOld (s : State) (k serial : Nat) (old : Wave → Bool) (f : Wave → Wave) : State :=
  let s := s.updWaveAt k serial f
  if s.replay.snap.isEmpty then s
  else
    let keep := fun (p : Nat × Wave) => if p.1 == k && p.2.serial == serial && old p.2 then (p.1, f p.2) else p
    { s with replay := { s.replay with snap := s.replay.snap.map keep } }

/-- A number no record has had. -/
def takeNo (s : State) : Nat × State := (s.fresh, { s with fresh := s.fresh + 1 })

/-- A free value: the spec leaves it undefined (R5). -/
def free (s : State) (key : Nat) : Word := Config.freeWord s.epoch key

/-- Cycles counted since reset by a core or control core (R345, R351). -/
def now (s : State) (clock : Nat) : Nat := s.time + (s.core clock).clock

/-- Whether a change with a place in the order of one cycle may still come: none behind it has (R208, R294). -/
def inTurn (s : State) (core : Nat) (last : Nat × Nat) (place : Nat) : Bool := last.1 != s.now core || last.2 ≤ place

/-- A change of a core's tile table, or of its kennel, takes its place in the cycle. -/
def tableTurn (s : State) (core place : Nat) : State := s.updCore core fun c => { c with tableAt := (s.now core, place) }
def kennelTurn (s : State) (core place : Nat) : State := s.updCore core fun c => { c with kennelAt := (s.now core, place) }

end State

/-! ### Registers of a wave (R148 to R156) -/

namespace Wave

def isActive (w : Wave) (l : Nat) : Bool := ((w.lanes[l]?).map (·.st == .active)).getD false
def isExited (w : Wave) (l : Nat) : Bool := ((w.lanes[l]?).map (·.st == .exited)).getD true
/-- The lanes that pass a test. -/
def lanesWhere (w : Wave) (f : Lane → Bool) : Mask :=
  maskOf ((List.range w.lanes.length).filter fun l => ((w.lanes[l]?).map f).getD false)
/-- Lanes that have not exited; ACTIVE (R156) and barriers count these. -/
def live (w : Wave) : Mask := w.lanesWhere fun l => l.st != .exited
/-- Lanes changed. -/
def mapLanes (w : Wave) (m : Mask) (f : Nat → Lane → Lane) : Wave :=
  { w with lanes := (w.lanes.zipIdx).map fun p => if m.getLsbD p.2 then f p.2 p.1 else p.1 }
def lane (w : Wave) (l : Nat) : Lane := (w.lanes[l]?).getD { st := .exited }

def vkey (n l : Nat) : Nat := 64 * n + l
def skey (n : Nat) : Nat := 2 ^ 16 + n
def pkey (n l : Nat) : Nat := 2 ^ 17 + 64 * n + l

/-- Whether an access in flight will write the register (R192). -/
def isOut (w : Wave) (k : Nat) : Bool := w.outs.any fun o => o.reg == k
/-- Marks a register written while it was outstanding (R192). -/
def hitOut (w : Wave) (k : Nat) : Wave :=
  if w.isOut k then { w with outs := w.outs.map fun o => if o.reg == k then { o with hit := true } else o } else w

/-- Vector register n of lane l as storage; a wave starts with undefined values (R149). -/
def vraw (w : Wave) (n l : Nat) : Word := w.v.getD (vkey n l) (Config.freeWord w.serial (vkey n l))
def sraw (w : Wave) (n : Nat) : Word := w.s.getD n (Config.freeWord w.serial (skey n))

/-- A vector register as an instruction reads it: undefined while outstanding (R192). -/
def vread (w : Wave) (epoch n l : Nat) : Word :=
  if w.isOut (vkey n l) then Config.freeWord epoch (vkey n l) else w.vraw n l
def sread (w : Wave) (epoch n : Nat) : Word :=
  if w.isOut (skey n) then Config.freeWord epoch (skey n) else w.sraw n
def pbit (w : Wave) (epoch n l : Nat) : Bool :=
  if w.isOut (pkey n l) then (Config.freeWord epoch (pkey n l)).getLsbD 0
  else l < w.width && ((w.p[n]?).getD 0).getLsbD l
/-- A predicate's 64 bits (R156). -/
def pread (w : Wave) (epoch n : Nat) : Mask := maskOf ((List.range w.width).filter (w.pbit epoch n))

def vwrite (w : Wave) (n l : Nat) (x : Word) : Wave :=
  { w.hitOut (vkey n l) with v := w.v.set (vkey n l) x, vhits := if w.watch == 0 then w.vhits else vkey n l :: w.vhits }
def swrite (w : Wave) (n : Nat) (x : Word) : Wave := { w.hitOut (skey n) with s := w.s.set n x, vhits := if w.watch == 0 then w.vhits else skey n :: w.vhits }
def pput (w : Wave) (n l : Nat) (b : Bool) : Wave :=
  let m := (w.p[n]?).getD 0
  let one := BitVec.ofNat 64 (2 ^ l)
  { w with p := w.p.set n (if b then m ||| one else m &&& ~~~one) }
/-- One bit of a predicate; bits at or above the width are ignored (R152). -/
def pwrite (w : Wave) (n l : Nat) (b : Bool) : Wave :=
  if l < w.width then (w.hitOut (pkey n l)).pput n l b else w
/-- A register written by its number of `Out`: a vector register's lane, a scalar or a predicate bit. -/
def putReg (w : Wave) (k : Nat) (x : Word) : Wave :=
  if k < 2 ^ 16 then w.vwrite (k / 64) (k % 64) x
  else if k < 2 ^ 17 then w.swrite (k - 2 ^ 16) x
  else w.pwrite ((k - 2 ^ 17) / 64) (k % 64) (x.getLsbD 0)

/-- A predicate written whole (R156). -/
def pwriteAll (w : Wave) (n : Nat) (m : Mask) : Wave :=
  (List.range w.width).foldl (fun w l => w.pwrite n l (m.getLsbD l)) w

/-- Flag n is set while its count is not zero (R153). -/
def flag (w : Wave) (n : Nat) : Bool := (w.flags[n]?).getD 0 != 0
/-- FLAGS (R156): bit n is 1 while fn is set. -/
def flagBits (w : Wave) : Word := maskOf ((List.range 12).filter w.flag)
def addFlag (w : Wave) (f : Option (Fin 12)) : Wave :=
  match f with
  | some n => { w with flags := w.flags.set n.val ((w.flags[n.val]?).getD 0 + 1) }
  | none => w
def subFlag (w : Wave) (f : Option (Fin 12)) : Wave :=
  match f with
  | some n => { w with flags := w.flags.set n.val ((w.flags[n.val]?).getD 0 - 1) }
  | none => w
/-- The two flags of a clause raised (R161) and lowered (R138). -/
def raise (w : Wave) (a b : Option (Fin 12)) : Wave := (w.addFlag a).addFlag b
def lower (w : Wave) (a b : Option (Fin 12)) : Wave := (w.subFlag a).subFlag b

/-- STC of a scope; .w has none (R190). -/
def stc (w : Wave) : Scope → Nat
  | .t => w.stct | .d => w.stcd | .k => w.stck | .s => w.stcs | .w => 0
def setStc (w : Wave) (x : Scope) (n : Nat) : Wave :=
  match x with
  | .t => { w with stct := n } | .d => { w with stcd := n } | .k => { w with stck := n } | .s => { w with stcs := n }
  | .w => w
def raiseStc (w : Wave) (xs : List Scope) : Wave := xs.foldl (fun w x => w.setStc x (w.stc x + 1)) w
def lowerStc (w : Wave) (x : Scope) : Wave := w.setStc x (w.stc x - 1)

/-- The loads of lanes that wait for page walks are counted in LDC (R52): the lowest lane of a group stands for it. -/
def count (w : Wave) (m : Mask) : Wave :=
  { w.mapLanes (maskOf [lowest m]) fun _ l => { l with counted := true } with ldc := w.ldc + 1 }
/-- They are counted no more: their word is tried again, or they leave it. -/
def uncount (w : Wave) (m : Mask) : Wave :=
  let k := w.lanesWhere (fun l => l.counted) &&& m
  if k == 0 then w else { w.mapLanes k fun _ l => { l with counted := false } with ldc := w.ldc - popc k }

/-- A cycle begins (R161, R243): what was raised for one cycle falls, and the cross-lane instructions whose time has come
write their destinations, each of them lowering XLC. -/
def beginCycle (w : Wave) : Wave :=
  if w.fall.isEmpty && w.xl.isEmpty then w
  else
    let w := w.fall.foldl (fun (w : Wave) f =>
      let w := w.lower f.seta f.setb
      let w := if f.ldc then { w with ldc := w.ldc - 1 } else w
      f.stc.foldl lowerStc w) { w with fall := [] }
    let due := w.xl.filter fun r => r.left == 0
    let w := { w with xl := (w.xl.filter fun r => r.left != 0).map fun r => { r with left := r.left - 1 },
                      xlc := w.xlc - due.length }
    due.foldl (fun (w : Wave) r => r.writes.foldl (fun w p => w.putReg p.1 p.2) w) w

def setFl (w : Wave) (f : BitVec 8) : Wave := { w with fpflags := w.fpflags ||| f.zeroExtend 64 }
def fz (w : Wave) : Bool := w.fpctl.getLsbD 0
def skc (w : Wave) : Bool := w.fpctl.getLsbD 1

/-- A counter of R190. -/
def counter (w : Wave) : Counter → Nat
  | .ldc => w.ldc | .stct => w.stct | .stcd => w.stcd | .stck => w.stck | .stcs => w.stcs | .xlc => w.xlc
  | .engc => w.engc

/-! ### Lane groups (R370, R372) -/

/-- The lanes that share a lane's pc and dd and are neither exited nor parked (R370). -/
def groupOf (w : Wave) (l : Nat) : Mask :=
  let a := w.lane l
  if a.st != .active then 0
  else w.lanesWhere fun b => b.st == .active && b.pc == a.pc && b.dd == a.dd

/-- The groups of a wave, by lowest lane. -/
def groups (w : Wave) : List Mask :=
  (List.range w.lanes.length).filterMap fun l =>
    let g := w.groupOf l
    if g != 0 && lowest g == l then some g else none

/-- Whether a hold keeps a group back. -/
def isHeld (w : Wave) (g : Mask) : Bool := w.holds.any fun h => h.2 &&& g != 0 && h.1 &&& g == 0

/-- Lanes leave every hold they keep up: they wait, exited or parked (R372). A hold that no lane keeps up ends. -/
def dropHolder (w : Wave) (m : Mask) : Wave :=
  { w with holds := (w.holds.map fun h => (h.1 &&& ~~~m, h.2)).filter fun h => h.1 != 0 }

/-- Holds whose holder has merged with a held lane end (R372). -/
def mergeHolds (w : Wave) : Wave :=
  { w with holds := w.holds.filter fun h => !((w.groups).any fun g => g &&& h.1 != 0 && g &&& h.2 != 0) }

/-- A wait that counts as waiting under R161. -/
def waits (l : Lane) : Bool :=
  match l.wait with
  | .none => false
  | .held c _ => c
  | .walk => false
  | _ => true

/-- A lane that no turn can move until something else happens. -/
def blocked (l : Lane) : Bool :=
  match l.wait with
  | .none | .held _ _ | .walk | .cross => false
  | _ => true

/-- The waits at a cross-lane instruction, a barrier or a REJOIN, in which a pending member of another group is pending no
more (R242). -/
def gathers : Wait → Bool
  | .cross | .bar _ | .inRound | .rejoin _ => true
  | _ => false

/-- Whether no lane that stayed with the group a lane parked from stands at the lane's program counter (R242). -/
def elsewhere (w : Wave) (l : Lane) : Bool :=
  w.lanesWhere (fun k => k.st == .active && k.pend == 0 && k.pc == l.pc) &&& l.pend == 0

/-- A group starts to wait at its word; a wait that counts ends the holds it keeps up, and a pending member that is held at
a cross-lane instruction, a barrier or a REJOIN at another program counter is pending no more (R242). -/
def startWait (w : Wave) (m : Mask) (x : Wait) : Wave :=
  let w := w.mapLanes m fun _ l => { l with wait := x, pend := if gathers x && w.elsewhere l then 0 else l.pend }
  match x with
  | .none | .held false _ | .walk => w
  | _ => w.dropHolder m

/-- The clause that a lane at a program counter is in: past its last word it needs a header (R161). -/
def clauseAt (c : Clause) (pc : Word) : Clause :=
  match c with
  | .inside stop a b => if pc == stop then .header else .inside stop a b
  | c => c

/-- A lane that moves with a lane that stayed with the group it parked from, or with all that are left of that group,
has reganged, and is pending no more (R242). -/
def regang (w : Wave) (m : Mask) (l : Lane) : Mask :=
  if l.pend == 0 || (w.lanesWhere fun l => l.pend == 0) &&& l.pend &&& m != 0 || w.live &&& l.pend &&& ~~~m == 0 then 0
  else l.pend

/-- The pending members of a lane group (R242): lanes that parked from it, are not back and have not exited. -/
def pending (w : Wave) (g : Mask) : Mask :=
  (w.lanesWhere fun l => l.st != .exited && l.pend &&& g != 0) &&& ~~~g

/-- Lanes go on at the next word, k words on (R161). -/
def stepLanes (w : Wave) (m : Mask) (k : Nat) : Wave :=
  (w.mapLanes m fun _ l =>
    let pc := l.pc + BitVec.ofNat 64 (8 * k)
    { l with pc, wait := .none, cl := clauseAt l.cl pc, pend := regang w m l }).mergeHolds

/-- Lanes go to an address by a transfer, where a header must stand (R161). -/
def sendLanes (w : Wave) (m : Mask) (pc : Nat → Word) : Wave :=
  w.mapLanes m fun i l => { l with pc := pc i, wait := .none, cl := .header, pend := regang w m l }

end Wave

/-! ### Control registers of a die (R98) -/

/-! Offsets of the registers that the model reads by name, in the die control area (R42, R60, R80, R381, R394, R405,
R413). -/

namespace Off
def msCorr : Nat := 0x1000
def msUncorr : Nat := 0x1008
def msElog : Nat := 0x1010
def msRef : Nat := 0x1018
def xlCtxbase : Nat := 0x2000
def xlInvcmd : Nat := 0x2008
def xlInvdone : Nat := 0x2010
def xlFqbase : Nat := 0x2018
def xlFqtail : Nat := 0x2020
def xlFqhead : Nat := 0x2028
def xlFresolve : Nat := 0x2030
def xlWalks : Nat := 0x2038
def lsSpillbase : Nat := 0x3000
def lsPurge : Nat := 0x3008
def lsRegs : Nat := 0x3010
def lsWakes : Nat := 0x3018
def lsSpills : Nat := 0x3020
def lsHeld : Nat := 0x3028
def trBase : Nat := 0x5F00
def trTail : Nat := 0x5F08
def trHead : Nat := 0x5F10
def trAct : Nat := 0x5F18
def trPreq : Nat := 0x5F20
def trPdone : Nat := 0x5F28
end Off

namespace State

/-! ### Taking a trap and returning from it (R376 to R382) -/

/-- Taking a trap: the one operation through which every trap strikes. The parts are kept in the order they were
taken (R379, R381), the wave stops with every lane group where it stands (R377), and nothing is written to the ring:
that is TRAP_RECORD_WRITE. Each part is its lanes, the lane group that stopped, the program counter of its launch site
and its value. -/
def takeTrap (s : State) (k : Nat) (t : Trap) (ucode : Nat) (parts : List (Mask × Mask × Word × Word)) : State :=
  match s.wave? k with
  | none => s
  | some w =>
    let id := s.fresh
    let recs := (parts.zipIdx).map fun p =>
      ({ id, wave := k, serial := w.serial, ctx := w.ctx, waveId := w.waveId, team := w.teamNo, launch := w.launch, trap := t, lanes := p.1.1, group := p.1.2.1, pc := p.1.2.2.1,
         value := p.1.2.2.2, ucode,
         seq := w.seq, part := p.2, parts := parts.length, written := none } : TrapRec)
    let all := parts.foldl (fun m p => m ||| p.1) 0
    let s := { s with fresh := id + 1 }
    let s := s.setWave k { (w.dropHolder all) with stopped := true, traps := w.traps ++ [id] }
    s.updDie (dieOf k) fun d => { d with traps := d.traps ++ recs }

/-- The trap at a ring index that still waits for an action (R382): that of a wave that has been freed waits for none. -/
def trapAt (s : State) (d : Nat) (idx : BitVec 32) : Option TrapRec :=
  (s.die d).traps.find? fun r => r.written == some idx && (s.waveAt r.wave r.serial).isSome

/-- A trap has been acted on: its parts are forgotten and the wave goes on when it holds no other (R382). -/
def endTrap (s : State) (d : Nat) (r : TrapRec) : State :=
  let s := s.updDie d fun x => { x with traps := x.traps.filter fun q => q.id != r.id }
  s.updWaveAt r.wave r.serial fun w =>
    let ts := w.traps.filter fun i => i != r.id
    { w with traps := ts, stopped := !ts.isEmpty }

/-- The return from a trap whose lanes go on at the word they stopped at, k words on: 0 for a word that issues again,
more for one that is passed (R343, R382). -/
def returnFrom (s : State) (d : Nat) (r : TrapRec) (k : Nat) : State :=
  let s := s.updWaveAt r.wave r.serial fun w =>
    let w := { w with xfault := w.xfault.filter fun q => !r.group.getLsbD (q.1 % 64) }
    if k == 0 then w.mapLanes r.group fun _ l => { l with wait := .none } else w.stepLanes r.group k
  s.endTrap d r

end State

end Sys2Proof.Machine
end

