-- ==== Sys2Proof/Machine/Operands.lean ====
section
/-! DEFINITION. Operands and issue: how an instruction's operand fields are read and written (09_registers.md R148 to
R156, 10_encoding.md R164 to R169), which lanes it acts on (R149, R168), and what issue does with the outcome of a
word: the word is performed, held, or trapped (R161, R173, R377). -/

namespace Sys2Proof.Machine

/-! ### Sub-elements (R113) -/

/-- Sub-element i of a lane, at element width n. -/
def elem (n : Nat) (x : Word) (i : Nat) : Nat := x.toNat / 2 ^ (i * n) % 2 ^ n

/-- Elements packed from bit 0 at width n; the bits above them are zero. -/
def packElems (n : Nat) (xs : List Nat) : Word :=
  BitVec.ofNat 64 ((xs.zipIdx.map fun p => (p.1 % 2 ^ n) * 2 ^ (p.2 * n)).sum)

/-- One element in every sub-element of a type. -/
def fillElems (t : VTy) (x : Nat) : Word := packElems t.ty.width (List.replicate t.cnt.n x)

/-- The element that a constant gives (R164). -/
def constElem (t : ETy) (x : BitVec 8) : Nat :=
  if t.isFp || t.isNarrow || t == .e8m0 then (toFloat t {} (.num (.ofInt x.toInt))).1 else toBits t.width x.toInt

/-- The element that a literal gives (R169). -/
def litElem (t : ETy) (l : Lit) : Nat :=
  match l.kind with
  | .zext => l.val.toNat % 2 ^ t.width
  | .sext => toBits t.width (sext l.val.toNat 30)
  | .f32 => l.val.toNat * 4
  | .f64 => l.val.toNat * 2 ^ 34

/-! ### Core SRAM (R103, R154, R310) -/

/-- The team whose pinned ranges hold an offset of a core's pinned SRAM. -/
def sramOwner (s : State) (core off : Nat) : Nat :=
  ((List.find? (fun (p : Nat × Team) =>
    let t := p.2
    let at_ := fun (r : Nat × Nat) => r.1 * 128 ≤ off && off < (r.1 + r.2) * 128
    (t.core == core && (at_ t.scratch || t.tiles.any fun x =>
        match (s.core core).tiles.find? x.tb with
        | some e => at_ (bits e 45 32, bits e 31 18)
        | none => false))
    || (t.core == core && at_ t.kennel) || (t.pair && t.core + 1 == core && at_ t.kennel2)) s.teams).map Prod.fst).getD 0

/-- The team whose accumulator area holds an offset of a core's accumulator memory. -/
def accOwner (s : State) (core off : Nat) : Nat :=
  ((List.find? (fun (p : Nat × Team) =>
    let t := p.2
    (t.core == core || (t.pair && t.core + 1 == core)) && t.accBase ≤ off && off < t.accBase + t.accSize) s.teams).map Prod.fst).getD 0

/-- A byte of pinned SRAM; one that has not been written since its range was placed is undefined (R103). -/
def sramByte (s : State) (core off : Nat) : Byte :=
  match (s.core core).sram.find? off with
  | some b => b
  | none => (Config.freeWord (sramOwner s core off) ((s.core core).gatings * 2 ^ 48 + 2 ^ 32 + core * 2 ^ 21 + off)).truncate 8

/-- A byte of accumulator memory (R154). -/
def accByte (s : State) (core off : Nat) : Byte :=
  match (s.core core).acc.find? off with
  | some b => b
  | none => (Config.freeWord (accOwner s core off) ((s.core core).gatings * 2 ^ 48 + 2 ^ 33 + core * 2 ^ 18 + off)).truncate 8

def sramRead (s : State) (core off n : Nat) : Nat := ofBytes ((List.range n).map fun i => sramByte s core (off + i))
def accRead (s : State) (core off n : Nat) : Nat := ofBytes ((List.range n).map fun i => accByte s core (off + i))

/-- Locations written while matrix operations of a core or of its pair are in flight (R155). -/
def noteHits (s : State) (core : Nat) (ks : List Nat) : State :=
  [core / 2 * 2, core / 2 * 2 + 1].foldl (fun s c =>
    if (s.core c).mq.isEmpty then s
    else s.updCore c fun x => { x with mq := x.mq.map fun o => { o with hits := ks ++ o.hits } }) s

/-- The numbers of a byte of a core's accumulator memory and pinned SRAM among such locations. -/
def accKey (core off : Nat) : Nat := 2 ^ 24 + 2 ^ 18 * core + off
def sramKey (core off : Nat) : Nat := 2 ^ 28 + 2 ^ 21 * core + off

def sramWrite (s : State) (core off : Nat) (bs : List Byte) : State :=
  noteHits (s.updCore core fun c => { c with sram := bs.zipIdx.foldl (fun m p => Map.set m (off + p.2) p.1) c.sram }) core
    ((List.range bs.length).map fun i => sramKey core (off + i))
def accWrite (s : State) (core off : Nat) (bs : List Byte) : State :=
  s.updCore core fun c => { c with acc := bs.zipIdx.foldl (fun m p => Map.set m (off + p.2) p.1) c.acc }

/-! ### Accumulator elements (R154, R259) -/

/-- The fields of a handle (R154). -/
structure Hnd where
  v : Bool
  ty : Nat
  rows : Nat
  cols : Nat
  base : Nat
deriving DecidableEq, Repr

def hnd (h : Word) : Hnd :=
  { v := bit h 63, ty := bits h 62 61, rows := bits h 59 51 + 1, cols := bits h 50 43 + 1, base := bits h 13 0 }

/-- The core and accumulator-memory offset of an area offset: on a pair, offsets from A lie on the follower. -/
def accPlace (t : Team) (off : Nat) : Nat × Nat :=
  if off < t.accSize then (t.core, t.accBase + off) else (t.core + 1, t.accBase + (off - t.accSize))

def accOff (h : Hnd) (i j : Nat) : Nat := h.base * 32 + (i * h.cols + j) * 4

/-- Element (i, j) of a handle's tile. -/
def accElem (s : State) (t : Team) (h : Hnd) (i j : Nat) : Nat :=
  let (c, o) := accPlace t (accOff h i j)
  accRead s c o 4
def setAccElem (s : State) (t : Team) (h : Hnd) (i j x : Nat) : State :=
  let (c, o) := accPlace t (accOff h i j)
  accWrite s c o (bytesOf x 4)

/-- Whether an operation in flight works on accumulator elements of a team's handle (R155). -/
def accInFlight (s : State) (tn : Nat) (h : Hnd) : Bool :=
  let t := s.team tn
  [t.core, t.core + 1].any fun c => (s.core c).mq.any fun o =>
    let g := hnd o.handle
    o.team == tn && g.v && g.base * 32 < h.base * 32 + h.rows * h.cols * 4 && h.base * 32 < g.base * 32 + g.rows * g.cols * 4

/-- What ACCDRAIN supplies a lane: elements (row + l, col) and (row + l, col + 1); 0 outside the tile (R271). While an
operation on the handle is in flight the elements are undefined (R155). -/
def drainWord (s : State) (w : Wave) (l : Nat) : Word :=
  match w.drain with
  | none => 0
  | some d =>
    let t := s.team w.team
    let h := hnd ((t.handles[d.handle]?).getD 0)
    let busy := accInFlight s w.team h
    let el := fun j => if d.row + l < h.rows && j < h.cols then
        (if busy then (s.free (2 ^ 34 + 512 * l + j)).toNat % 2 ^ 32 else accElem s t h (d.row + l) j) else 0
    BitVec.ofNat 64 (el d.col + el (d.col + 1) * 2 ^ 32)

/-! ### Reading an operand -/

/-- The 64 bits that an operand supplies to a lane (R156, R164); constants fill the sub-elements of the type. -/
def readOpd (s : State) (w : Wave) (o : Opd) (t : VTy) (l : Nat) : Word :=
  match o with
  | .v n => w.vread s.epoch n.val l
  | .s n => w.sread s.epoch n.val
  | .zero => 0
  | .laneid => BitVec.ofNat 64 l
  | .waveid => BitVec.ofNat 64 w.waveId
  | .teamid => w.teamNo
  | .teamsize => BitVec.ofNat 64 w.teamSize
  | .accdrain => drainWord s w l
  | .active => w.live
  | .flags => w.flagBits
  | .acc n => ((s.team w.team).handles[n.val]?).getD 0
  | .p n => w.pread s.epoch n.val
  | .palways => lowMask w.width
  | .imm x => fillElems t (constElem t.ty x)
  | .rsv _ => 0

/-- A source operand, replaced by the literal that names it (R169). -/
def readSrc (s : State) (w : Wave) (o : Ops) (f : LitSel) (t : VTy) (l : Nat) : Word :=
  match o.pfx with
  | some x =>
    match x.lit with
    | some lit => if lit.sel == f then fillElems t (litElem t.ty lit) else readOpd s w (o.field f) t l
    | none => readOpd s w (o.field f) t l
  | none => readOpd s w (o.field f) t l

/-- The fourth operand, ZERO without one (R168). -/
def readE (s : State) (w : Wave) (o : Ops) (t : VTy) (l : Nat) : Word :=
  match o.pfx.bind Pfx.e with
  | some e => readOpd s w e t l
  | none => 0

def b64 : VTy := { ty := .b64, cnt := .x1 }
def n64 : VTy := { ty := .n64, cnt := .x1 }

/-! ### Issue -/

/-- The lane group that issues, with its wave as it stands (R371). -/
structure Iss where
  key : Nat
  w : Wave
  mask : Mask
  pc : Word
  /-- the address of the full word (R119, R159) -/
  fpc : Word
  /-- words the instruction takes -/
  k : Nat
  seta : Option (Fin 12)
  setb : Option (Fin 12)
deriving DecidableEq, Repr

/-- What a body makes of its word. -/
inductive Res
  /-- performed; the lane group goes on at the next word -/
  | done (s : State)
  /-- performed; the body has moved the lanes or made them wait -/
  | moved (s : State)
  /-- held at issue, nothing performed; `true` where the hold counts as waiting (R161); the number is the stall reason
  of R401, the lowest that applies -/
  | hold (s : State) (counts : Bool) (why : Nat)
  /-- held until a cross-lane result is written, which neither counts as waiting nor ends a quantum (R243, R406) -/
  | lock (s : State) (why : Nat)
  /-- held until walks or a log record have come, which ends no quantum -/
  | walk (s : State)
  /-- held until the pending members of the lane group are back (R242), which counts as waiting -/
  | hang (s : State)
  /-- a precise trap: nothing performed (R377); the trapping lanes and the record's value and code -/
  | trap (t : Trap) (lanes : Mask) (value : Word) (ucode : Nat)
  /-- the behaviour is undefined (R5) -/
  | undef
deriving DecidableEq, Repr

/-- The lanes that psel, pinv and a mask predicate select in a group (R163, R168). -/
def selected (epoch : Nat) (w : Wave) (o : Ops) (g : Mask) : Mask :=
  let m1 := match o.pred with
    | .always => g
    | .sel n inv => maskOf ((lanesOf g).filter fun l => w.pbit epoch n.val l != inv)
  match o.pfx.bind Pfx.mask with
  | some n => maskOf ((lanesOf m1).filter fun l => w.pbit epoch n.val l)
  | none => m1

/-- The lanes that Z = 1 zeroes: the active lanes of the group that are not selected (R168). -/
def zeroed (o : Ops) (g sel : Mask) : Mask :=
  if (o.pfx.map Pfx.zero).getD false then g &&& ~~~sel else 0

/-- The opcodes of the control-core subset beyond the vector group (R176). -/
def ctlOps : List Nat :=
  [0x002, 0x003, 0x009, 0x01D, 0x01E] ++ (List.range 14).map (0x00A + ·) ++ [0x018, 0x019, 0x01F, 0x021, 0x022, 0x028]
  ++ [0x220, 0x221, 0x222, 0x223, 0x224, 0x227, 0x235, 0x236, 0x237, 0x23E, 0x23F, 0x244, 0x22F, 0x230, 0x232, 0x233]

/-- Whether a control core accepts an instruction (R176): the vector group in scalar form, the listed words, and the
atomics and reductions as scalar accesses. -/
def ctlAccepts (i : Instr) : Bool :=
  match i with
  | .clauseHeaderPass _ => true
  | i =>
    match i.parts with
    | none => false
    | some p =>
      if p.op < 0x080 then
        ctlOps.contains p.op
          && (!(0x00A ≤ p.op && p.op ≤ 0x019) || p.scalarAccess (i.row p))
      else if p.op < 0x180 then p.scalarForm
      else ctlOps.contains p.op

/-- Whether an instruction is refused before its operands are looked at (R173): a control core refuses what it does not
accept (R176), and a wave the special register that only a control core has (R344). -/
def early (i : Instr) (ctl : Bool) : Bool :=
  if ctl then !ctlAccepts i
  else
    match i with
    | .srget _ n | .srset _ n => n == 0x28
    | _ => false

/-- How many registers a run takes from each operand field: d, a, b (R195, R201, R205, R206, R255, R267, R297,
R323). A field that names no run takes one. -/
def runs (i : Instr) : Nat × Nat × Nat :=
  match i with
  | .ldsc _ _ k | .stsc _ _ k => (k.toNat + 1, 1, 1)
  | .gath _ _ | .scat _ _ | .scatr _ _ | .copy _ => (1, 4, 1)
  | .tnset _ _ => (1, 8, 1)
  | .tnget _ _ => (8, 1, 1)
  | .mpget _ _ _ => (4, 1, 1)
  | .mpset _ => (1, 4, 1)
  | .mscbSet _ _ | .mscbWrite _ _ => (2, 2, 1)
  | .mscbRead _ _ => (2, 1, 1)
  | .bmake _ | .bmakea _ => (1, 9, 1)
  | .bpop _ _ _ => (8, 1, 1)
  | .bkget _ .slot => (24, 1, 1)
  | .bkget _ .walk => (4, 1, 1)
  | .bkget _ .frag => (8, 1, 1)
  | .bkput _ .slot => (1, 24, 1)
  | .bkput _ .walk => (1, 4, 1)
  | .bkput _ .frag => (1, 8, 1)
  | .barget _ _ _ => (8, 1, 1)
  | .barset _ _ _ => (1, 8, 1)
  | .qtake _ _ | .qsteal _ _ => (2, 1, 1)
  | .tasknew _ n | .suspend _ n => (n.val, 1, 1)
  | .flgget _ => (2, 1, 1)
  | .flgset _ => (1, 2, 1)
  | .lsdet _ => (4, 1, 1)
  | .lsatt _ => (1, 4, 1)
  | _ => (1, 1, 1)

/-- A run of registers lies inside the wave's allocation (R156, R157). -/
def inAlloc (w : Wave) (o : Opd) (n : Nat) : Bool :=
  match o with
  | .v x => x.val + n ≤ w.nv
  | .s x => x.val + n ≤ w.ns
  | _ => true

/-- The checks of R156, R157 and R176 that need the wave: the control-core subset, registers outside the allocation,
ACCDRAIN without an open drain. -/
def waveCheck (i : Instr) (ctl : Bool) (w : Wave) : Option Trap :=
  if early i ctl then some .illegalInstruction
  else
    match i with
    | .pairedWord h1 h2 =>
      if [h1.d, h1.a, h2.d, h2.a].all fun r => r.toNat < w.nv then none else some .illegalOperand
    | i =>
      match i.parts with
      | none => none
      | some p =>
        let (rd, ra, rb) := runs i
        let o := p.ops
        let e := o.pfx.bind Pfx.e
        if inAlloc w o.d rd && inAlloc w o.a ra && inAlloc w o.b rb && inAlloc w o.c 1
            && (e.all fun x => inAlloc w x 1)
            && (w.drain.isSome || !((o.a :: o.b :: o.c :: o.d :: e.toList).contains .accdrain)) then none
        else some .illegalOperand

/-- The flag-setting instructions, by opcode (R161, R175). -/
def flagOps : List Nat :=
  [0x000, 0x002, 0x008] ++ (List.range 8).map (0x00A + ·) ++ [0x019, 0x01A, 0x01B, 0x01C, 0x01F, 0x020, 0x021, 0x022, 0x028]
    ++ [0x1C2, 0x1C4, 0x1C5, 0x1C6, 0x1C7, 0x1CB, 0x1CC, 0x1D2, 0x1D3, 0x202, 0x204]

/-- Whether a flag-setting word would take a flag's count above 255 (R153). A clause header holds such a word back; it is
held at issue where its group resumed inside its clause. -/
def flagAtMost (i : Instr) (w : Wave) (a b : Option (Fin 12)) : Bool :=
  match i.parts with
  | some p => !flagOps.contains p.op || (w.raise a b).flags.all fun n => n ≤ 255
  | none => true

/-- The registers that an operand field names: vector register n as n, scalar n as 512 + n, predicate n as 1,024 + n. -/
def opdRegs (o : Opd) (n : Nat) : List Nat :=
  match o with
  | .v x => (List.range n).map (x.val + ·)
  | .s x => (List.range n).map (512 + x.val + ·)
  | .p x => [1024 + x.val]
  | _ => []

/-- The predicate that an instruction writes beside its destination. -/
def statusPred (i : Instr) : Option (Fin 15) :=
  match i with
  | .waitu _ _ _ st | .bpop _ st _ | .qtake _ st | .qsteal _ st => st
  | _ => none

/-- The registers that an instruction reads or writes, by name. -/
def regsNamed (i : Instr) : List Nat :=
  match i with
  | .pairedWord h1 h2 => [h1.d, h1.a, h2.d, h2.a].map BitVec.toNat
  | i =>
    match i.parts with
    | none => []
    | some p =>
      let (rd, ra, rb) := runs i
      let o := p.ops
      opdRegs o.d rd ++ opdRegs o.a ra ++ opdRegs o.b rb ++ opdRegs o.c 1
        ++ (match o.pfx.bind Pfx.e with | some e => opdRegs e 1 | none => [])
        ++ (match o.pred with | .sel n _ => [1024 + n.val] | .always => [])
        ++ (((o.pfx.bind Pfx.mask).toList ++ (statusPred i).toList).map fun n => 1024 + n.val)

/-- The register of a number of `Out`, as `regsNamed` names it. -/
def regOf (k : Nat) : Nat :=
  if k < 2 ^ 16 then k / 64 else if k < 2 ^ 17 then 512 + (k - 2 ^ 16) else 1024 + (k - 2 ^ 17) / 64

/-- An instruction that names a destination of a cross-lane instruction that is not written yet is held (R243). -/
def interlocked (i : Instr) (w : Wave) : Bool :=
  w.xl.any fun r => r.writes.any fun p => (regsNamed i).contains (regOf p.1)

/-- A wave as an issued word of the lanes m leaves it: ready groups that were passed over count it (R373), faults that
walks left for its lanes have been taken, and under replay a quantum of q words counts it (R406). -/
def markWave (q : Nat) (m : Mask) (w : Wave) : Wave :=
  let passed := fun (i : Nat) (l : Lane) =>
    if l.st == .active && l.wait == .none && !(w.holds.any fun h => h.2.getLsbD i) then { l with passes := l.passes + 1 } else l
  { (w.mapLanes (~~~m) passed).mapLanes m fun _ l => { l with passes := 0 } with
    xfault := w.xfault.filter fun p => !m.getLsbD (p.1 % 64),
    quantum := if q == 0 then w.quantum else
      { w.quantum with count := w.quantum.count + 1, wants := w.quantum.wants &&& ~~~m, grant := w.quantum.grant &&& ~~~m,
                       ended := w.quantum.ended || w.quantum.count + 1 ≥ q || (lanesOf m).any fun l => Wave.waits (w.lane l) } }

/-- The drain advances by two columns once an instruction has read ACCDRAIN, and closes past the last (R271); under
MDRNC the elements it supplied are cleared, and left undefined while an operation on the handle runs. -/
def advanceDrain (s : State) (key : Nat) (o : Ops) : State :=
  let w := s.wave key
  match w.drain with
  | none => s
  | some d =>
    if [o.d, o.a, o.b, o.c].contains .accdrain || (o.pfx.bind Pfx.e) == some .accdrain then
      let t := s.team w.team
      let h := hnd ((t.handles[d.handle]?).getD 0)
      let busy := accInFlight s w.team h
      let s :=
        if d.clear then
          (List.range w.width).foldl (fun s l => [d.col, d.col + 1].foldl (fun s j =>
            if d.row + l < h.rows && j < h.cols then
              setAccElem s t h (d.row + l) j (if busy then (s.free (2 ^ 35 + 512 * l + j)).toNat % 2 ^ 32 else 0)
            else s) s) s
        else s
      s.updWave key fun w =>
        { w with drain := if d.col + 2 < h.cols then some { d with col := d.col + 2 } else none }
    else s

/-- What the issue of a word does to its wave's drain (R271): the memory, vector and beam groups may read ACCDRAIN. -/
def drained (i : Instr) (key : Nat) (s : State) : State :=
  match i.parts with
  | some p => if p.op < 0x180 || (0x200 ≤ p.op && p.op < 0x220) then advanceDrain s key p.ops else s
  | none => s

/-- A word that issues has a further effect, on the state that it leaves. -/
def Res.issued (f : State → State) : Res → Res
  | .done s => .done (f s)
  | .moved s => .moved (f s)
  | r => r

namespace State

/-- The issuing lane group. -/
def issuer (s : State) (i : Instr) : Option Iss :=
  match s.cur with
  | none => none
  | some c =>
    match s.wave? c.wave with
    | none => none
    | some w =>
      let k := i.words
      some { key := c.wave, w, mask := c.mask, pc := c.pc, fpc := c.pc + BitVec.ofNat 64 (8 * (k - 1)), k,
             seta := c.seta, setb := c.setb }

/-- The group goes on at the next word. -/
def goOn (s : State) (c : Iss) : State := s.updWave c.key fun w => w.stepLanes c.mask c.k

/-- The words of a quantum of a recorded or replayed wave, or 0 (R406, R410). -/
def quantumOf (s : State) (w : Wave) : Nat :=
  let x := s.launch w.launch
  if w.quantum.routine || w.kind == .control || x.rec_ == 0 then 0 else x.quantum

/-- A word has issued (R373, R406): `markWave` of its wave. -/
def markIssued (s : State) (c : Iss) : State :=
  { s with issued := true }.updWave c.key (markWave (quantumOf s c.w) c.mask)

/-- What issue does with the outcome of a word. -/
def settle (s : State) (c : Iss) : Res → Host.Outcome State Fault Refusal
  | .done s' => .next ((s'.goOn c).markIssued c)
  | .moved s' => .next (s'.markIssued c)
  | .hold s' b y => .next (s'.updWave c.key fun w =>
      { w.startWait c.mask (.held b y) with
        quantum := { w.quantum with ended := w.quantum.ended || s.quantumOf c.w != 0, grant := w.quantum.grant &&& ~~~c.mask } })
  | .lock s' y => .next (s'.updWave c.key fun w => w.startWait c.mask (.held false y))
  | .walk s' => .next (s'.updWave c.key fun w => w.startWait c.mask .walk)
  | .hang s' => .next (s'.updWave c.key fun w => w.startWait c.mask .cross)
  | .trap t lanes value ucode => .next ((s.takeTrap c.key t ucode [(lanes, c.mask, c.pc, value)]).markIssued c)
  | .undef => .fault .undefinedBehaviour

/-- The stall reason of a word held by an interlock (R401): a lower one where the word would be held without it too. -/
def lockWhy : Res → Nat
  | .hold _ _ y => min y 10
  | _ => 10

/-- Issues an instruction: without an issuing lane group it is refused; the checks that need the wave come first
(R173); then an interlock of R243 holds it; then its body runs. A wave whose quantum has ended waits for the next commit round, but for words that the round
has granted, and one that an event has struck waits to be re-executed (R406, R408, R410). -/
def issue (s : State) (i : Instr) (body : State → Iss → Res) : Host.Outcome State Fault Refusal :=
  match s.issuer i with
  | none => .refused .noIssuer
  | some c =>
    if (c.w.quantum.ended && c.w.quantum.grant &&& c.mask == 0) || s.replay.struck.contains c.key then s.settle c (.walk s)
    else
      match waveCheck i (isCtl c.key) c.w with
      | some t => s.settle c (.trap t c.mask 0 0)
      | none =>
        if interlocked i c.w then s.settle c (.lock s (if !flagAtMost i c.w c.seta c.setb then 7 else lockWhy (body s c)))
        else if !flagAtMost i c.w c.seta c.setb then s.settle c (.hold s false 7)
        else s.settle c ((body s c).issued (drained i c.key))

end State

/-- A body that ends its word in a trap of the whole lane group. -/
def Res.stop (c : Iss) (t : Trap) : Res := .trap t c.mask 0 0

/-! ### Writing a destination (R149, R152, R156) -/

/-- One lane's destination; ZERO discards the result. A scalar takes the value as it is. -/
def writeDst (w : Wave) (d : Opd) (l : Nat) (x : Word) : Wave :=
  match d with
  | .v n => w.vwrite n.val l x
  | .s n => w.swrite n.val x
  | _ => w

/-- One lane's bit of a predicate destination; a scalar receives 1 or 0 (R225). -/
def writeBit (w : Wave) (d : Opd) (l : Nat) (b : Bool) : Wave :=
  match d with
  | .p n => w.pwrite n.val l b
  | .s n => w.swrite n.val (if b then 1 else 0)
  | _ => w

/-- Z = 1: the whole destination of the lanes in m is written as 0 (R168, R215). -/
def zeroDst (w : Wave) (d : Opd) (m : Mask) : Wave :=
  (lanesOf m).foldl (fun w l =>
    match d with
    | .v n => w.vwrite n.val l 0
    | .p n => w.pwrite n.val l false
    | _ => w) w

end Sys2Proof.Machine
end

