-- ==== Sys2Proof/Machine/Phys.lean ====
section
/-! DEFINITION. The physical map: what an address names (02_main_memory.md R26 to R28, 06_onchip_map.md R96 to R100,
22_host_firmware.md R430), homes (04_home_slices.md R61, R62), the device information block and the capability list
(01_device.md R21 to R24), control registers as they are read (R98, R99), the error counters and the error log
(R42, R43, R429), and writes at a home slice with what they wake (R67, R77, R78, R342). -/

namespace Sys2Proof.Machine

/-! ### Places -/

/-- What a physical address names. -/
inductive Place
  /-- populated device memory of a die -/
  | dev (die : Nat)
  /-- a hole or an unassigned range -/
  | hole
  /-- an assigned offset of a core window -/
  | win (core off : Nat)
  /-- a page of a die's control area -/
  | ctl (die off : Nat)
  /-- memory of the peer at a port -/
  | peer (port addr : Nat)
  | host
deriving DecidableEq, Repr

/-- Whether a core position works (R24). -/
def coreWorks (die pos : Nat) : Bool := die < 4 && pos < 48 && (Config.coreMap die).getLsbD pos

/-- The offsets of a core window that R97 assigns. -/
def winAssigned (o : Nat) : Bool :=
  o < 0x180000 || (0x1000000 ≤ o && o < 0x1030000) || (0x2000000 ≤ o && o < 0x2180000)
    || (0x3000000 ≤ o && o < 0x3040000) || (0x4000000 ≤ o && o < 0x4000208)

/-- What an address names, from its bits alone. -/
def place (a : Nat) : Place :=
  let a := a % 2 ^ 52
  if a < 0x4000000000 then if a % 2 ^ 36 < 0xB2D05E000 then .dev (a / 2 ^ 36) else .hole
  else if a < 0x10000000000 then .hole
  else if a < 0x20000000000 then
    let d := a / 2 ^ 38 % 4
    let area := a / 2 ^ 36 % 4
    if area = 0 then
      let n := a / 2 ^ 30 % 64
      if coreWorks d n && winAssigned (a % 2 ^ 30) then .win (coreNo d n) (a % 2 ^ 30) else .hole
    else if area = 1 && a % 2 ^ 36 < 0x7000 then .ctl d (a % 2 ^ 36)
    else .hole
  else if a < 0x4000000000000 then .hole
  else if a < 0x8000000000000 then
    if a / 2 ^ 38 % 2 ^ 10 = 0 && a / 2 ^ 50 % 2 = 1 then .peer (a / 2 ^ 48 % 4) (a % 2 ^ 38) else .hole
  else .host

/-- Whether a range of addresses is device memory. -/
def isDev (a : Nat) : Bool := match place a with | .dev _ => true | _ => false
def isMap (a : Nat) : Bool := match place a with | .win _ _ | .ctl _ _ => true | _ => false

/-- Device memory and host memory are cached (R61). -/
def isCached (a : Nat) : Bool := match place a with | .dev _ | .host => true | _ => false

/-- Off-chip control registers of the host control page (R427), by BAR0 offset. -/
def fpCtl (port : Nat) : Nat := 0x1100 + 32 * port
def fpWin (port : Nat) : Nat := 0x1108 + 32 * port
def fpEnd (port : Nat) : Nat := 0x1110 + 32 * port

/-- A port carries accesses while it is up and enabled (R430). -/
def portUp (s : State) (p : Nat) : Bool := p < 4 && !s.down.contains p && bit (s.port.getD (fpCtl p) 0) 63

/-- The spill area of a die's Leash, which no other requester reaches (R79, R80). -/
def inSpill (s : State) (d a : Nat) : Bool :=
  let r := (s.die d).regs.getD Off.lsSpillbase 0
  bit r 0 && bits r 51 12 * 4096 ≤ a && a < bits r 51 12 * 4096 + 24 * 2 ^ bits r 4 1 * 256

/-- The addresses whose accesses raise UNMAPPED_PHYS (R28, R79, R430). -/
def unmapped (s : State) (a : Nat) : Bool :=
  match place a with
  | .hole => true
  | .dev d => inSpill s d a
  | .peer p _ => !portUp s p
  | _ => false

/-- The home die of an address (R61); requests to a peer leave through the port, and are given the requester's die. -/
def homeDie (a dflt : Nat) : Nat :=
  match place a with
  | .dev d => d
  | .host => a / 2 ^ 7 % 4
  | .win c _ => dieOfCore c
  | .ctl d _ => d
  | _ => dflt

/-- The home slice of an address within its die (R62). -/
def homeSlice (a : Nat) : Nat :=
  let l := a % 2 ^ 52 / 2 ^ 7
  8 * (l % 3) + ((l % 8) ^^^ (l / 8 % 8) ^^^ (l / 64 % 8) ^^^ (l / 512 % 8))

/-- The sector of a byte (R30). -/
def sectorOf (a : Nat) : Nat := a / 32

/-- The channel address of an offset within its channel (R29). -/
def chanAddr (o : Nat) : Nat := o / 256 / 6 * 256 + o % 256

/-! ### The stacked layer and the lines of home slices (R30, R31, R63) -/

/-- A sector by its number: the die, the line of the die's window and the place in the line. -/
def secDie (k : Nat) : Nat := k / 2 ^ 31 % 4
def secLine (k : Nat) : Nat := k % 2 ^ 31 / 4
def secBit (k : Nat) : BitVec 4 := BitVec.ofNat 4 (2 ^ (k % 4))

/-- The set and the tag of a line (R30). -/
def layerSet (line : Nat) : Nat := line % 12582912
def layerTag (line : Nat) : Nat := line / 12582912

/-- The lines of a sector's set. -/
def layerLines (s : State) (k : Nat) : List LayerLine := (s.die (secDie k)).layer.getD (layerSet (secLine k)) []

/-- Whether the stacked layer holds a sector. -/
def layerHas (s : State) (k : Nat) : Bool :=
  (layerLines s k).any fun x => x.tag == layerTag (secLine k) && x.valid &&& secBit k != 0

/-- Whether the home slice holds a sector. -/
def l2Has (s : State) (k : Nat) : Bool :=
  match (s.die (secDie k)).l2.find? (secLine k) with
  | some x => x.valid &&& secBit k != 0
  | none => false

/-- A line becomes the most recently used of its set, with a sector more where it is allocated: the least recently used of
four others leaves (R30). -/
def useLine (xs : List LayerLine) (tag : Nat) (sec : BitVec 4) (alloc : Bool) : List LayerLine :=
  match xs.find? fun x => x.tag == tag with
  | some x => { x with valid := if alloc then x.valid ||| sec else x.valid } :: xs.filter fun y => y.tag != tag
  | none => if alloc then ({ tag, valid := sec } :: xs).take 4 else xs

/-- The stacked layer looks a sector up (R30, R31). -/
def State.layerUse (s : State) (k : Nat) (alloc : Bool) : State :=
  s.updDie (secDie k) fun d =>
    let set := layerSet (secLine k)
    { d with layer := d.layer.set set (useLine (d.layer.getD set []) (layerTag (secLine k)) (secBit k) alloc) }

/-- The stacked layer loses a sector. -/
def State.layerDrop (s : State) (k : Nat) : State :=
  if layerHas s k then
    s.updDie (secDie k) fun d =>
      { d with layer := d.layer.upd (layerSet (secLine k)) fun (xs : List LayerLine) => xs.map fun x =>
          if x.tag == layerTag (secLine k) then { x with valid := x.valid &&& ~~~secBit k } else x }
  else s

/-- The command whose access is made now allocates nothing in the stacked layer on a miss (R31). -/
def State.noAlloc (s : State) : Bool := match s.via with | some v => v.noAlloc | none => false

/-- The sectors of n bytes at a. -/
def sectors (a n : Nat) : List Nat := (List.range ((a + n + 31) / 32 - a / 32)).map (a / 32 + ·)

/-- A read at the home slice of n bytes of device memory: what the slice does not hold comes through the stacked layer,
which allocates the sectors that it misses (R31). -/
def State.layerRead (s : State) (a n : Nat) : State :=
  if isDev a then (sectors a n).foldl (fun s k => if l2Has s k then s else s.layerUse k (!s.noAlloc)) s else s

/-- Whether a read of a sector fails (R34): its memory does, and neither its home slice nor the stacked layer holds it. -/
def badSector (s : State) (k : Nat) : Bool := (s.bad.find? k).isSome && !l2Has s k && !layerHas s k

/-- Whether a read of n bytes touches a sector that fails (R34). -/
def anyBad (s : State) (a n : Nat) : Bool := !s.bad.isEmpty && (sectors a n).any (badSector s)

/-- Whether a write to a sector that covers bytes a to a + n − 1 of it is lost (R36): it covers a part, the sector's memory
fails, and the home slice does not hold it. -/
def losesWrite (s : State) (k a n : Nat) : Bool :=
  (s.bad.find? k).isSome && !l2Has s k && !(a ≤ 32 * k && 32 * k + 32 ≤ a + n)

/-! ### The device information block -/

/-- A capability header: identifier, version 1, length (R21). -/
def capHead (id len : Nat) : Nat := len * 2 ^ 32 + 2 ^ 16 + id

/-- The words of the device information block that are not zero, by offset (R21 to R24, R44, R81, R95, R308, R412,
R424, R432). The entries follow each other in the order of their identifiers. -/
def infoWords (down : List Nat) : List (Nat × Nat) :=
  let peer := fun (p : Nat) => if down.contains p then 0 else (Config.peerId p).toNat * 2 ^ (16 * p)
  [(0x000, 0x40),
   (0x040, capHead 0x0001 0x38),
   (0x048, Config.tag.toNat + 4 * 2 ^ 32 + 12 * 2 ^ 40 + 4 * 2 ^ 48 + 6 * 2 ^ 56),
   (0x050, (Config.coreMap 0).toNat), (0x058, (Config.coreMap 1).toNat), (0x060, (Config.coreMap 2).toNat),
   (0x068, (Config.coreMap 3).toNat), (0x070, 0x78),
   (0x078, capHead 0x0002 0x30), (0x080, 0xB2D05E000), (0x088, 0x180000000), (0x090, 0x8000000000000),
   (0x098, 0xC00000 + 36 * 2 ^ 32 + 6 * 2 ^ 40 + 8 * 2 ^ 48 + 4 * 2 ^ 56), (0x0A0, 0xA8),
   (0x0A8, capHead 0x0010 0x20),
   (0x0B0, 2048 + 192 * 2 ^ 16 + 8 * 2 ^ 32 + 24 * 2 ^ 40 + 7 * 2 ^ 48 + 1 * 2 ^ 56),
   (0x0B8, 256 + 16 * 2 ^ 16 + 64 * 2 ^ 24 + 32 * 2 ^ 32 + 8 * 2 ^ 40 + 16 * 2 ^ 48), (0x0C0, 0xC8)]
  ++ [(0x0C8, capHead 0x0011 0x20),
   (0x0D0, 8 + 64 * 2 ^ 8 + 16 * 2 ^ 16 + 16 * 2 ^ 24 + 256 * 2 ^ 32 + 65535 * 2 ^ 48), (0x0D8, 64), (0x0E0, 0xE8),
   (0x0E8, capHead 0x0012 0x20), (0x0F0, 1024 + 8 * 2 ^ 32 + 10 * 2 ^ 48 + 20 * 2 ^ 56), (0x0F8, 0x7F),
   (0x100, 0x108),
   (0x108, capHead 0x0013 0x20), (0x110, 0x50000 + 32 * 2 ^ 32 + 12 * 2 ^ 48 + 8 * 2 ^ 56), (0x118, 16),
   (0x120, 0x128),
   (0x128, capHead 0x0014 0x20),
   (0x130, 12 + 12 * 2 ^ 8 + 0x139 * 2 ^ 16 + 8 * 2 ^ 32 + 15 * 2 ^ 40 + 4 * 2 ^ 48), (0x138, 0x200), (0x140, 0x148),
   (0x148, capHead 0x0015 0x20), (0x150, 4 + 15 * 2 ^ 8 + Config.moduleId.toNat * 2 ^ 16 + 256 * 2 ^ 32),
   (0x158, peer 0 + peer 1 + peer 2 + peer 3)]

/-- n bytes of the device information block. -/
def infoRead (down : List Nat) (off n : Nat) : Nat :=
  ((((infoWords down).find? fun p => p.1 == off / 8 * 8).map Prod.snd).getD 0) / 2 ^ (8 * (off % 8)) % 2 ^ (8 * n)

/-! ### Control registers -/

/-- The value a control register holds after reset, where it is not zero (R413). -/
def regReset (off : Nat) : Word :=
  if off = 0x41E8 then 0x139 else if off = 0x41F0 then 0x444444444444 else 0

namespace State

/-- A control register of a die as it is stored. -/
def reg (s : State) (d off : Nat) : Word := (s.die d).regs.getD off (regReset off)
def setReg (s : State) (d off : Nat) (x : Word) : State := s.updDie d fun x' => { x' with regs := x'.regs.set off x }

/-- A counter that saturates (R42, R60, R80). -/
def count (s : State) (d off : Nat) : State :=
  let x := s.reg d off
  if x == BitVec.allOnes 64 then s else s.setReg d off (x + 1)

/-- Whether the waves of a context on a die are halted (R398). -/
def halts (s : State) (d ctx : Nat) : Bool := bit (s.reg d 0x5000) 61 && bits (s.reg d 0x5000) 11 0 == ctx

/-- An event on its way to the trigger sequencer of a die (R395). -/
def note (s : State) (d code : Nat) : State :=
  s.updDie d fun x => { x with events := x.events.set code (x.events.getD code 0 + 1) }

/-- The value an 8-byte read of a control page returns; offsets that the block does not define, and write-only
registers, read as zero (R98, R99). -/
def ctlRead (s : State) (d off : Nat) : Word :=
  if off < 0x1000 then BitVec.ofNat 64 (infoRead s.down off 8)
  else if off = Off.lsHeld then BitVec.ofNat 64 ((s.die d).leashHeld.length % 2 ^ 16)
  else s.reg d off

/-- Registers that a WAITU may watch (R98, R100, R381, R394, R405, R413). -/
def waitable (a : Nat) : Bool :=
  match place a with
  | .dev _ => true
  | .win _ o => 0x4000000 ≤ o && o < 0x4000208
  | .ctl _ o =>
    let r := o / 8 * 8
    [Off.msElog, Off.msRef, Off.xlInvdone, Off.xlFqtail, 0x5008, 0x5198, 0x51D8, Off.trTail, Off.trPdone, 0x6010,
      0x6028].contains r || (0x4060 ≤ r && r < 0x40C0)
  | _ => false

/-! ### The error log (R429) -/

/-- Sends a completion or an interrupt to the host (R427). -/
def send (s : State) (o : HostOut) : State := { s with out := s.out ++ [o] }

def fireMsi (s : State) (v : Nat) : State := if bit (s.port.getD 0x1048 0) v then s.send (.msix v) else s

/-- The monitor writes one record of the error log, or counts it lost when the ring of 256 is full. -/
def elog (s : State) (source d detail : Nat) (value : Word) : State :=
  let tail := s.port.getD 0x1030 0
  let head := s.port.getD 0x1038 0
  if (tail.toNat + 2 ^ 32 - head.toNat) % 2 ^ 32 ≥ 256 then
    let lost := s.port.getD 0x1040 0
    if lost == BitVec.allOnes 64 then s else { s with port := s.port.set 0x1040 (lost + 1) }
  else
    let a := 0x10000 + 32 * (tail.toNat % 256)
    let no := s.port.getD 0x20000 0
    let p := ((((s.port.set a (BitVec.ofNat 64 (source * 2 ^ 56 + d * 2 ^ 50 + detail))).set (a + 8) value).set (a + 16)
      no).set (a + 24) (s.free 0x1030)).set 0x1030 (BitVec.ofNat 64 ((tail.toNat + 1) % 2 ^ 32))
    { s with port := p.set 0x20000 (no + 1) }.fireMsi 0

end State

/-! ### The Leash at a home slice (R76 to R78) -/

/-- value cmp operand (R76); a 32-bit comparison takes bits 31:0. -/
def leashHolds (c : LCmp) (wide : Bool) (v o : Word) : Bool :=
  let n := if wide then 64 else 32
  let x := v.toNat % 2 ^ n
  let y := o.toNat % 2 ^ n
  match c with
  | .eq => x == y
  | .ne | .chg => x != y
  | .lts => sext x n < sext y n
  | .ges => sext x n ≥ sext y n
  | .ltu => x < y
  | .geu => x ≥ y

/-- The word of a register-holding window that can be watched: a tile entry or the thermal register (R97). -/
def winReg (s : State) (core off : Nat) : Word :=
  if off < 0x4000200 then (s.core core).tiles.getD ((off - 0x4000000) / 8) 0 else (s.core core).thermal

/-- A byte of device or host memory at its home slice: a copy of host memory that the slice holds stands for it (R63,
R321). -/
def homeByte (s : State) (a : Nat) : Byte :=
  match s.hostL2.find? a with
  | some p => p.1
  | none => Memory.byte s.mem a

/-- n bytes of device or host memory at their home slice. -/
def kRead (s : State) (a n : Nat) : Nat :=
  if isDev a then Memory.read s.mem a n else ofBytes ((List.range n).map fun i => homeByte s (a + i))

/-- The value of a watched word. -/
def watched (s : State) (pa : Nat) (wide : Bool) : Word :=
  let n := if wide then 8 else 4
  match place pa with
  | .win c o => BitVec.ofNat 64 ((winReg s c (o / 8 * 8)).toNat / 2 ^ (8 * (o % 8)) % 2 ^ (8 * n))
  | .ctl d o => BitVec.ofNat 64 ((s.ctlRead d (o / 8 * 8)).toNat / 2 ^ (8 * (o % 8)) % 2 ^ (8 * n))
  | _ => BitVec.ofNat 64 (kRead s pa n)

namespace State

/-- A write of bytes a to a + n − 1 reaches one of their sectors (R31, R36, R63): a home slice that holds the sector keeps
it, to write it out later; else it goes to the stacked layer and its memory. A write of the whole sector allocates it
there and clears its error. -/
def storeSector (s : State) (a n k : Nat) : State :=
  if l2Has s k then
    s.updDie (secDie k) fun d => { d with l2 := d.l2.upd (secLine k) fun x => { x with dirty := x.dirty ||| secBit k } }
  else if a ≤ 32 * k && 32 * k + 32 ≤ a + n then { s with bad := s.bad.del k }.layerUse k (!s.noAlloc)
  else s.layerUse k false

/-- Bytes of device or host memory written at their home. -/
def poke (s : State) (a : Nat) (bs : List Byte) : State :=
  let t : State := { s with mem := Memory.writeBytes s.mem a bs }
  if isDev a then (sectors a bs.length).foldl (fun s k => s.storeSector a bs.length k) t
  else if s.hostL2.isEmpty then t
  else { t with hostL2 := bs.zipIdx.foldl (fun (m : Map (Byte × Bool)) p => m.upd (a + p.2) fun _ => (p.1, false)) s.hostL2 }

/-- Bytes of host memory that stay at their home slice, to be written out later (R63, R64). -/
def hostKeep (s : State) (a : Nat) (bs : List Byte) : State :=
  { s with hostL2 := bs.zipIdx.foldl (fun (m : Map (Byte × Bool)) p => m.set (a + p.2) (p.1, true)) s.hostL2 }

/-- The bytes of host memory that pass a test and that home slices have still to write out go to the host (R63). -/
def hostFlush (s : State) (f : Nat → Bool) : State :=
  let out := s.hostL2.filter fun p => f p.1 && p.2.2
  if out.isEmpty then s
  else { s with mem := out.foldl (fun m p => Memory.writeBytes m p.1 [p.2.1]) s.mem,
                hostL2 := s.hostL2.map fun p => if f p.1 then (p.1, p.2.1, false) else p }

/-- A message on its way (R76, R204, R337). -/
def post (s : State) (m : Msg) : State := { s with msgs := s.msgs.set s.fresh m, fresh := s.fresh + 1 }

/-- A decrement of a task's count to exactly 0 puts its record on the ready queue of the count's home die, or is held
there while the queue holds 4,096 records (R342, R366). -/
def makeReady (s : State) (r : Ready) : State :=
  let d := homeDie r.pa 0
  if (s.die d).ready.length < 4096 then s.updDie d fun x => { x with ready := x.ready ++ [{ r with at_ := s.epoch }] }
  else s.post (.readyHeld d r)

/-- The entries of a die that a write to bytes a to a + n − 1 makes the slice look at, in the order of their
registration. -/
def leashHit (s : State) (d a n : Nat) : List (Nat × LeashEntry) :=
  ((s.die d).leash.filter fun p => a < p.2.pa + (if p.2.wide then 8 else 4) && p.2.pa < a + n)

/-- One entry changed, or removed. -/
def setLeash (s : State) (d : Nat) (order : Nat) (f : LeashEntry → Option LeashEntry) : State :=
  s.updDie d fun x => { x with leash := x.leash.filterMap fun p =>
    if p.2.order == order then (f p.2).map fun e => (p.1, e) else some p }

/-- Looks at the registrations on bytes a to a + n − 1 after a write to them, in the order of their registration (R77,
R78): each satisfied one is WAKING from then on, and sends its waiter a wake or its counter the value. -/
def reeval (s : State) (dflt a n : Nat) : State :=
  let d := homeDie a dflt
  (s.leashHit d a n).foldl (fun s p =>
    let e := p.2
    let v := watched s e.pa e.wide
    let wake := fun (m : Msg) =>
      (((s.setLeash d e.order fun e => some { e with st := .waking }).post m).count d Off.lsWakes).note d 22
    if leashHolds e.cmp e.wide v e.operand then
      match e.st with
      | .waiting => wake (.reply e.wave e.serial e.token e.pa (some v) true)
      | .detached => wake (.decrement e.pa e.counter e.token e.ctx (some v))
      | .waking => s
    else s) s

/-! ### The order of arrival at a slice (R68) -/

/-- A request reaches its slice through a port, in the present cycle of the slice's die: none can do so once one of a later
port has; a take does so before the steals on its queue, and a steal after a take may follow any port. -/
def arrive (s : State) (port a : Nat) (steal : Option Bool := none) : State :=
  if !isCached a then s
  else
    let h := homeDie a 0
    let now := s.now (clockOf (ctlNo h 0))
    let r := (s.die h).arrived.getD (homeSlice a) {}
    let r : Arrivals := if r.at_ == now then r else { at_ := now }
    let late := match steal with
      | some true => port < r.port && !r.taken.contains a
      | some false => port < r.port || r.stolen.contains a
      | none => port < r.port
    let r := match steal with
      | some true => { r with stolen := a :: r.stolen }
      | some false => { r with taken := a :: r.taken }
      | none => r
    { s.updDie h fun k => { k with arrived := k.arrived.set (homeSlice a) { r with port := max r.port port } } with
      late := s.late || late }

/-- A device update of a waitable register is presented to its home slice as a write (R100). -/
def present (s : State) (pa : Nat) : State := s.reeval 0 pa 8

/-- The physical address of a control register (R96, R98). -/
def ctlPa (d off : Nat) : Nat := 0x10000000000 + d * 2 ^ 38 + 2 ^ 36 + off
def winPa (core off : Nat) : Nat := 0x10000000000 + dieOfCore core * 2 ^ 38 + core % 64 * 2 ^ 30 + off

/-- A control register changed by the device or by a store that reaches it. -/
def updReg (s : State) (d off : Nat) (x : Word) : State :=
  let s := s.setReg d off x
  if waitable (ctlPa d off) then s.present (ctlPa d off) else s

/-! ### Logged events (R28, R34, R36, R42, R43) -/

/-- A logged memory event of a die: MS_UNCORR counts it, MS_ELOG keeps it, and the monitor logs it. -/
def logMem (s : State) (d kind chan a : Nat) : State :=
  let w := BitVec.ofNat 64 (kind * 2 ^ 62 + chan * 2 ^ 52 + a % 2 ^ 52 / 32 * 32)
  ((s.count d Off.msUncorr).updReg d Off.msElog w).elog 1 d 0 w

/-- An access to a hole or an unassigned range: it is logged on the home die of a hole, else on the requester's. -/
def logUnmapped (s : State) (a dflt : Nat) : State :=
  let d := if a < 0x4000000000 then a / 2 ^ 36 else dflt
  s.logMem d 3 0 a

/-- The module channel of an address of device memory (R29). -/
def channelOf (a : Nat) : Nat := 6 * (a / 2 ^ 36 % 4) + a % 2 ^ 36 / 256 % 6

/-- A sector fails for a requester (R34, R42): it is logged with its kind at each read, but for the first requester after
the event that found the error, which has logged it. -/
def logSector (s : State) (k : Nat) : State :=
  match s.bad.find? k with
  | some b =>
    if b.fresh then { s with bad := s.bad.set k { b with fresh := false } }
    else s.logMem (secDie k) b.kind (channelOf (32 * k)) (32 * k)
  | none => s

/-- The first sector of a range that fails. -/
def firstBad (s : State) (a n : Nat) : Option Nat := (sectors a n).find? (badSector s)

/-- A read of n bytes meets failing sectors: the first is logged. -/
def logBad (s : State) (a n : Nat) : State :=
  match s.firstBad a n with
  | some k => s.logSector k
  | none => s

/-- A write to part of a failing sector is lost (R36): the stacked layer loses the sector, and the error is logged. -/
def loseWrite (s : State) (k : Nat) : State := (s.layerDrop k).logSector k

/-- A write at the home slice of device or host memory (R67): the bytes change and every registration on them is
looked at. What would cover a part of a failing sector is lost (R36). -/
def homeWrite (s : State) (a : Nat) (bs : List Byte) : State :=
  if s.bad.isEmpty || !isDev a then (s.poke a bs).reeval 0 a bs.length
  else
    (sectors a bs.length).foldl (fun s k =>
      let lo := max a (32 * k)
      let hi := min (a + bs.length) (32 * k + 32)
      if losesWrite s k lo (hi - lo) then s.loseWrite k
      else (s.poke lo ((bs.drop (lo - a)).take (hi - lo))).reeval 0 lo (hi - lo)) s

end State

/-! ### Ports (R68) -/

/-- The port of the home slice of an address that a request of a wave or control core comes through. -/
def slicePort (key a : Nat) : Nat :=
  if homeDie a (dieOf key) != dieOf key then 65 + dieOf key else if isCtl key then 64 else coreOf key % 64

/-- The port for a unit of a die. -/
def unitPort (d a : Nat) : Nat := if homeDie a d != d then 65 + d else 64

/-- Requests of a unit for each line of n bytes reach their slices. -/
def arriveLines (s : State) (d a n : Nat) : State :=
  (List.range ((a + n + 127) / 128 - a / 128)).foldl (fun s i =>
    let x := max a (128 * (a / 128 + i))
    s.arrive (unitPort d x) x) s

end Sys2Proof.Machine
end

