-- ==== Sys2Proof/Machine/Gate.lean ====
section
/-! DEFINITION. Which clusters are powered, and what wakes one (21_power_thermal.md R413, R418 to R420). -/

namespace Sys2Proof.Machine

/-! ### The power control block (R413) -/

def pcSet (c : Nat) : Nat := 0x4000 + 8 * c
def pcAct (c : Nat) : Nat := 0x4060 + 8 * c
def pcLim (c : Nat) : Nat := 0x40C0 + 8 * c
def pcCap (c : Nat) : Nat := 0x4120 + 8 * c
def pcEn (c : Nat) : Nat := 0x4180 + 8 * c
def pcEdie : Nat := 0x41E0
def pcHold : Nat := 0x41E8
def pcGrant : Nat := 0x41F0

/-- The grant budget of a cluster in PC_GRANT (R416). -/
def grantOf (s : State) (d c : Nat) : Nat := bits (s.reg d pcGrant) (4 * c + 3) (4 * c)
def setGrant (s : State) (d c g : Nat) : State :=
  s.setReg d pcGrant (BitVec.ofNat 64 ((s.reg d pcGrant).toNat - grantOf s d c * 16 ^ c + g * 16 ^ c))

/-- A cluster's power control. -/
def clusterAt (s : State) (d c : Nat) : Cluster := ((s.die d).clusters.find? c).getD {}
def setCluster (s : State) (d c : Nat) (x : Cluster) : State :=
  s.updDie d fun k => { k with clusters := k.clusters.set c x }

/-- A core whose cluster is powered. -/
def coreOn (s : State) (core : Nat) : Bool :=
  match (clusterAt s (core / 64) (clusterOf core)).gate with
  | .on | .hold _ => true
  | _ => false

/-- The cores of a cluster. -/
def clusterCores (d c : Nat) : List Nat := (List.range 4).map fun k => coreNo d (4 * c + k)

/-- Cycles of a cluster. -/
def clusterNow (s : State) (d c : Nat) : Nat := s.now (coreNo d (4 * c))

/-- One bit of PC_ACTc changed, which is presented to its home slice. -/
def actBit (s : State) (d c n : Nat) (b : Bool) : State :=
  let x := s.reg d (pcAct c)
  let one := BitVec.ofNat 64 (2 ^ n)
  let y := if b then x ||| one else x &&& ~~~one
  if x == y then s else s.updReg d (pcAct c) y

/-- The arbiter of a die ramps one cluster at a time, in request order (R420). -/
def startRamp (s : State) (d : Nat) : State :=
  if (List.range 12).any fun c => (clusterAt s d c).gate == .ramp then s
  else
    match (s.die d).arbiter with
    | [] => s
    | c :: rest =>
      setCluster (s.updDie d fun k => { k with arbiter := rest }) d c { clusterAt s d c with gate := .ramp }

/-- A wake request (R419). -/
def wakeCluster (s : State) (d c : Nat) : State :=
  let x := clusterAt s d c
  match x.gate with
  | .hold _ => actBit (setCluster s d c { x with gate := .on }) d c 61 false
  | .off =>
    let s := setCluster s d c { x with gate := .queued }
    startRamp (actBit (s.updDie d fun k => { k with arbiter := k.arbiter ++ [c] }) d c 62 true) d
  | .on | .queued | .ramp => s

/-- A wake request to the cluster of a core. -/
def wakeCore (s : State) (core : Nat) : State := wakeCluster s (core / 64) (clusterOf core)

/-- A window access reaches a core: it waits while the core's cluster is gated (R101, R418). -/
def winGate (s : State) (pa : Nat) : State × Bool :=
  match place pa with
  | .win c _ => (wakeCore s c, coreOn s c)
  | _ => (s, true)

end Sys2Proof.Machine
end

