-- ==== Sys2Proof/Machine/Window.lean ====
section
/-! DEFINITION. The core windows of the on-chip map (06_onchip_map.md R96 to R103; 09_registers.md R148, R157): which
wave holds a register file location, and reads and writes of the map as its owners apply them. -/

namespace Sys2Proof.Machine

/-- Rows of the vector file that a wave holds (R157). -/
def rowsHeld (width nv : Nat) : Nat := if width == 64 then 2 * nv else if width == 32 then nv else nv / 2

/-- The register and lane at a row and row lane, counted from the wave's base row (R148). -/
def rowReg (width x rl : Nat) : Nat × Nat :=
  if width == 64 then (4 * (x / 8) + x % 4, rl + 32 * (x / 4 % 2))
  else if width == 32 then (x, rl)
  else (8 * (x / 4) + 4 * (rl / 16) + x % 4, rl % 16)

/-- The wave of a slice that holds a row of its vector file. -/
def rowOwner (s : State) (core sl row : Nat) : Option (Nat × Wave) :=
  List.find? (fun (p : Nat × Wave) => p.1 / 32 == 8 * core + sl && p.2.row ≤ row && row < p.2.row + rowsHeld p.2.width p.2.nv)
    s.waves

/-- The wave of a slice that holds an entry of its scalar file. -/
def entryOwner (s : State) (core sl e : Nat) : Option (Nat × Wave) :=
  List.find? (fun (p : Nat × Wave) => p.1 / 32 == 8 * core + sl && p.2.entry ≤ e && e < p.2.entry + p.2.ns) s.waves

/-- A byte of a register file that no wave holds: what a window write left there, or an undefined value (R101). -/
def rawByte (s : State) (core off : Nat) : Byte :=
  match (s.core core).raw.find? off with
  | some b => b
  | none => (Config.freeWord 0 ((s.core core).gatings * 2 ^ 48 + 2 ^ 36 + core * 2 ^ 30 + off)).truncate 8

def byteOf (x : Word) (i : Nat) : Byte := BitVec.ofNat 8 (x.toNat / 2 ^ (8 * i))
def setByte (x : Word) (i : Nat) (b : Byte) : Word :=
  BitVec.ofNat 64 (x.toNat - x.toNat / 2 ^ (8 * i) % 256 * 2 ^ (8 * i) + b.toNat * 2 ^ (8 * i))

/-- Whether an offset of a core's accumulator memory lies in the tile of an operation in flight (R155). -/
def accBusyAt (s : State) (core o : Nat) : Bool :=
  [core / 2 * 2, core / 2 * 2 + 1].any fun c => (s.core c).mq.any fun q =>
    let t := s.team q.team
    let g := hnd q.handle
    let a := if t.core == core then o - t.accBase else o - t.accBase + t.accSize
    (t.core == core || (t.pair && t.core + 1 == core)) && t.accBase ≤ o && o < t.accBase + t.accSize
      && g.v && g.base * 32 ≤ a && a < g.base * 32 + g.rows * g.cols * 4

/-- One byte of a core window (R97). -/
def winByte (s : State) (core o : Nat) : Byte :=
  if o < 0x180000 then
    match rowOwner s core (o / 0x40000) (o % 0x40000 / 256) with
    | some (_, w) =>
      let (n, l) := rowReg w.width (o % 0x40000 / 256 - w.row) (o % 256 / 8)
      byteOf (w.vraw n l) (o % 8)
    | none => rawByte s core o
  else if o < 0x2000000 then
    let x := o - 0x1000000
    match entryOwner s core (x / 0x8000) (x % 0x8000 / 8) with
    | some (_, w) => byteOf (w.sraw (x % 0x8000 / 8 - w.entry)) (o % 8)
    | none => rawByte s core o
  else if o < 0x3000000 then sramByte s core (o - 0x2000000)
  else if o < 0x4000000 then
    let o := o - 0x3000000
    if accBusyAt s core o then
      (s.free (2 ^ 35 + o)).truncate 8
    else accByte s core o
  else byteOf (winReg s core (o / 8 * 8)) (o % 8)

/-- One byte written through a core window; the tile table is read only, and so is the thermal register. -/
def winPut (s : State) (core o : Nat) (b : Byte) : State :=
  if o < 0x180000 then
    match rowOwner s core (o / 0x40000) (o % 0x40000 / 256) with
    | some (k, w) =>
      let (n, l) := rowReg w.width (o % 0x40000 / 256 - w.row) (o % 256 / 8)
      s.setWave k (w.vwrite n l (setByte (w.vraw n l) (o % 8) b))
    | none => s.updCore core fun c => { c with raw := c.raw.set o b }
  else if o < 0x2000000 then
    let x := o - 0x1000000
    match entryOwner s core (x / 0x8000) (x % 0x8000 / 8) with
    | some (k, w) =>
      let n := x % 0x8000 / 8 - w.entry
      s.setWave k (w.swrite n (setByte (w.sraw n) (o % 8) b))
    | none => s.updCore core fun c => { c with raw := c.raw.set o b }
  else if o < 0x3000000 then sramWrite s core (o - 0x2000000) [b]
  else if o < 0x4000000 then noteHits (accWrite s core (o - 0x3000000) [b]) core [accKey core (o - 0x3000000)]
  else s

/-- Bytes of a core window. -/
def winRead (s : State) (core o n : Nat) : Nat := ofBytes ((List.range n).map fun i => winByte s core (o + i))
def winWrite (s : State) (core o : Nat) (bs : List Byte) : State :=
  bs.zipIdx.foldl (fun s p => winPut s core (o + p.2) p.1) s

namespace State

/-- How a read or write at a home slice ends. -/
inductive Got (α : Type)
  | ok (x : α)
  | unmapped
  | bad
deriving DecidableEq, Repr

/-- A read of n bytes of device or host memory at its home slice (R28, R34). Peer memory is not read here. -/
def homeRead (s : State) (a n : Nat) : Got Nat :=
  if unmapped s a || unmapped s (a + n - 1) then .unmapped
  else if anyBad s a n then .bad
  else
    match place a with
    | .peer _ _ => .ok (s.free a).toNat
    | .win c o => .ok (winRead s c o n)
    | .ctl d o =>
      .ok (if o < 0x1000 then infoRead s.down o n else (s.ctlRead d (o / 8 * 8)).toNat / 2 ^ (8 * (o % 8)) % 2 ^ (8 * n))
    | _ => .ok (kRead s a n)

end State

/-- A read of n bytes at its physical address, from the home slice, the window or the register that it names: what a
hole and a failing sector give is said by name (R28, R34, R99). -/
def physRead (s : State) (a n : Nat) : State.Got Nat := s.homeRead a n

end Sys2Proof.Machine
end

