-- ==== Sys2Proof/Machine/Xlate.lean ====
section
/-! DEFINITION. Address translation (03_translation.md R45 to R60): contexts, table walks, the translation cache of a
die, what each lane of an instruction finds, parking, and fault requests. Which entry leaves a full set of a cache, and which set
an entry is in, are free (log entry 6). -/

namespace Sys2Proof.Machine

/-- The rights an access needs and its code in a fault entry (R49, R55). -/
inductive Need | read | write | both | fetch
deriving DecidableEq, Repr

def Need.code : Need → Nat
  | .read => 0 | .write => 1 | .both => 2 | .fetch => 3

/-- Whether a leaf grants what an access needs (R49). -/
def grants (l : Leaf) : Need → Bool
  | .read => l.rd
  | .write => l.w
  | .both => l.rd && l.w
  | .fetch => l.x

/-- Whether a fault parks the lanes that take it, unless their context fails fast (R53). -/
def parks : Trap → Bool
  | .notPresent | .permission => true
  | _ => false

/-- The fault code of a fault entry (R55). -/
def faultCode : Trap → Nat
  | .permission => 2
  | _ => 1

/-- Word 0 of a context's entry, as the value in effect on a die finds it (R45, R46, R60). -/
def ctxWord (s : State) (d ctx : Nat) : Except Trap Word :=
  let base := (s.die d).ctxbase
  if bit base 0 then
    match s.homeRead (bits base 51 16 * 65536 + 16 * ctx) 8 with
    | .ok x => if x % 2 = 1 then .ok (BitVec.ofNat 64 x) else .error .ctxInvalid
    | .unmapped => .error .walkUnmapped
    | .bad => .error .memUncorr
  else .error .ctxInvalid

/-- Fail fast (R45). -/
def failFast (s : State) (d ctx : Nat) : Bool :=
  match ctxWord s d ctx with
  | .ok w => bit w 1
  | .error _ => false

/-- The leaf of a table word at a level, with the size of its page; none where the word is a table (R48). -/
def leafOf (ctx va lvl : Nat) (big : Bool) (e : Nat) : Except Trap (Option Leaf) :=
  let x := BitVec.ofNat 64 e
  let addr := bits x 51 12 * 4096
  let ty := bits x 2 1
  let mk := fun (k : Nat) =>
    ({ ctx, size := k, va := va / 2 ^ k, pa := addr / 2 ^ k, rd := bit x 3, w := bit x 4, x := bit x 5 } : Leaf)
  if !bit x 0 then .error .notPresent
  else if lvl ≥ 2 then if ty = 0 then .ok none else .error .badEntry
  else if lvl = 1 then
    if ty = 0 || ty = 2 then .ok none
    else if ty = 1 && addr % 2 ^ 21 = 0 then .ok (some (mk 21)) else .error .badEntry
  else if ty = 1 then
    if big then if addr % 2 ^ 16 = 0 then .ok (some (mk 16)) else .error .badEntry
    else .ok (some (mk 12))
  else .error .badEntry

/-- The index of a table (R47). -/
def tableIndex (va lvl : Nat) (big : Bool) : Nat :=
  if lvl = 4 then va / 2 ^ 48 % 256
  else if lvl = 3 then va / 2 ^ 39 % 512
  else if lvl = 2 then va / 2 ^ 30 % 512
  else if lvl = 1 then va / 2 ^ 21 % 512
  else if big then va / 2 ^ 16 % 32
  else va / 2 ^ 12 % 512

/-- A table word of levels 4 to 1 in the walk cache of a die, under its context (R51). -/
def wkey (ctx a : Nat) : Nat := ctx * 2 ^ 52 + a

/-- What a walk reads: the addresses of table words, each with the word where it is one of levels 4 to 1. -/
abbrev Walked := List (Nat × Option Word)

/-- The walk from a table (R47 to R51): a cached table word, else a read at its home slice. The table words that it used
are collected for the walk cache. -/
def walkFrom (s : State) (d ctx va : Nat) : Nat → Nat → Bool → Walked → Walked × Except Trap Leaf
  | lvl, table, big, ws =>
    let a := table + 8 * tableIndex va lvl big
    let got : State.Got Nat := match (s.die d).wcache.find? (wkey ctx a) with
      | some x => if lvl = 0 then s.homeRead a 8 else .ok x.toNat
      | none => s.homeRead a 8
    match got with
    | .unmapped => (ws, .error .walkUnmapped)
    | .bad => (ws, .error .memUncorr)
    | .ok e =>
      let ws := (a, if lvl = 0 then none else some (BitVec.ofNat 64 e)) :: ws
      match leafOf ctx va lvl big e with
      | .error t => (ws, .error t)
      | .ok (some l) => (ws, .ok l)
      | .ok none =>
        match lvl with
        | 0 => (ws, .error .badEntry)
        | n + 1 =>
          walkFrom s d ctx va n (bits (BitVec.ofNat 64 e) 51 12 * 4096) (lvl == 1 && e / 2 % 4 == 2)
            ws

/-- A whole walk of a context's tables. -/
def walkLeaf (s : State) (d ctx va : Nat) : Walked × Except Trap Leaf :=
  match ctxWord s d ctx with
  | .error t => ([], .error t)
  | .ok w => walkFrom s d ctx va 4 (bits w 51 12 * 4096) false []

/-- The set of an entry of the walk cache, of 256, and of a leaf in a die's translation cache, of 2,048. -/
def walkSet (key : Nat) : Nat := (Config.freeWord 0 (2 ^ 60 + key)).toNat % 256
def leafSet (l : Leaf) : Nat := (Config.freeWord 0 (2 ^ 61 + l.ctx * 2 ^ 46 + l.va * 64 + l.size)).toNat % 2048

/-- An entry joins a cache whose sets hold n: where its set is full one of the set leaves, whichever the part takes. -/
def joinSet {α : Type} [BEq α] (n pick : Nat) (same : α → Bool) (x : α) (xs : List α) : List α :=
  if xs.length < n || (xs.filter same).length < n then xs ++ [x]
  else
    match (xs.filter same)[pick % n]? with
    | some y => xs.erase y ++ [x]
    | none => xs ++ [x]

/-- A table word joins a walk cache of 4 ways. -/
def joinWalk (pick : Nat) (m : Map Word) (key : Nat) (x : Word) : Map Word :=
  let full := m.filter fun p => walkSet p.1 == walkSet key
  if (m.find? key).isSome || m.length < 4 || full.length < 4 then m.set key x
  else
    match full[pick % 4]? with
    | some p => (m.del p.1).set key x
    | none => m.set key x

/-- What a walk leaves: its table words in the walk cache of the die, and in the stacked layer what it read of memory. -/
def fillWalk (s : State) (d ctx : Nat) (ws : Walked) : State :=
  ws.foldr (fun p s =>
    let s := if p.2.isSome && ((s.die d).wcache.find? (wkey ctx p.1)).isSome then s else s.layerRead p.1 8
    match p.2 with
    | some x => s.updDie d fun k => { k with wcache := joinWalk (s.free (2 ^ 41 + p.1)).toNat k.wcache (wkey ctx p.1) x }
    | none => s) s

/-- The leaf of a page among those of a cache (R51). -/
def leafIn (xs : List Leaf) (ctx va : Nat) : Option Leaf := xs.find? fun l => l.ctx == ctx && va / 2 ^ l.size == l.va

/-- The leaf of a page in a die's cache. -/
def tlbFind (s : State) (d ctx va : Nat) : Option Leaf := leafIn (s.die d).tlb ctx va

def leafPa (l : Leaf) (va : Nat) : Nat := l.pa * 2 ^ l.size + va % 2 ^ l.size

/-- What translation makes of an address. -/
inductive Xl
  | hit (pa : Nat)
  | miss
  | fault (t : Trap)
deriving DecidableEq, Repr

/-- One address on a die, from the caches alone: the die's, and the core's, if any. A context that is not valid faults at
once (R46). -/
def lookIn (core : List Leaf) (s : State) (d ctx : Nat) (va : Word) (need : Need) : Xl :=
  if bits va 63 56 ≠ 0 then .fault .vaRange
  else
    match ctxWord s d ctx with
    | .error t => .fault t
    | .ok _ =>
      match (tlbFind s d ctx va.toNat).or (leafIn core ctx va.toNat) with
      | some l => if grants l need then .hit (leafPa l va.toNat) else .fault .permission
      | none => .miss

/-- One address of a unit. -/
def look (s : State) (d ctx : Nat) (va : Word) (need : Need) : Xl := lookIn [] s d ctx va need

/-- The leaves of the core that a wave runs on; a control core has none of its own. -/
def coreTlb (s : State) (key : Nat) : List Leaf := if isCtl key then [] else (s.core (coreOf key)).tlb

/-- A leaf cached on a die, of 8 ways, and in the cache of a core, of 128 entries. -/
def fillTlb (s : State) (d : Nat) (l : Leaf) : State :=
  s.updDie d fun x => if x.tlb.contains l then x
    else { x with tlb := joinSet 8 (s.free (2 ^ 40)).toNat (fun k => leafSet k == leafSet l) l x.tlb }
def fillCore (s : State) (core : Nat) (l : Leaf) : State :=
  s.updCore core fun x => if x.tlb.contains l then x
    else { x with tlb := joinSet 128 (s.free (2 ^ 40 + 1)).toNat (fun _ => true) l x.tlb }

/-- A translation made whole, as engines, dispatchers and control cores' launch work make it: a miss walks at once. -/
def xlNow (s : State) (d ctx : Nat) (va : Word) (need : Need) : State × Except Trap Nat :=
  match look s d ctx va need with
  | .hit pa => (s, .ok pa)
  | .fault t => (s, .error t)
  | .miss =>
    let s := s.count d Off.xlWalks
    match walkLeaf s d ctx va.toNat with
    | (ws, .error t) => (fillWalk s d ctx ws, .error t)
    | (ws, .ok l) => (fillTlb (fillWalk s d ctx ws) d l, if grants l need then .ok (leafPa l va.toNat) else .error .permission)

/-- Whether a fault traps at once rather than parking (R53). -/
def atOnce (s : State) (d ctx : Nat) (t : Trap) : Bool := !parks t || failFast s d ctx

/-! ### Lanes of an instruction -/

/-- What one lane's access finds: its lane, virtual address and outcome. -/
structure LaneXl where
  lane : Nat
  va : Word
  out : Xl
deriving DecidableEq, Repr

/-- The key of a lane and page in the list of faults that walks left. -/
def xkey (l : Nat) (va : Word) : Nat := l + 64 * (va.toNat / 4096)

/-- The lookups of an instruction's lanes; a fault that its last walk ended in stands for the lane (R52, R53). -/
def lookLanes (s : State) (key : Nat) (w : Wave) (d : Nat) (need : Need) (xs : List (Nat × Word)) : List LaneXl :=
  xs.map fun p =>
    { lane := p.1, va := p.2,
      out :=
        match lookIn (coreTlb s key) s d w.ctx p.2 need with
        | .miss =>
          match w.xfault.find? fun q => q.1 == xkey p.1 p.2 with
          | some q => .fault q.2
          | none => .miss
        | o => o }

/-- Walks started for the missing pages of an instruction: one for each context and page (R52). -/
def startWalks (s : State) (key serial d ctx : Nat) (xs : List LaneXl) : State :=
  xs.foldl (fun s x =>
    match x.out with
    | .miss =>
      let vpn := x.va.toNat / 4096
      let one := maskOf [x.lane]
      match s.walking.findKey? fun _ w => w.die == d && w.ctx == ctx && w.vpn == vpn with
      | some n =>
        { s with walking := s.walking.upd n fun w =>
            if w.waiting.any fun q => q.1 == key && q.2.1 == serial then
              { w with waiting := w.waiting.map fun q =>
                  if q.1 == key && q.2.1 == serial then (q.1, q.2.1, q.2.2 ||| one) else q }
            else { w with waiting := w.waiting ++ [(key, serial, one)] } }
      | none =>
        ({ s with walking := s.walking.set s.fresh { die := d, ctx, vpn, waiting := [(key, serial, one)] },
                  fresh := s.fresh + 1 }).count d Off.xlWalks
    | _ => s) s

/-- The requests that wait in a die's pending request table (R52). -/
def pendingRequests (s : State) (d : Nat) : Nat :=
  ((s.walking.vals.filter fun w => w.die == d).map fun w => (w.waiting.map fun q => popc q.2.2).sum).sum

/-- A fault request joins those that wait for the fault ring (R55). -/
def queueFault (s : State) (d : Nat) (f : FaultReq) : State :=
  s.updDie d fun x => { x with faultWait := x.faultWait ++ [f] }

/-- The requester code of a wave or control core (R55). -/
def requesterOf (key : Nat) : Nat := if isCtl key then 1 else 0
/-- The origin field: die and core; a control core has its number in the core bits. -/
def originOf (key : Nat) : Nat := dieOf key * 64 + (if isCtl key then key % 2 else coreOf key % 64)

/-- The lanes of a parking fault park at their word, and each distinct key makes one request (R54, R55); an access made
once for the wave parks its whole lane group, `whole`. -/
def parkLanes (s : State) (key d : Nat) (need : Need) (pc : Word) (xs : List (LaneXl × Trap)) (whole : Option Mask) :
    State :=
  let w := s.wave key
  let all := whole.getD (maskOf (xs.map fun x => x.1.lane))
  let pages := (xs.map fun x => x.1.va.toNat / 4096).eraseDups
  let s := pages.foldl (fun s p =>
    let ys := xs.filter fun x => x.1.va.toNat / 4096 == p
    match ys.head? with
    | none => s
    | some y =>
      queueFault s d
        { ctx := w.ctx, va := y.1.va.toNat, access := need.code, fault := faultCode y.2, requester := requesterOf key,
          origin := originOf key, lanes := (whole.map popc).getD ys.length, pc, seq := w.seq,
          who := .lanes key w.serial (whole.getD (maskOf (ys.map fun x => x.1.lane))) }) s
  let s := if (s.launch w.launch).rec_ == 0 || isCtl key || w.quantum.routine then s
    else { s with replay := { s.replay with struck := (key :: s.replay.struck).eraseDups } }
  s.updWave key fun w =>
    (w.mapLanes all fun i l =>
      { l with st := .parked, wait := .none, pend := l.pend ||| w.groupOf i }).dropHolder all

/-- What translation makes of an instruction as a whole. -/
inductive Gate3
  /-- every lane is translated or parks: the lanes that go on with their addresses, and those that park -/
  | go (ok : List (Nat × Word × Nat)) (park : List (LaneXl × Trap))
  /-- held: walks run, or the pending request table is full -/
  | wait (s : State)
  /-- a fault that traps at once, with its lanes (R53) -/
  | stop (t : Trap) (lanes : Mask) (va : Word)
deriving DecidableEq, Repr

/-- The translation of an instruction (R52 to R54): precise faults first, then misses, then parking. -/
def gate (s : State) (key : Nat) (w : Wave) (need : Need) (xs : List (Nat × Word)) : Gate3 :=
  let d := dieOf key
  let ys := lookLanes s key w d need xs
  let ff := failFast s d w.ctx
  let traps := ys.filterMap fun y =>
    match y.out with
    | .fault t => if parks t && !ff then none else some (y, t)
    | _ => none
  match traps.head? with
  | some (y, t) => .stop t (maskOf ((traps.filter fun p => p.2 == t).map fun p => p.1.lane)) y.va
  | none =>
    if ys.any fun y => y.out == .miss then
      let asked := fun (y : LaneXl) => s.walking.any fun q => q.2.die == d && q.2.ctx == w.ctx && q.2.vpn == y.va.toNat / 4096
        && q.2.waiting.any fun k => k.1 == key && k.2.1 == w.serial && k.2.2.getLsbD y.lane
      let more := (ys.filter fun y => y.out == .miss && !asked y).length
      if pendingRequests s d + more > 4096 then .wait s else .wait (startWalks s key w.serial d w.ctx ys)
    else
      .go (ys.filterMap fun y => match y.out with | .hit pa => some (y.lane, y.va, pa) | _ => none)
        (ys.filterMap fun y => match y.out with | .fault t => some (y, t) | _ => none)

end Sys2Proof.Machine
end

