-- ==== Sys2Proof/Machine/Bulk.lean ====
section
/-! DEFINITION. Reads and writes that units other than waves make: at virtual addresses that their die translates, and
at the home slice (03_translation.md R53, R54; 08_tensor_streams.md R139, R141). Beside them, what completing work
does to the wave that started it (R116, R138, R139). -/

namespace Sys2Proof.Machine

/-- Why an access of a unit did not happen. -/
inductive EErr
  /-- a fault of translation, with the address that took it -/
  | xl (t : Trap) (va : Nat)
  | unmapped
  | bad
  /-- a width that the map refuses (R99), with the address -/
  | width (va : Nat)
  /-- a window of a gated cluster, which has been sent a wake request: the access waits (R101) -/
  | gated
deriving DecidableEq, Repr

/-- Whether the map takes an access of n bytes of a unit (R97 to R99): whole sectors or words in windows, and one
word at control registers; the information block takes narrow reads too. -/
def unitWide (write : Bool) (pa n : Nat) : Bool :=
  match place pa with
  | .win _ o =>
    if o < 0x180000 || (0x2000000 ≤ o && o < 0x4000000) then
      (pa % 32 == 0 && n % 32 == 0) || ((n == 4 || n == 8) && pa % n == 0)
    else if o < 0x2000000 then (n == 4 || n == 8) && pa % n == 0
    else n == 8 && pa % 8 == 0
  | .ctl _ o => if o < 0x1000 && !write then [1, 2, 4, 8].contains n && pa % n == 0 else n == 8 && pa % 8 == 0
  | _ => true

/-- The windows that translated pieces reach: each wakes its cluster, and whether all are powered. -/
def winGates (s : State) (ps : List (Nat × Nat)) : State × Bool :=
  ps.foldl (fun r p => let (s, b) := winGate r.1 p.1; (s, r.2 && b)) (s, true)

/-- A range cut at page boundaries: address and length of each piece. -/
def pieces : Nat → Nat → Nat → List (Nat × Nat)
  | 0, _, _ => []
  | fuel + 1, a, n =>
    if n = 0 then []
    else
      let k := min n (4096 - a % 4096)
      (a, k) :: pieces fuel (a + k) (n - k)

def piecesOf (a n : Nat) : List (Nat × Nat) := pieces (n / 4096 + 2) a n

/-- The sectors of a range of addresses. -/
def sectorsOf (va n : Nat) : List Nat := (List.range (sectorOf (va + n - 1) + 1 - sectorOf va)).map (sectorOf va + ·)

/-- A block that goes on without a part that failed (R141): in its read, or later in its write. -/
def EUnit.without (u : EUnit) (p : Nat × Nat) : EUnit :=
  if u.got.isNone then { u with lostR := u.lostR ++ sectorsOf p.1 p.2 } else { u with lostW := u.lostW ++ sectorsOf p.1 p.2 }

/-- The physical addresses of a range, piece by piece. -/
def piecesXl (s : State) (d ctx : Nat) (need : Need) : List (Nat × Nat) → State × Except EErr (List (Nat × Nat))
  | [] => (s, .ok [])
  | (a, n) :: rest =>
    match xlNow s d ctx (BitVec.ofNat 64 a) need with
    | (s, .error t) => (s, .error (if t == .memUncorr then .bad else .xl t a))
    | (s, .ok pa) =>
      match piecesXl s d ctx need rest with
      | (s, .ok ps) => (s, .ok ((pa, n) :: ps))
      | e => e

/-- A range translated: every piece is translated, of a width that the map takes, and powered before any is accessed. -/
def unitXl (s : State) (d ctx : Nat) (need : Need) (xs : List (Nat × Nat)) : State × Except EErr (List (Nat × Nat)) :=
  match piecesXl s d ctx need xs with
  | (s, .error e) => (s, .error e)
  | (s, .ok ps) =>
    match List.find? (fun (p : (Nat × Nat) × Nat × Nat) => !unitWide (need == .write) p.1.1 p.1.2) (ps.zip xs) with
    | some p => (s, .error (.width p.2.1))
    | none =>
      match winGates s ps with
      | (s, true) => (s, .ok ps)
      | (s, false) => (s, .error .gated)

/-- What a failing read of n bytes leaves in the logs (R28, R34). -/
def logFail (s : State) (d pa n : Nat) : EErr → State
  | .unmapped => s.logUnmapped pa d
  | .bad => s.logBad pa n
  | _ => s

/-- A byte of another die's memory that the slices of a die hold (R63, R65, R311): a store on its way home, else a visitor
copy. -/
def dieCopy (s : State) (d a : Nat) : Option Byte :=
  if homeDie a d == d then none
  else
    match List.find? (fun (p : Nat × Byte × Nat) => p.1 == a) (s.die d).held with
    | some p => some p.2.1
    | none => (s.die d).visitor.find? a

/-- A byte that a core's L1 holds (R63, R311, R314): a store of the core on its way to the die slice, else a copy. -/
def coreCopy (s : State) (core a : Nat) : Option Byte :=
  match List.find? (fun (p : Nat × Byte × Nat) => p.1 == a) (s.core core).l1Held with
  | some p => some p.2.1
  | none => (s.core core).l1.find? a

/-- A byte as a die slice gives it, and as a core's L1 does. -/
def dieByte (s : State) (d a : Nat) : Byte := (dieCopy s d a).getD (homeByte s a)
def coreByte (s : State) (core a : Nat) : Byte := (coreCopy s core a).getD (dieByte s (dieOfCore core) a)

/-- A byte that serves a read at a scope on the way to its home slice (R64): .w and .t at the core, .d at the die. -/
def nearByte (s : State) (core d : Nat) (sc : Scope) (a : Nat) : Option Byte :=
  match sc with
  | .w | .t => (coreCopy s core a).or (dieCopy s (dieOfCore core) a)
  | .d => dieCopy s d a
  | .k | .s => none

/-- A byte at a scope (R64): .k at the home slice, and .s there, or for host memory at the host. -/
def byteAt (s : State) (core d : Nat) (sc : Scope) (a : Nat) : Byte :=
  match sc with
  | .s => Memory.byte s.mem a
  | _ => (nearByte s core d sc a).getD (homeByte s a)

/-- Whether a read at a scope goes to the home slice for some byte. -/
def goesHome (s : State) (core d : Nat) (sc : Scope) (a n : Nat) : Bool :=
  (List.range n).any fun i => (nearByte s core d sc (a + i)).isNone

/-- Whether a byte that it goes there for lies in a sector that fails (R34). -/
def failsThere (s : State) (core d : Nat) (sc : Scope) (a n : Nat) : Bool :=
  anyBad s a n && (List.range n).any fun i => badSector s ((a + i) / 32) && (nearByte s core d sc (a + i)).isNone

/-- A read of n bytes at a scope. -/
def readAt (s : State) (core d : Nat) (sc : Scope) (a n : Nat) : State.Got Nat :=
  if !isCached a then physRead s a n
  else if unmapped s a || unmapped s (a + n - 1) then .unmapped
  else if failsThere s core d sc a n then .bad
  else .ok (ofBytes ((List.range n).map fun i => byteAt s core d sc (a + i)))

/-- What a read leaves in the stacked layer (R31). -/
def readLeaves (s : State) (core d : Nat) (sc : Scope) (a n : Nat) : State :=
  if goesHome s core d sc a n then s.layerRead a n else s

def physReads (s : State) (core d : Nat) (sc : Scope) : List (Nat × Nat) → State × Except EErr (List Byte)
  | [] => (s, .ok [])
  | (pa, n) :: rest =>
    match readAt s core d sc pa n with
    | .unmapped => (logFail s d pa n .unmapped, .error .unmapped)
    | .bad => (logFail s d pa n .bad, .error .bad)
    | .ok x =>
      match physReads (readLeaves s core d sc pa n) core d sc rest with
      | (s, .ok bs) => (s, .ok (bytesOf x n ++ bs))
      | e => e

/-- n bytes at a virtual address, at a scope. -/
def unitReadAt (s : State) (d ctx va n : Nat) (sc : Scope) : State × Except EErr (List Byte) :=
  match unitXl s d ctx .read (piecesOf va n) with
  | (s, .ok ps) => physReads s (64 * d) d sc ps
  | (s, .error e) => (s, .error e)

/-- n bytes at a virtual address, at .k. -/
def unitRead (s : State) (d ctx va n : Nat) : State × Except EErr (List Byte) := unitReadAt s d ctx va n .k

/-- An event that cannot happen in the state. -/
def notNow (name : String) : Host.Outcome State Fault Refusal := .refused (.notEnabled name)

/-- Whether a command allocates nothing in the stacked layer (R31): the bit of a copy's and of a stream's record. -/
def Cmd.noAlloc (x : Cmd) : Bool :=
  let w := (x.words[0]?).getD 0
  match x.kind with
  | .copy => bit w 31
  | .stream => bit w 43
  | _ => false

/-- An event whose requests reach their slices in time (R68). -/
def onTime (name : String) : Host.Outcome State Fault Refusal → Host.Outcome State Fault Refusal
  | .next t => if t.late then notNow name else .next t
  | r => r

/-- What a command does: its accesses are made for it, and for a recorded wave its writes to memory stand in the wave's
private buffer (R31, R68, R319, R407). -/
def buffered (name : String) (s : State) (x : Option Cmd) (k : State → Host.Outcome State Fault Refusal) :
    Host.Outcome State Fault Refusal :=
  let via : Option Via := x.map fun x => { core := x.core, scope := x.scope, noAlloc := x.noAlloc }
  let rec_ := x.filter fun x => !isCtl x.wave && (s.launch x.launch).rec_ != 0
  let writer := rec_.map fun x => (x.wave, x.seq.toNat)
  match k { s with via, replay := { s.replay with writer } } with
  | .next t => onTime name (.next { t with via := none, replay := { t.replay with writer := none } })
  | r => r

/-- Bytes written at a physical address: at a home slice or a core window they are applied, and a control register takes
them as a store on its way. -/
def physWrite (s : State) (ctx a : Nat) (bs : List Byte) : State :=
  match place a with
  | .dev _ | .host =>
    match s.replay.writer with
    | some (k, q) => { s with replay := { s.replay with buffer := s.replay.buffer ++ [{ wave := k, seq := q, pa := a, bytes := bs, op := none }] } }
    | none => s.homeWrite a bs
  | .win c o => winWrite s c o bs
  | .ctl d o => if o < 0x1000 then s else s.post (.ctlWrite d (o / 8 * 8) (BitVec.ofNat 64 (ofBytes bs)) ctx)
  | _ => s

/-- A write that a unit of die d makes is performed at the L1s and the die slices of its die too, where older copies are
dropped: those that the slices hold for their homes, and the L1 of the issuing core for the die slice, stand no more for
loads (R319). -/
def dropCopies (s : State) (d a n : Nat) : State :=
  if isCached a then
    let keep := fun (p : Nat × Byte) => !(a ≤ p.1 && p.1 < a + n)
    let keepHeld := fun (p : Nat × Byte × Nat) => !(a ≤ p.1 && p.1 < a + n)
    let mine := s.via.map Via.core
    { s with
      cores := s.cores.map fun p =>
        if p.1 / 64 == d then
          (p.1, { p.2 with l1 := p.2.l1.filter keep, l1Held := if mine == some p.1 then p.2.l1Held.filter keepHeld else p.2.l1Held })
        else p,
      dies := s.dies.map fun p => if p.1 == d then (p.1, { p.2 with visitor := p.2.visitor.filter keep, held := p.2.held.filter keepHeld }) else p }
  else s

/-- A write of a command at .d or narrower to another die's memory goes through the die slice, behind the stores that the
slice still sends to the same home slice (R65, R75). -/
def forwardWaits (s : State) (d a : Nat) : Bool :=
  match s.via with
  | some v =>
    (v.scope == .w || v.scope == .t || v.scope == .d) && isCached a && homeDie a d != d
      && (s.die d).fwd.any fun p =>
        match s.txs.find? p.1 with
        | some t =>
          match t.accs[p.2]? with
          | some b => homeDie b.pa d == homeDie a d && homeSlice b.pa == homeSlice a
          | none => false
        | none => false
  | none => false

def physPieces (s : State) (d ctx : Nat) : List (Nat × Nat) → List Byte → State
  | [], _ => s
  | (pa, n) :: rest, bs => physPieces (dropCopies (physWrite s ctx pa (bs.take n)) d pa n) d ctx rest (bs.drop n)

/-- Bytes written at translated pieces: nothing where one of them lies in a hole (R28). -/
def physWrites (s : State) (d ctx : Nat) (ps : List (Nat × Nat)) (bs : List Byte) : State × Option EErr :=
  match List.find? (fun (p : Nat × Nat) => unmapped s p.1) ps with
  | some p => (logFail s d p.1 p.2 .unmapped, some .unmapped)
  | none => if ps.any fun p => forwardWaits s d p.1 then (s, some .gated) else (physPieces s d ctx ps bs, none)

/-- Bytes written at a virtual address; nothing is written when a part is not translated. -/
def unitWrite (s : State) (d ctx va : Nat) (bs : List Byte) : State × Option EErr :=
  match unitXl s d ctx .write (piecesOf va bs.length) with
  | (s, .ok ps) => physWrites s d ctx ps bs
  | (s, .error e) => (s, some e)

/-- The eight words of 64 bytes. -/
def wordsOf (bs : List Byte) : List Word :=
  (List.range (bs.length / 8)).map fun i => BitVec.ofNat 64 (ofBytes ((bs.drop (8 * i)).take 8))

/-- The status code of a failed access (R139). -/
def statusOf : EErr → Nat
  | .bad => 2
  | _ => 3

/-- Whether a failed access parks: a NOT_PRESENT or PERMISSION fault in a context that does not fail fast (R53, R54). -/
def parksUnit (s : State) (d ctx : Nat) : EErr → Bool
  | .xl t _ => parks t && !failFast s d ctx
  | _ => false

/-- An event that happens only while a test holds. -/
def whenever (name : String) (b : Bool) (k : Host.Outcome State Fault Refusal) : Host.Outcome State Fault Refusal :=
  if b then k else notNow name

/-! ### Rings in memory (R28, R34, R36) -/

/-- A record that a unit of a die writes at a physical address: in a hole nothing is written, and it is logged. -/
def State.ringWrite (s : State) (d a : Nat) (bs : List Byte) : State :=
  if unmapped s a || unmapped s (a + bs.length - 1) then s.logUnmapped a d
  else
    match place a with
    | .dev _ | .host => s.homeWrite a bs
    | .win c o => winWrite s c o bs
    | _ => s

/-- n bytes that a unit reads at a physical address: undefined ones where it cannot read, which is logged. -/
def ringRead (s : State) (a n : Nat) : Nat :=
  match s.homeRead a n with
  | .ok x => x
  | _ => (s.free a).toNat % 2 ^ (8 * n)
def ringLog (s : State) (d a n : Nat) : State := if unmapped s a then s.logUnmapped a d else s.logBad a n

/-! ### Pinned lines (R102, R103) -/

/-- The pinned range of a tile on its core: first line and lines. -/
def tileRange (s : State) (core tb : Nat) : Nat × Nat :=
  match (s.core core).tiles.find? tb with
  | some e => (bits e 45 32, bits e 31 18)
  | none => (0, 0)

/-- The lines of a range of n lines from a that lie in set j (R102). -/
def waysOf (a n j : Nat) : Nat := n / 1024 + if (j + 1024 - a % 1024) % 1024 < n % 1024 then 1 else 0

/-- The pinned ranges of a core. -/
def pinsOf (s : State) (core : Nat) : List (Nat × Nat) :=
  let ts := s.teams.vals.filter fun t => t.core == core || (t.pair && t.core + 1 == core)
  ((ts.filter fun t => t.core == core).flatMap fun t => t.scratch :: t.kennel :: t.tiles.map fun x => tileRange s core x.tb)
    ++ (ts.filter fun t => t.core != core).map fun t => t.kennel2

/-! ### Completion (R116, R138, R139) -/

/-- FSTn as one completing operation leaves it: the four floating-point flags are ORed, and the first nonzero status is
stored with its sequence number. -/
def fstWith (x : BitVec 32) (status fl : Nat) (seq : BitVec 32) : BitVec 32 :=
  let x := x ||| BitVec.ofNat 32 (fl % 16 * 2 ^ 20)
  if status != 0 && bits x 31 24 == 0 then
    BitVec.ofNat 32 (status * 2 ^ 24 + bits x 23 20 * 2 ^ 20 + seq.toNat % 2 ^ 20)
  else x

/-- FSTn of each flag that an operation set takes its status. -/
def statusIn (w : Wave) (seta setb : Option (Fin 12)) (status fl : Nat) (seq : BitVec 32) : Wave :=
  let put := fun (w : Wave) (f : Option (Fin 12)) =>
    match f with
    | some n => { w with fst := w.fst.set n.val (fstWith ((w.fst[n.val]?).getD 0) status fl seq) }
    | none => w
  put (put w seta) setb

/-- An operation completes in its wave: its status is noted, and the flags count down. -/
def finishIn (w : Wave) (seta setb : Option (Fin 12)) (status fl : Nat) (seq : BitVec 32) : Wave :=
  (statusIn w seta setb status fl seq).lower seta setb

end Sys2Proof.Machine
end

