-- ==== Sys2Proof/Machine/Tensor.lean ====
section
/-! DEFINITION. Tensor entries and tile geometry (08_tensor_streams.md R129 to R134) and the tile table
(06_onchip_map.md R104 to R106). -/

namespace Sys2Proof.Machine

/-- A tensor entry, as it is laid out (R130). -/
structure TEnt where
  v : Bool
  fmt : Nat
  kind : Nat
  gsz : Nat
  rank : Nat
  prune : Nat
  tr : Nat
  tc : Nat
  base : Nat
  d0 : Nat
  d1 : Nat
  d2 : Nat
  d3 : Nat
  s1 : Nat
  s2 : Nat
  s3 : Nat
  sbase : Nat
  zbase : Nat
  /-- no reserved bit is set -/
  clean : Bool
deriving DecidableEq, Repr

def wordAt (ws : List Word) (i : Nat) : Word := (ws[i]?).getD 0

/-- The fields of an entry image of eight words. -/
def tent (ws : List Word) : TEnt :=
  let w := wordAt ws 0
  { v := bit w 63, fmt := bits w 59 54, kind := bits w 53 52, gsz := bits w 51 50, rank := bits w 49 48,
    prune := bits w 47 46, tr := bits w 31 16, tc := bits w 15 0, base := bits (wordAt ws 1) 55 0,
    d0 := bits (wordAt ws 2) 15 0, d1 := bits (wordAt ws 2) 31 16, d2 := bits (wordAt ws 2) 47 32,
    d3 := bits (wordAt ws 2) 63 48, s1 := bits (wordAt ws 3) 47 0, s2 := bits (wordAt ws 4) 47 0,
    s3 := bits (wordAt ws 5) 47 0, sbase := bits (wordAt ws 6) 55 0, zbase := bits (wordAt ws 7) 55 0,
    clean := bits w 62 60 == 0 && bits w 45 32 == 0 && bits (wordAt ws 1) 63 56 == 0 && bits (wordAt ws 3) 63 48 == 0
      && bits (wordAt ws 4) 63 48 == 0 && bits (wordAt ws 5) 63 48 == 0 && bits (wordAt ws 6) 63 56 == 0
      && bits (wordAt ws 7) 63 56 == 0 }

/-- The element type of a format code, and its bits; raw formats have no type (R131). -/
def fmtType : Nat → Option ETy
  | 0x01 => some .f64 | 0x02 => some .f32 | 0x03 => some .f16 | 0x04 => some .bf16 | 0x05 => some .e5m2
  | 0x06 => some .e4m3 | 0x07 => some .e3m2 | 0x08 => some .e2m3 | 0x09 => some .e2m1 | 0x0A => some .e8m0
  | 0x10 => some .i8 | 0x11 => some .i16 | 0x12 => some .i32 | 0x13 => some .i64
  | 0x14 => some .n8 | 0x15 => some .n16 | 0x16 => some .n32 | 0x17 => some .n64
  | 0x18 => some .mxi8 | 0x19 => some .q4 | 0x1A => some .q8
  | _ => none
/-- The bits of an element in memory, where narrow elements are packed with no gaps (R114). -/
def memBits : ETy → Nat
  | .e3m2 | .e2m3 => 6
  | .e2m1 | .q4 => 4
  | t => t.width
def isRaw (f : Nat) : Bool := 0x20 ≤ f && f ≤ 0x24
def fmtBits (f : Nat) : Nat :=
  if isRaw f then 8 * 2 ^ (f - 0x20) else match fmtType f with | some t => memBits t | none => 0

def groupSize (g : Nat) : Nat := 32 * 2 ^ g

/-- The elements per scale of an entry: 32 for kind 1, the group for kind 2. -/
def TEnt.group (e : TEnt) : Nat := if e.kind = 2 then groupSize e.gsz else 32

def TEnt.tileOnly (e : TEnt) : Bool := e.d0 == 0

/-- The run length and kept count of a pruning (R128, R130). -/
def pruneOf : Nat → Nat × Nat
  | 1 => (4, 2) | 2 => (4, 1) | 3 => (8, 4) | _ => (1, 1)

/-- An extent by index. -/
def TEnt.ext (e : TEnt) : Nat → Nat
  | 0 => e.d0 | 1 => e.d1 | 2 => e.d2 | _ => e.d3

/-- Whether an entry is illegal (R132). -/
def TEnt.illegal (e : TEnt) : Bool :=
  let b := fmtBits e.fmt
  !e.v || b == 0 || !e.clean || e.kind == 3
  || (e.kind == 1 && !([0x18, 0x05, 0x06, 0x07, 0x08, 0x09].contains e.fmt))
  || (e.kind == 2 && !([0x19, 0x1A].contains e.fmt))
  || (e.fmt == 0x18 && e.kind != 1) || ((e.fmt == 0x19 || e.fmt == 0x1A) && e.kind != 2)
  || (e.kind != 2 && e.gsz != 0) || e.gsz == 3
  || (!e.tileOnly && (List.range (e.rank + 1)).any fun i => e.ext i == 0)
  || (e.kind != 0 && (e.d0 % e.group != 0 || e.tc % e.group != 0))
  || (b == 6 && e.tc % 4 != 0) || (b == 4 && e.tc % 2 != 0)
  || (e.prune != 0 && (!e.tileOnly || e.kind != 0))
  || e.tc % (pruneOf e.prune).2 != 0

/-- Bytes of a row of a tile's elements (R134). -/
def TEnt.rowBytes (e : TEnt) : Nat := (e.tc * fmtBits e.fmt + 7) / 8

def up128 (n : Nat) : Nat := (n + 127) / 128 * 128
def log2n : Nat → Nat | 4 => 2 | 8 => 3 | _ => 0

/-- The byte offsets of a tile's areas and its length: scales, zero points, metadata, end (R134). -/
def TEnt.scaleOff (e : TEnt) : Nat := up128 (e.tr * e.rowBytes)
def TEnt.scaleBytes (e : TEnt) : Nat :=
  if e.kind = 1 then e.tr * e.tc / 32 else if e.kind = 2 then 2 * (e.tr * e.tc / e.group) else 0
def TEnt.zeroOff (e : TEnt) : Nat := up128 (e.scaleOff + e.scaleBytes)
def TEnt.zeroBytes (e : TEnt) : Nat :=
  if e.kind = 2 then (e.tr * e.tc / e.group * fmtBits e.fmt + 7) / 8 else 0
def TEnt.metaRow (e : TEnt) : Nat := (e.tc * log2n (pruneOf e.prune).1 + 7) / 8
def TEnt.metaOff (e : TEnt) : Nat := up128 (e.zeroOff + e.zeroBytes)
def TEnt.tileBytes (e : TEnt) : Nat :=
  if e.prune ≠ 0 then e.metaOff + e.tr * e.metaRow
  else if e.kind = 2 then e.zeroOff + e.zeroBytes
  else if e.kind = 1 then e.scaleOff + e.scaleBytes
  else e.tr * e.rowBytes
/-- Lines of a tile that is not a screen tile, and of a screen tile (R107, R134). -/
def TEnt.lines (e : TEnt) (scr : Bool) : Nat :=
  if scr then fmtBits e.fmt else (e.tileBytes + 127) / 128

/-! ### The tile table (R104 to R106) -/

inductive TileSt | empty | filling | ready | draining
deriving DecidableEq, Repr

/-- A tile entry as it is read (R104). -/
structure TileEnt where
  st : TileSt
  scr : Bool
  err : Bool
  tid : Nat
  base : Nat
  lines : Nat
  gen : Nat
deriving DecidableEq, Repr

def TileSt.code : TileSt → Nat | .empty => 0 | .filling => 1 | .ready => 2 | .draining => 3
def TileSt.ofCode : Nat → TileSt | 1 => .filling | 2 => .ready | 3 => .draining | _ => .empty

def tileEnt (w : Word) : TileEnt :=
  { st := .ofCode (bits w 63 62), scr := bit w 61, err := bit w 60, tid := bits w 59 52, base := bits w 45 32,
    lines := bits w 31 18, gen := bits w 11 0 }

def TileEnt.word (t : TileEnt) : Word :=
  BitVec.ofNat 64 (t.st.code * 2 ^ 62 + t.scr.toNat * 2 ^ 61 + t.err.toNat * 2 ^ 60 + t.tid * 2 ^ 52
    + t.base * 2 ^ 32 + t.lines * 2 ^ 18 + t.gen % 4096)

/-- The bound entry of a core's tile table; one that reads as zero is unbound. -/
def tileAt (s : State) (core tb : Nat) : Option TileEnt := ((s.core core).tiles.find? tb).map tileEnt

/-- The planes of an array that hold weights of a tile lose their tags (R253). -/
def dropPlanes (s : State) (array core tb : Nat) : State :=
  let keep := fun (p : Option Plane) => p.filter fun q => !(q.core == core && q.tb == tb)
  if (s.core array).active.isNone && (s.core array).shadow.isNone then s
  else s.updCore array fun c => { c with active := keep c.active, shadow := keep c.shadow }

/-- A tile entry written by the device: its register is waitable (R97, R100). -/
def setTile (s : State) (core tb : Nat) (t : TileEnt) : State :=
  let s := if t.st == .ready then s else dropPlanes (dropPlanes s core core tb) (core + 1) core tb
  (s.updCore core fun c => { c with tiles := c.tiles.set tb t.word }).present (State.winPa core (0x4000000 + 8 * tb))

/-- A drain of a tile is accepted (R105). -/
def startDrain (s : State) (core tb : Nat) (t : TileEnt) : State :=
  (setTile s core tb { t with st := .draining }).updCore core fun c => { c with drainAt := c.drainAt.set tb (s.now core) }

/-- Whether the drain of a tile was accepted in this core cycle: issue checks of the cycle see the tile READY (R106). -/
def drainNew (s : State) (core tb : Nat) : Bool := (s.core core).drainAt.find? tb == some (s.now core)

/-- Whether an issue check finds a tile READY (R106). -/
def readyAt (s : State) (core tb : Nat) (t : TileEnt) : Bool :=
  t.st == .ready || (t.st == .draining && drainNew s core tb)

/-- The core of a command's tiles: the leader of its team's pair (R103). -/
def tileHome (s : State) (core : Nat) : Nat :=
  if s.teams.any fun p => p.2.pair && p.2.core + 1 == core then core - 1 else core

/-- The launch's copy of the tensor entry that a team's tile is bound to (R134, R356). -/
def tileGeom (t : Team) (tb : Nat) : Option TEnt := (t.tiles.find? fun x => x.tb == tb).map fun x => tent x.entry

end Sys2Proof.Machine
end

