-- ==== Sys2Proof/Machine/Replay.lean ====
section
/-! DEFINITION. What the replay recorder does to instructions as they issue (20_debug_replay.md R405 to R411): log
records written and taken, and words held to the commit round. The rounds themselves are events. -/

namespace Sys2Proof.Machine

/-- The kinds of log record (R409). -/
def logAtomic : Nat := 1
def logWake : Nat := 2
def logTimeout : Nat := 3
def logClk : Nat := 4
def logThermal : Nat := 5
def logPlace : Nat := 6
def logPause : Nat := 7
/-- Kinds that are kept for re-execution alone: a matrix operation that was queued, and a fragment that was taken. -/
def logMatrix : Nat := 16
def logFragment : Nat := 17

/-- Whether a wave's launch is recorded (1) or replayed (2). -/
def recMode (s : State) (w : Wave) : Nat :=
  if w.quantum.routine || w.kind == .control then 0 else (s.launch w.launch).rec_

namespace State

def rpSize (s : State) (d : Nat) : Nat := 2 ^ (bits (s.reg d 0x6008) 4 0 + 10)
def rpAddr (s : State) (d : Nat) : Nat :=
  bits (s.reg d 0x6008) 51 12 * 4096 + 32 * ((s.reg d 0x6010).toNat % s.rpSize d)

/-- A full log under recording, or an empty one under replay, holds the waves that need a record (R409). -/
def logStalls (s : State) (d mode : Nat) : Bool :=
  let tail := (s.reg d 0x6010).toNat
  let head := (s.reg d 0x6018).toNat
  if mode = 1 then (tail + 2 ^ 32 - head) % 2 ^ 32 ≥ s.rpSize d else tail == head

/-- Words 0x00 and 0x08 of a wave's record, without its position. -/
def logHead (s : State) (key kind lane : Nat) : Nat :=
  kind * 2 ^ 60 + dieOf key * 2 ^ 58 + coreOf key % 64 * 2 ^ 52 + sliceOf key * 2 ^ 49 + slotOf key * 2 ^ 44
    + lane * 2 ^ 38 + s.replay.round % 2 ^ 32

def logTail (s : State) (d : Nat) : State :=
  s.updReg d 0x6010 (BitVec.ofNat 64 (((s.reg d 0x6010).toNat + 1) % 2 ^ 32))

/-- A record written at the log's tail (R409). -/
def logPut (s : State) (key kind lane order : Nat) (value : Word) (pa : Nat) : State :=
  let d := dieOf key
  let ws := [s.logHead key kind lane, (s.wave key).quantum.count * 2 ^ 32 + order, value.toNat, pa]
  (s.ringWrite d (s.rpAddr d) (ws.flatMap fun x => bytesOf x 8)).logTail d

/-- What the log says to a replayed wave. -/
inductive Logged
  | value (s : State) (x : Word)
  /-- the next record belongs to another wave, or there is none -/
  | wait
  /-- the record does not match the wave (R411) -/
  | diverged (s : State)
deriving DecidableEq, Repr

/-- The context of a recorded launch halted, and RP_STAT diverged (R398, R411). -/
def diverge (s : State) (d : Nat) : State :=
  let s := s.setReg d 0x6038 (BitVec.ofNat 64 (4 * 2 ^ 56))
  let x := s.reg d 0x5000
  s.setReg d 0x5000 (BitVec.ofNat 64 (bits x 63 62 * 2 ^ 62 + 2 ^ 61 + bits (s.reg d 0x6000) 11 0))

/-- The next log record, taken by the wave it names; an atomic also waits for its place among those on its address. -/
def logTake (s : State) (key kind lane pa order : Nat) : Logged :=
  let d := dieOf key
  if s.logStalls d 2 then .wait
  else
    let a := s.rpAddr d
    let s := ringLog s d a 32
    let x := ringRead s a 8
    let me := s.logHead key kind lane
    if x / 2 ^ 44 % 2 ^ 16 ≠ me / 2 ^ 44 % 2 ^ 16 then .wait
    else if kind = logAtomic && x / 2 ^ 60 = kind && ringRead s (a + 8) 4 > order then .wait
    else if x / 2 ^ 60 = kind && x / 2 ^ 38 % 64 = lane && x % 2 ^ 32 = me % 2 ^ 32
        && ringRead s (a + 12) 4 = (s.wave key).quantum.count && ringRead s (a + 24) 8 = pa then
      .value (s.logTail d) (BitVec.ofNat 64 (ringRead s (a + 16) 8))
    else .diverged (s.diverge d)

end State

/-- A result that a re-executed quantum takes again (R410). -/
def redoTake (s : State) (key kind lane : Nat) : Option (State × Word) :=
  match (s.wave key).quantum.redo with
  | (k, l, x) :: rest =>
    if k == kind && l == lane then
      some (s.updWave key fun w => { w with quantum := { w.quantum with redo := rest } }, x)
    else none
  | [] => none

/-- A result logged in a quantum is kept for its re-execution. -/
def memoPut (s : State) (key kind lane : Nat) (x : Word) : State :=
  s.updWave key fun w => { w with quantum := { w.quantum with memo := w.quantum.memo ++ [(kind, lane, x)] } }

/-- A wave begins a quantum, and is kept as it stands (R406, R410). -/
def beginQuantum (s : State) (key : Nat) (q : Quantum) : State :=
  match s.wave? key with
  | none => s
  | some w =>
    let w := { w with quantum := { q with start := s.fresh } }
    { s.setWave key w with replay := { s.replay with snap := (s.replay.snap.filter fun p => p.1 != key) ++ [(key, w)] } }

/-- A value that replay logs: CLKGET, THERMAL and PLACE (R407). `none` holds the word. -/
def logged (s : State) (c : Iss) (kind : Nat) (x : Word) : Option (State × Word) :=
  match recMode s c.w with
  | 0 => some (s, x)
  | mode =>
    match redoTake s c.key kind 0 with
    | some r => some r
    | none =>
      if mode = 1 then
        if s.logStalls (dieOf c.key) 1 then none
        else some (memoPut (s.logPut c.key kind 0 0 x 0) c.key kind 0 x, x)
      else
        match s.logTake c.key kind 0 0 0 with
        | .value s y => some (memoPut s c.key kind 0 y, y)
        | .wait => none
        | .diverged s => some (s, x)

/-- Whether the reply of a queue instruction, or the decrements of a task record, of a launch are still to come. -/
def wordsPending (s : State) (launch : Nat) : Bool :=
  s.msgs.any fun p =>
    match p.2 with
    | .queue | .queueReply _ _ _ => match s.queues.find? p.1 with | some q => (s.wave q.wave).launch == launch | none => false
    | .taskDec tx _ => match s.txs.find? tx with | some t => t.launch == launch | none => false
    | _ => false

/-- The order of waves in a commit round: die, cluster, core, slice and slot (R408), which is the order of their
numbers. A word held to the round issues only when the round has granted it, no earlier wave of the launch still has a
granted word, and those of earlier waves have been performed. -/
def mustWait (s : State) (c : Iss) : Bool :=
  recMode s c.w != 0 && (c.w.quantum.grant &&& c.mask == 0 || wordsPending s c.w.launch
    || s.waves.any fun p => p.1 < c.key && p.2.launch == c.w.launch && p.2.quantum.grant != 0)

/-- A word held to the round: the quantum ends (R406). One whose turn in the round has not come waits for it. -/
def holdToRound (s : State) (c : Iss) : Res :=
  if c.w.quantum.grant &&& c.mask != 0 then .walk s
  else .hold (s.updWave c.key fun w => { w with quantum := { w.quantum with wants := w.quantum.wants ||| c.mask } }) false 18

end Sys2Proof.Machine
end

