-- ==== Sys2Proof/Machine/Access.lean ====
section
/-! DEFINITION. What every memory instruction shares: addresses and their checks, counters, transactions and the marks
they leave (11_isa_memory.md R188 to R193, R210, R211; 20_debug_replay.md R397, R403, R407). -/

namespace Sys2Proof.Machine

/-- The selected lanes of the issuing group. -/
def selOf (s : State) (c : Iss) (o : Ops) : Mask := selected s.epoch c.w o c.mask

/-- The scope of an access: a leading word's scope replaces that of mod (R168). -/
def scopeOf (o : Ops) (m : MMod) : Scope := (o.pfx.bind Pfx.scope).getD m.scope

/-- An access made once for the wave (R165). -/
def onceFor (i : Instr) : Bool :=
  match i.parts with
  | some p => p.scalarAccess (i.row p)
  | none => false

/-- The lanes that act: every selected lane, or the lowest of them for an access made once. -/
def actLanes (once : Bool) (sel : Mask) : List Nat := if once then (lanesOf sel).take 1 else lanesOf sel

def mtyV (m : MTy) : VTy := { ty := m.ety, cnt := .x1 }

/-- The effective address of a lane: a + b modulo 2^64 (R189). -/
def addrOf (s : State) (c : Iss) (o : Ops) (l : Nat) : Word :=
  readSrc s c.w o .a b64 l + readSrc s c.w o .b b64 l

/-- EXTS for .i types, EXTZ for every other (R188). -/
def extend (m : MTy) (x : Nat) : Word :=
  if m.ety.isSigned then word (sext x (8 * m.bytes)) else BitVec.ofNat 64 (x % 2 ^ (8 * m.bytes))

/-- Whether the map refuses the width of an access (R97 to R99); the information block takes narrow loads only. -/
def mapWidthBad (isStore : Bool) (pa n : Nat) : Bool :=
  match place pa with
  | .win _ o => if o < 0x4000000 then n != 4 && n != 8 else n != 8
  | .ctl _ o => if o < 0x1000 && !isStore then false else n != 8
  | _ => false

/-! ### Counters (R190) -/

/-- The scopes at which an access of a scope is counted: .t up to it. -/
def stcScopes : Scope → List Scope
  | .w => [] | .t => [.t] | .d => [.t, .d] | .k => [.t, .d, .k] | .s => [.t, .d, .k, .s]

/-- Whether an issue would take a counter above its largest value. -/
def counterFull (w : Wave) (ldc : Bool) (xs : List Scope) : Bool :=
  (ldc && w.ldc ≥ 63) || xs.any fun x => w.stc x ≥ 63

/-! ### Comparators and samples (R397, R403) -/

/-- Comparators of the wave's die that one of its memory instructions matches count a match. -/
def noteComparators (s : State) (c : Iss) (isStore : Bool) (vas : List Word) : State :=
  let d := dieOf c.key
  if isCtl c.key || bits (s.reg d 0x5000) 11 0 ≠ c.w.ctx then s
  else
    (List.range 8).foldl (fun s k =>
      let ctl := s.reg d (0x5050 + 32 * k)
      let kind := bits ctl 61 60
      let lo := bits (s.reg d (0x5040 + 32 * k)) 55 0
      let hi := bits (s.reg d (0x5048 + 32 * k)) 55 0
      if bit ctl 63 && (kind == 3 || (kind == 1 && !isStore) || (kind == 2 && isStore))
          && vas.any fun a => lo ≤ a.toNat && a.toNat ≤ hi then s.note d (2 + k)
      else s) s

/-- Counts a memory instruction of a sampling core; whether it is the 2^q-th. -/
def mrCount (s : State) (c : Iss) : State × Bool :=
  let d := dieOf c.key
  let ctl := s.reg d 0x51C0
  if !isCtl c.key && bit ctl 63 && bit ctl 62 && bit (s.reg d 0x51C8) (coreOf c.key % 64) then
    let k := (s.core (coreOf c.key)).mrCount + 1
    (s.updCore (coreOf c.key) fun x => { x with mrCount := k }, k % 2 ^ min (bits ctl 4 0) 20 == 0)
  else (s, false)

/-! ### Transactions -/

/-- The registers of a wave that a transaction's access will write, as keys of `Out` (R192). -/
def outKeys (dst : Opd) (run : Bool) (i l : Nat) : List Nat :=
  match dst with
  | .v n => [Wave.vkey n.val l]
  | .s n => [Wave.skey (n.val + (if run then i else 0))]
  | .p n => [Wave.pkey n.val l]
  | _ => []

/-- The registers that access i of a transaction writes to a destination: of accesses with one scalar destination, that is
no run, the last writes it, so that the highest lane's value remains (R149; log entry 48). -/
def accKeys (t : Tx) (dst : Opd) (i l : Nat) : List Nat :=
  match dst with
  | .s _ => if t.run || i + 1 == t.accs.length then outKeys dst t.run i l else []
  | _ => outKeys dst t.run i l

def txOuts (no : Nat) (t : Tx) : List Out :=
  (t.accs.zipIdx.flatMap fun p => accKeys t t.dst p.2 p.1.lane ++ accKeys t t.dst2 p.2 p.1.lane).map
    fun k => ({ tx := no, reg := k } : Out)

/-- A transaction leaves: its counters and flags rise, its destinations become outstanding (R190, R192). -/
def launchTx (s : State) (c : Iss) (t : Tx) : State :=
  let (no, s) := s.takeNo
  let s := { s with txs := s.txs.set no t }
  s.updWave c.key fun w =>
    let w := { w with ldc := w.ldc + (if t.ldc then 1 else 0), outs := w.outs ++ txOuts no t }
    let w := w.raiseStc t.owed
    let w := if t.held then { w with quantum := { w.quantum with heldTx := w.quantum.heldTx ++ [no] } } else w
    if t.ldc then w.raise t.seta t.setb else w

/-- An instruction with no lane to serve raises its flags and counters for one cycle (R161, R190). -/
def idleFor (s : State) (c : Iss) (flags ldc : Bool) (stc : List Scope) : State :=
  let f : Fall := { seta := if flags then c.seta else none, setb := if flags then c.setb else none, ldc, stc }
  s.updWave c.key fun w =>
    let w := (w.raise f.seta f.setb).raiseStc stc
    { w with ldc := w.ldc + ldc.toNat, fall := w.fall ++ [f] }

/-- What a memory instruction asks for. -/
structure MemReq where
  o : Ops
  once : Bool
  /-- bytes of one access, its alignment, and the rights it needs -/
  n : Nat
  align : Nat
  need : Need
  /-- applied by the home arithmetic unit -/
  atomic : Bool
  isStore : Bool
  ldc : Bool
  stc : List Scope
  /-- the lane and address of each access -/
  xs : List (Nat × Word)

/-- Issue of a memory instruction (R189, R190, R53, R54, R99): a check that fails in one lane traps every selected lane,
since no lane performs anything, with the address of the lowest lane that fails. The checks are made in order, then `go` performs it for the
accesses that are translated: lane, virtual and physical address. Lanes that park stay at the word. -/
def memIssue (s : State) (c : Iss) (r : MemReq) (go : State → List (Nat × Word × Nat) → State) : Res :=
  let whole := r.once || r.xs.any fun x => (r.xs.filter fun y => y.1 == x.1).length > 1
  let bad := fun (f : Word → Bool) => r.xs.filter fun x => f x.2
  let high := bad fun a => bits a 63 56 != 0
  let odd := bad fun a => a.toNat % r.align != 0
  let sel := selOf s c r.o
  let stop := fun (t : Trap) (ys : List (Nat × Word)) =>
    Res.trap t sel ((ys.head?.map Prod.snd).getD 0) 0
  if !high.isEmpty then stop .vaRange high
  else if !odd.isEmpty then stop .misaligned odd
  else if counterFull c.w r.ldc r.stc then .hold s false 7
  else
    match gate s c.key c.w r.need r.xs with
    | .stop t _ va =>
      .trap t sel (if t == .vaRange || t == .misaligned || t == .memUncorr then va else 0) 0
    | .wait s' => .walk (if r.ldc then s'.updWave c.key fun w => w.count c.mask else s')
    | .go ok park =>
      let inMap := ok.filter fun x => isMap x.2.2
      let width := ok.filter fun x => mapWidthBad r.isStore x.2.2 r.n
      if r.atomic && !inMap.isEmpty then .trap .atomicTarget sel 0 0
      else if !width.isEmpty then stop .misaligned (width.map fun x => (x.1, x.2.1))
      else if park.isEmpty then .done (go (noteComparators s c r.isStore (r.xs.map Prod.snd)) ok)
      else
        let s := noteComparators s c r.isStore (r.xs.map Prod.snd)
        let all := if whole then c.mask else maskOf (park.map fun x => x.1.lane)
        let s := parkLanes s c.key (dieOf c.key) r.need c.pc park (if whole then some c.mask else none)
        if whole then .moved s
        else .moved ((go s ok).updWave c.key fun w => w.stepLanes (c.mask &&& ~~~all) c.k)

/-- The transaction of an instruction, before its accesses. -/
def baseTx (c : Iss) (kind : TxKind) (scope : Scope) (ty : MTy) (sel : Mask) : Tx :=
  { wave := c.key, serial := c.w.serial, kind, scope, ty, dst := .zero, pc := c.pc, seq := c.w.seq, accs := [], sel,
    launch := c.w.launch, ctx := c.w.ctx, core := coreOf c.key, seta := c.seta, setb := c.setb }

/-- Where a wave stands, as stall samples and request samples say it (R400). -/
def standing (key : Nat) (w : Wave) : Word :=
  BitVec.ofNat 64 (w.teamNo.toNat % 2 ^ 32 * 2 ^ 32 + dieOf key * 2 ^ 23 + coreOf key % 64 * 2 ^ 17 + sliceOf key * 2 ^ 14
    + slotOf key * 2 ^ 9 + w.waveId)

/-- Whether a sampled request is recorded: its lowest selected lane did not park (R403). -/
def sampleOf (s : State) (c : Iss) (xs : List (Nat × Word)) (ok : List (Nat × Word × Nat)) :
    State × Option (Nat × Word) :=
  let (s, hit) := mrCount s c
  (s, if hit && (xs.head?.map Prod.fst) == (ok.head?.map Prod.fst) && !ok.isEmpty then
        some (s.now (clockOf c.key), standing c.key c.w) else none)

end Sys2Proof.Machine
end

