-- ==== Sys2Proof/Machine/Memory.lean ====
section
/-! DEFINITION. The meanings of the memory, atomic, engine and wait instructions, opcodes 0x000 to 0x028
(11_isa_memory.md R186 to R212): what each does as it issues. What follows at the L1, the die slice and the home slice
are events of `MemEvents`, and what engines do are events of `Engines` and `Retriever`. -/

namespace Sys2Proof.Machine

/-! ### Loads and stores (R194) -/

/-- Z = 1: the destination of the lanes that are not selected is written as 0 (R168, R211). -/
def zeroRest (s : State) (c : Iss) (o : Ops) (d : Opd) (sel : Mask) : State :=
  s.updWave c.key fun w => zeroDst w d (zeroed o c.mask sel)

/-- A load as it issues, from given addresses. -/
def loadFrom (s : State) (c : Iss) (o : Ops) (m : MMod) (once run : Bool) (xs : List (Nat × Word)) (sel : Mask) : Res :=
  memIssue s c
    { o, once, n := m.ty.bytes, align := m.ty.bytes, need := .read, atomic := false, isStore := false,
      ldc := true, stc := [], xs }
    fun s ok =>
      let s := zeroRest s c o o.d sel
      if ok.isEmpty then idleFor s c true xs.isEmpty []
      else
        let (s, sample) := sampleOf s c xs ok
        launchTx s c
          { baseTx c .load (scopeOf o m) m.ty sel with
            dst := o.d, run, scalar := once, ldc := true, sample,
            accs := ok.map fun x => { lane := x.1, va := x.2.1, pa := x.2.2, n := m.ty.bytes } }

/-- A store as it issues, of one datum at each address. -/
def storeTo (s : State) (c : Iss) (o : Ops) (m : MMod) (once : Bool) (xs : List (Nat × Word))
    (data : Nat → Nat → Word) (sel : Mask) : Res :=
  memIssue s c
    { o, once, n := m.ty.bytes, align := m.ty.bytes, need := .write, atomic := false, isStore := true, ldc := false,
      stc := stcScopes (scopeOf o m), xs }
    fun s ok =>
      if ok.isEmpty then idleFor s c false false (if xs.isEmpty then stcScopes (scopeOf o m) else [])
      else
        let (s, sample) := sampleOf s c xs ok
        launchTx s c
          { baseTx c .store (scopeOf o m) m.ty sel with
            scalar := once, owed := stcScopes (scopeOf o m), sample, held := recMode s c.w != 0,
            accs := ok.zipIdx.map fun p =>
              { lane := p.1.1, va := p.1.2.1, pa := p.1.2.2, n := m.ty.bytes, data := data p.1.1 p.2 } }

/-- LD (R194). -/
def execLd (o : Ops) (m : MMod) (s : State) : Host.Outcome State Fault Refusal :=
  s.issue (.ld o m) fun s c =>
    let sel := selOf s c o
    let once := onceFor (.ld o m)
    loadFrom s c o m once false ((actLanes once sel).map fun l => (l, addrOf s c o l)) sel

/-- ST (R194). -/
def execSt (o : Ops) (m : MMod) (s : State) : Host.Outcome State Fault Refusal :=
  s.issue (.st o m) fun s c =>
    let sel := selOf s c o
    let once := onceFor (.st o m)
    storeTo s c o m once ((actLanes once sel).map fun l => (l, addrOf s c o l))
      (fun l _ => readSrc s c.w o .c (mtyV m.ty) l) sel

/-- The addresses of a run of words (R195): one access each, made once for the wave. -/
def runAddrs (s : State) (c : Iss) (o : Ops) (words : BitVec 3) (sel : Mask) : List (Nat × Word) :=
  (actLanes true sel).flatMap fun l =>
    (List.range (words.toNat + 1)).map fun i => (l, addrOf s c o l + BitVec.ofNat 64 (8 * i))

/-- LDSC (R195). -/
def execLdsc (o : Ops) (m : MMod) (words : BitVec 3) (s : State) : Host.Outcome State Fault Refusal :=
  s.issue (.ldsc o m words) fun s c =>
    let sel := selOf s c o
    loadFrom s c o m true true (runAddrs s c o words sel) sel

/-- STSC (R195). -/
def execStsc (o : Ops) (m : MMod) (words : BitVec 3) (s : State) : Host.Outcome State Fault Refusal :=
  s.issue (.stsc o m words) fun s c =>
    let sel := selOf s c o
    let first := match o.d with | .s n => n.val | _ => 0
    storeTo s c o m true (runAddrs s c o words sel) (fun _ i => c.w.sread s.epoch (first + i)) sel

/-- LDBC (R194): lane l loads element l of a block. Made once for the wave (R165), it loads the element of the lowest
selected lane (log entry 48). -/
def execLdbc (o : Ops) (m : MMod) (s : State) : Host.Outcome State Fault Refusal :=
  s.issue (.ldbc o m) fun s c =>
    let sel := selOf s c o
    let once := onceFor (.ldbc o m)
    loadFrom s c o m once false
      ((actLanes once sel).map fun l => (l, addrOf s c o l + BitVec.ofNat 64 (l * m.ty.bytes))) sel

/-- PREF (R196): it changes nothing that any requester reads. -/
def execPref (o : Ops) (m : MMod) (s : State) : Host.Outcome State Fault Refusal :=
  s.issue (.pref o m) fun s _ => .done s

/-! ### Scratchpad and tiles (R197) -/

/-- The part of a core's pinned SRAM that an instruction addresses: core, base and size in bytes. -/
structure Buf where
  core : Nat
  base : Nat
  size : Nat
deriving DecidableEq, Repr

/-- The team's scratchpad, on the leading core of a pair (R103). -/
def scratchOf (s : State) (c : Iss) : Buf :=
  let t := s.team c.w.team
  { core := t.core, base := t.scratch.1 * 128, size := t.scratch.2 * 128 }

/-- The bytes of an access to core SRAM: what the committed SRAM holds, and under replay the wave's own held stores
(R197, R407). -/
def sramLoad (s : State) (c : Iss) (core off n : Nat) : Nat :=
  let base := (List.range n).map fun i => sramByte s core (off + i)
  if recMode s c.w = 0 then ofBytes base
  else
    let pa := State.winPa core (0x2000000 + off)
    ofBytes ((List.range n).map fun i =>
      c.w.quantum.heldTx.foldl (fun b no =>
        match s.txs.find? no with
        | some t => t.accs.foldl (fun b a =>
            if a.pa ≤ pa + i && pa + i < a.pa + a.n then BitVec.ofNat 8 (a.data.toNat / 2 ^ (8 * (pa + i - a.pa))) else b) b
        | none => b) ((base[i]?).getD 0))

/-- The checks of offsets into core SRAM: alignment under R189, then the range. -/
def offsetTrap (xs : List (Nat × Word)) (n size : Nat) (range : Trap) : Option (Trap × Word) :=
  let odd := xs.filter fun x => x.2.toNat % n != 0
  let out := xs.filter fun x => x.2.toNat + n > size
  if !odd.isEmpty then some (.misaligned, (odd.head?.map Prod.snd).getD 0)
  else if !out.isEmpty then some (range, 0)
  else none

/-- Loads from core SRAM are applied as they issue, every lane reading before any writes (R197). -/
def bufLoad (s : State) (c : Iss) (o : Ops) (m : MMod) (once : Bool) (b : Buf) (xs : List (Nat × Word)) (sel : Mask)
    (range : Trap) : Res :=
  match offsetTrap xs m.ty.bytes b.size range with
  | some (t, v) => .trap t sel v 0
  | none =>
    let vals := xs.map fun x => (x.1, extend m.ty (sramLoad s c b.core (b.base + x.2.toNat) m.ty.bytes))
    let lanes := if once then vals.take 1 else vals
    .done ((zeroRest s c o o.d sel).updWave c.key fun w => lanes.foldl (fun w x => writeDst w o.d x.1 x.2) w)

/-- Stores to core SRAM are applied as they issue, in ascending lane order (R191, R197); under replay they wait in the
wave's private buffer (R407). -/
def bufStore (s : State) (c : Iss) (m : MMod) (b : Buf) (xs : List (Nat × Word)) (data : Nat → Word) (sel : Mask)
    (range : Trap) : Res :=
  if counterFull c.w false [.t] then .hold s false 7
  else
    match offsetTrap xs m.ty.bytes b.size range with
    | some (t, v) => .trap t sel v 0
    | none =>
      if recMode s c.w != 0 && !xs.isEmpty then
        .done (launchTx s c
          { baseTx c .store .t m.ty sel with
            owed := [.t], held := true,
            accs := xs.map fun x =>
              { lane := x.1, va := 0, pa := State.winPa b.core (0x2000000 + b.base + x.2.toNat), n := m.ty.bytes,
                data := data x.1, win := true } })
      else .done (xs.foldl (fun s x => sramWrite s b.core (b.base + x.2.toNat) (bytesOf (data x.1).toNat m.ty.bytes)) s)

/-- LDS (R197). -/
def execLds (o : Ops) (m : MMod) (s : State) : Host.Outcome State Fault Refusal :=
  s.issue (.lds o m) fun s c =>
    let sel := selOf s c o
    let once := onceFor (.lds o m)
    bufLoad s c o m once (scratchOf s c) ((actLanes once sel).map fun l => (l, addrOf s c o l)) sel .scratchRange

/-- STS (R197). -/
def execSts (o : Ops) (m : MMod) (s : State) : Host.Outcome State Fault Refusal :=
  s.issue (.sts o m) fun s c =>
    let sel := selOf s c o
    let once := onceFor (.sts o m)
    bufStore s c m (scratchOf s c) ((actLanes once sel).map fun l => (l, addrOf s c o l))
      (fun l => readSrc s c.w o .c (mtyV m.ty) l) sel .scratchRange

/-- The geometry of a tile bound on a core (R134). -/
def geomAt (s : State) (core tb : Nat) : Option TEnt :=
  (List.find? (fun (p : Nat × Team) => p.2.core == core && p.2.tiles.any fun x => x.tb == tb) s.teams).bind
    fun p => tileGeom p.2 tb

/-- The issue check of an instruction that names a tile (R106): unbound traps, and any state but READY holds. -/
def withTile (s : State) (c : Iss) (tb : BitVec 6) (k : Nat → TileEnt → Res) : Res :=
  let core := (s.team c.w.team).core
  match tileAt s core tb.toNat with
  | none => .stop c .tileUnbound
  | some t => if readyAt s core tb.toNat t then k core t else .hold s true 9

/-- The offset of a lane in a tile: a × rowbytes + b (R197). -/
def tileOffset (s : State) (c : Iss) (o : Ops) (rowBytes l : Nat) : Word :=
  readSrc s c.w o .a b64 l * BitVec.ofNat 64 rowBytes + readSrc s c.w o .b b64 l

/-- LDT (R197). -/
def execLdt (o : Ops) (m : MMod) (tb : BitVec 6) (s : State) : Host.Outcome State Fault Refusal :=
  s.issue (.ldt o m tb) fun s c =>
    withTile s c tb fun core t =>
      let sel := selOf s c o
      let once := onceFor (.ldt o m tb)
      let rb := ((geomAt s core tb.toNat).map TEnt.rowBytes).getD 0
      bufLoad s c o m once { core, base := t.base * 128, size := t.lines * 128 }
        ((actLanes once sel).map fun l => (l, tileOffset s c o rb l)) sel .tileRange

/-- STT (R197): d is the data. -/
def execStt (o : Ops) (m : MMod) (tb : BitVec 6) (s : State) : Host.Outcome State Fault Refusal :=
  s.issue (.stt o m tb) fun s c =>
    withTile s c tb fun core t =>
      let sel := selOf s c o
      let once := onceFor (.stt o m tb)
      let rb := ((geomAt s core tb.toNat).map TEnt.rowBytes).getD 0
      bufStore s c m { core, base := t.base * 128, size := t.lines * 128 }
        ((actLanes once sel).map fun l => (l, tileOffset s c o rb l))
        (fun l => readOpd s c.w o.d (mtyV m.ty) l) sel .tileRange

/-! ### Atomics and reductions (R198 to R200) -/

/-- The home arithmetic unit's result (R66): modulo 2^n, by the type's signedness, and for .f32 and .f64 by the NaN and
signed-zero rules. -/
def homeArith (op : ROp) (ty : MTy) (a b : Nat) : Nat :=
  let n := 8 * ty.bytes
  let a := a % 2 ^ n
  let b := b % 2 ^ n
  match op with
  | .add => (a + b) % 2 ^ n
  | .and => a &&& b
  | .or => a ||| b
  | .xor => a ^^^ b
  | .min | .max =>
    let wantMax := op == .max
    match fmtOf ty.ety with
    | some f => minMaxCode f wantMax a b
    | none =>
      let less := if ty.ety.isSigned then sext a n < sext b n else a < b
      if less != wantMax then a else b

/-- Bytes of a side copy: the committed value where no atomic of the interval has touched them (R407). -/
def sideRead (s : State) (a n : Nat) : Nat :=
  ofBytes ((List.range n).map fun i => (s.replay.side.find? (a + i)).getD (homeByte s (a + i)))
def sideWrite (s : State) (a n x : Nat) : State :=
  { s with replay := { s.replay with
      orders := s.replay.orders.set a (s.replay.orders.getD a 0 + 1),
      side := (bytesOf x n).zipIdx.foldl (fun m p => Map.set m (a + p.2) p.1) s.replay.side } }

/-- Which accesses of an ACAS win, from their old values: on each address the first lane whose expected value was
there (R70, R199). -/
def casWins (n : Nat) (accs : List Acc) : List Bool :=
  (accs.foldl (fun (r : List Bool × List Nat) a =>
    let win := !r.2.contains a.pa
      && (match a.old with | some o => o.toNat % 2 ^ (8 * n) == a.data.toNat % 2 ^ (8 * n) | none => false)
    (r.1 ++ [win], if win then a.pa :: r.2 else r.2)) ([], [])).1

/-- What an atomic leaves in memory where `prev` are the accesses of its instruction performed so far (R66, R199). -/
def atomicResult (kind : TxKind) (ty : MTy) (prev : List Acc) (a : Acc) (old : Nat) : Nat :=
  match kind with
  | .atomic op | .reduce op => homeArith op ty old a.data.toNat
  | .exch => a.data.toNat
  | .cas =>
    let wins := casWins ty.bytes (prev ++ [{ a with old := some (BitVec.ofNat 64 old) }])
    if (wins.getLast?).getD false then a.data2.toNat else old
  | _ => old

/-- One atomic of a recorded or replayed wave, performed at issue on the side copy: its access with the old value, or
none where the log holds the wave. One that reaches no memory fails (R378). -/
def recordAtomic (s : State) (c : Iss) (apply : Nat → Nat) (a : Acc) : Option (State × Acc) :=
  if unmapped s a.pa then some (s.logUnmapped a.pa (dieOf c.key), { a with failed := some .unmappedPhys })
  else if anyBad s a.pa a.n then some (s.logBad a.pa a.n, { a with failed := some .memUncorr })
  else
    match redoTake s c.key logAtomic a.lane with
    | some (s, x) => some (s, { a with old := some x })
    | none =>
      let old := sideRead s a.pa a.n
      let order := s.replay.orders.getD a.pa 0
      let go := fun (s : State) (v : Nat) =>
        (sideWrite (memoPut s c.key logAtomic a.lane (BitVec.ofNat 64 v)) a.pa a.n (apply v),
          { a with old := some (BitVec.ofNat 64 v) })
      match recMode s c.w with
      | 1 => if s.logStalls (dieOf c.key) 1 then none
             else some (go (s.logPut c.key logAtomic a.lane order (BitVec.ofNat 64 old) a.pa) old)
      | _ =>
        match s.logTake c.key logAtomic a.lane a.pa order with
        | .value s x => some (go s x.toNat)
        | .wait => none
        | .diverged s => some (go s old)

/-- Every access of an atomic performed on side copies, in lane order; none where the log holds the wave. -/
def recordAll (s : State) (c : Iss) (kind : TxKind) (ty : MTy) (prev : List Acc) : List Acc → Option (State × List Acc)
  | [] => some (s, prev)
  | a :: as =>
    match recordAtomic s c (atomicResult kind ty prev a) a with
    | none => none
    | some (s, a) => recordAll s c kind ty (prev ++ [a]) as

/-- Whether the private buffer holds a store to an address (R406). -/
def bufferHas (s : State) (w : Wave) (a n : Nat) : Bool :=
  w.quantum.heldTx.any fun no =>
    match s.txs.find? no with
    | some t => t.accs.any fun x => x.pa < a + n && a < x.pa + x.n
    | none => false

/-- Issue of an atomic, reduction or binned request (R198 to R200). -/
def atomicIssue (s : State) (c : Iss) (o : Ops) (m : MMod) (i : Instr) (kind : TxKind) (align : Nat) (returns : Bool)
    (stores : Bool) (data data2 : Nat → Word) (dst dst2 : Opd) : Res :=
  let sel := selOf s c o
  let once := onceFor i
  let xs := (actLanes once sel).map fun l => (l, readSrc s c.w o .a b64 l)
  let scope := scopeOf o m
  let rec_ := recMode s c.w != 0
  let atomic := rec_ && returns && (match kind with | .bread => false | _ => true)
  let stc := if stores then stcScopes scope else []
  let paOf := fun (x : Nat × Word) => match lookIn (coreTlb s c.key) s (dieOf c.key) c.w.ctx x.2 .both with | .hit p => p | _ => 2 ^ 60
  if atomic && (xs.any fun x => bufferHas s c.w (paOf x) m.ty.bytes) && mustWait s c then holdToRound s c
  else if atomic && !xs.isEmpty && c.w.quantum.redo.isEmpty && s.logStalls (dieOf c.key) (recMode s c.w) then .walk s
  else
    memIssue s c
      { o, once, n := m.ty.bytes, align, need := if stores then .both else .read, atomic := true, isStore := stores,
        ldc := returns, stc, xs }
      fun s ok =>
        let s := if returns then zeroRest s c o dst sel else s
        if ok.isEmpty then idleFor s c returns (returns && xs.isEmpty) (if xs.isEmpty then stc else [])
        else
          let (s, sample) := sampleOf s c xs ok
          let accs := ok.map fun x =>
            { lane := x.1, va := x.2.1, pa := x.2.2, n := if align = 32 then 32 else m.ty.bytes, data := data x.1,
              data2 := data2 x.1 }
          let (s, accs) := if atomic then (recordAll s c kind m.ty [] accs).getD (s, accs) else (s, accs)
          launchTx s c
            { baseTx c kind scope m.ty sel with
              dst, dst2, scalar := once, ldc := returns, owed := stc, sample, accs, held := rec_ && stores && !atomic }

/-- The shared meaning of AADD to AXOR. -/
def atomicOp (i : Instr) (op : ROp) (o : Ops) (m : MMod) (s : State) : Host.Outcome State Fault Refusal :=
  s.issue i fun s c =>
    let d := fun l => readSrc s c.w o .b (mtyV m.ty) l
    atomicIssue s c o m i (.atomic op) m.ty.bytes true true d (fun _ => 0) o.d .zero

/-- The shared meaning of the reductions: an atomic that returns nothing. -/
def reduceOp (i : Instr) (op : ROp) (o : Ops) (m : MMod) (s : State) : Host.Outcome State Fault Refusal :=
  s.issue i fun s c =>
    let d := fun l => readSrc s c.w o .b (mtyV m.ty) l
    atomicIssue s c o m i (.reduce op) m.ty.bytes false true d (fun _ => 0) .zero .zero

def execAadd (o : Ops) (m : MMod) (s : State) : Host.Outcome State Fault Refusal := atomicOp (.aadd o m) .add o m s
def execAmin (o : Ops) (m : MMod) (s : State) : Host.Outcome State Fault Refusal := atomicOp (.amin o m) .min o m s
def execAmax (o : Ops) (m : MMod) (s : State) : Host.Outcome State Fault Refusal := atomicOp (.amax o m) .max o m s
def execAand (o : Ops) (m : MMod) (s : State) : Host.Outcome State Fault Refusal := atomicOp (.aand o m) .and o m s
def execAor (o : Ops) (m : MMod) (s : State) : Host.Outcome State Fault Refusal := atomicOp (.aor o m) .or o m s
def execAxor (o : Ops) (m : MMod) (s : State) : Host.Outcome State Fault Refusal := atomicOp (.axor o m) .xor o m s

/-- AEXCH (R198): memory takes the operand. -/
def execAexch (o : Ops) (m : MMod) (s : State) : Host.Outcome State Fault Refusal :=
  s.issue (.aexch o m) fun s c =>
    let d := fun l => readSrc s c.w o .b (mtyV m.ty) l
    atomicIssue s c o m (.aexch o m) .exch m.ty.bytes true true d (fun _ => 0) o.d .zero

/-- ACAS (R199): b is the expected value and receives the old one, d the success bit. -/
def execAcas (o : Ops) (m : MMod) (s : State) : Host.Outcome State Fault Refusal :=
  s.issue (.acas o m) fun s c =>
    let want := fun l => readOpd s c.w o.b (mtyV m.ty) l
    let new := fun l => readSrc s c.w o .c (mtyV m.ty) l
    atomicIssue s c o m (.acas o m) .cas m.ty.bytes true true want new o.d o.b

def execRedadd (o : Ops) (m : MMod) (s : State) : Host.Outcome State Fault Refusal := reduceOp (.redadd o m) .add o m s
def execRedmin (o : Ops) (m : MMod) (s : State) : Host.Outcome State Fault Refusal := reduceOp (.redmin o m) .min o m s
def execRedmax (o : Ops) (m : MMod) (s : State) : Host.Outcome State Fault Refusal := reduceOp (.redmax o m) .max o m s
def execRedand (o : Ops) (m : MMod) (s : State) : Host.Outcome State Fault Refusal := reduceOp (.redand o m) .and o m s
def execRedor (o : Ops) (m : MMod) (s : State) : Host.Outcome State Fault Refusal := reduceOp (.redor o m) .or o m s
def execRedxor (o : Ops) (m : MMod) (s : State) : Host.Outcome State Fault Refusal := reduceOp (.redxor o m) .xor o m s

/-- BADD (R200): one contribution to a 32-byte cell. -/
def execBadd (o : Ops) (m : MMod) (s : State) : Host.Outcome State Fault Refusal :=
  s.issue (.badd o m) fun s c =>
    let d := fun l => readSrc s c.w o .b (mtyV m.ty) l
    atomicIssue s c o m (.badd o m) .badd 32 false true d (fun _ => 0) .zero .zero

/-- BREAD (R200): the total of a cell. -/
def execBread (o : Ops) (m : MMod) (s : State) : Host.Outcome State Fault Refusal :=
  s.issue (.bread o m) fun s c =>
    atomicIssue s c o m (.bread o m) .bread 32 true false (fun _ => 0) (fun _ => 0) o.d .zero

/-! ### Engine commands (R193, R201, R205 to R209) -/

/-- The first of a run of scalar registers. -/
def firstOf (o : Opd) : Nat := match o with | .s n => n.val | _ => 0

/-- n scalar registers from the one an operand names. -/
def scalarRun (s : State) (w : Wave) (o : Opd) (n : Nat) : List Word :=
  (List.range n).map fun i => w.sread s.epoch (firstOf o + i)

/-- The tensor table base of an issuer (R129, R355): its launch's; a control core has no launch, and its table
addresses lie outside the address space, so that its tensor-table commands end FAULT. -/
def tnbaseOf (s : State) (c : Iss) : Nat := if isCtl c.key then 2 ^ 56 else (s.launch c.w.launch).tnbase

/-- A command of the issuing group, with the sequence number that its issue makes (R140). -/
def baseCmd (s : State) (c : Iss) (kind : CmdKind) (words : List Word) : Cmd :=
  { kind, wave := c.key, serial := c.w.serial, ctx := c.w.ctx, core := coreOf c.key, launch := c.w.launch,
    seta := c.seta, setb := c.setb, pc := c.pc, seq := c.w.seq + 1, words, tnbase := tnbaseOf s c,
    held := recMode s c.w != 0 }

/-- A command issues once for its group when a lane is selected (R193): the sequence number advances, ENGC and the
flags rise. -/
def launchCmd (s : State) (c : Iss) (x : Cmd) : Nat × State :=
  let (no, s) := s.takeNo
  (no, { s with cmds := s.cmds.set no x }.updWave c.key fun w =>
    let w := { w with seq := w.seq + 1, engc := w.engc + 1 }
    let w := if x.held then { w with quantum := { w.quantum with heldCmd := w.quantum.heldCmd ++ [no] } } else w
    w.raise x.seta x.setb)

/-- The stall reason of an engine command that is held (R401): ENGC full, else its queue, credits or walk entries. -/
def engineWhy (c : Iss) : Nat := if c.w.engc ≥ 255 then 7 else 8

/-- The shared meaning of a gather or scatter (R201). -/
def gatherOp (kind : CmdKind) (i : Instr) (o : Ops) (m : MMod) (s : State) : Host.Outcome State Fault Refusal :=
  s.issue i fun s c =>
    if selOf s c o == 0 then .done (idleFor s c true false [])
    else if c.w.engc ≥ 255 || (s.core (coreOf c.key)).credits ≥ 16 then .hold s false (engineWhy c)
    else
      let x := { baseCmd s c kind (scalarRun s c.w o.a 4) with
        scope := scopeOf o m, ty := m.ty, count := (readSrc s c.w o .b b64 0).toNat }
      .done ((launchCmd s c x).2.updCore (coreOf c.key) fun k => { k with credits := k.credits + 1 })

def execGath (o : Ops) (m : MMod) (s : State) : Host.Outcome State Fault Refusal := gatherOp .gath (.gath o m) o m s
def execScat (o : Ops) (m : MMod) (s : State) : Host.Outcome State Fault Refusal := gatherOp .scat (.scat o m) o m s
def execScatr (o : Ops) (m : MMod) (s : State) : Host.Outcome State Fault Refusal := gatherOp .scatr (.scatr o m) o m s

/-- WAITC (R202). -/
def execWaitc (o : Ops) (ctr : Counter) (s : State) : Host.Outcome State Fault Refusal :=
  s.issue (.waitc o ctr) fun s c =>
    if c.w.counter ctr ≤ (readSrc s c.w o .a b64 0).toNat then .done s else .hold s true 2

/-- The wake of a leashed group, or its TIMEOUT, ends its WAITU (R204): it goes on at the next word, or, in a save
routine, its stop point becomes that word (R388). -/
def wakeLeashed (s : State) (key : Nat) (r : Reg) (value : Option Word) : State :=
  s.updWave key fun w =>
    let w := match value with
      | some v =>
        let v := if r.wide then v else BitVec.ofNat 64 (v.toNat % 2 ^ 32)
        match r.dst with
        | .s n => w.swrite n.val v
        | .v n => (lanesOf r.sel).foldl (fun (w : Wave) l => w.vwrite n.val l v) w
        | _ => w
      | none => w
    let w := match r.status with
      | some p => (lanesOf r.sel).foldl (fun (w : Wave) l => w.pwrite p.val l value.isSome) w
      | none => w
    match w.save with
    | .saving _ => { (w.mapLanes r.lanes fun _ l =>
        { l with stop := l.stop.map fun p => (p.1 + BitVec.ofNat 64 (8 * r.k), p.2) }) with leash := none }
    | .none => { (w.stepLanes r.lanes r.k) with leash := none }

/-- WAITU (R203, R204). Z = 1 zeroes the destination of the lanes that are not selected as the word issues (R211). -/
def execWaitu (o : Ops) (cmp : LCmp) (wide : Bool) (st : Option (Fin 15)) (s : State) :
    Host.Outcome State Fault Refusal :=
  s.issue (.waitu o cmp wide st) fun s c =>
    let sel := selOf s c o
    let va := readSrc s c.w o .a b64 0
    let n := if wide then 8 else 4
    if sel == 0 then .done (zeroRest s c o o.d sel)
    else if c.w.leash.isSome then .hold s false 19
    else if bits va 63 56 != 0 then .trap .vaRange sel va 0
    else if va.toNat % n != 0 then .trap .misaligned sel va 0
    else
      match gate s c.key c.w .read [(lowest sel, va)] with
      | .stop t _ v => .trap t sel (if t == .memUncorr then v else 0) 0
      | .wait s' => .walk s'
      | .go ok park =>
        match ok.head? with
        | none => .moved (parkLanes s c.key (dieOf c.key) .read c.pc park (some c.mask))
        | some (_, _, pa) =>
          if !State.waitable pa || unmapped s pa then .trap .leashTarget sel 0 0
          else if mapWidthBad false pa n then .trap .misaligned sel va 0
          else if mustWait s c then holdToRound s c
          else
            let b := readSrc s c.w o .b b64 0
            let b := if wide then b else BitVec.ofNat 64 (b.toNat % 2 ^ 32)
            let units := min (readE s c.w o b64 0).toNat (2 ^ 20)
            let reg := fun (tok : Nat) (since : Nat) =>
              ({ token := tok, cmp, wide, pa, operand := b, lanes := c.mask, k := c.k, dst := o.d, status := st, sel, units,
                 since } : Reg)
            let fresh := fun (s : State) =>
              let s := zeroRest s c o o.d sel
              let tok := s.fresh % 2 ^ 32
              let e : LeashEntry :=
                { st := .waiting, cmp, wide, pa, operand := b, wave := c.key, serial := c.w.serial, ctx := c.w.ctx,
                  token := tok, order := s.fresh }
              (s.post (.register c.key c.w.serial e)).updWave c.key fun w =>
                Wave.startWait { w with leash := some (reg tok (s.now (clockOf c.key))) } c.mask .leash
            match c.w.adopted with
            | none => .moved (fresh s)
            | some a =>
              if a.cmp = cmp && a.wide = wide && a.pa = pa && a.operand = b then
                let r := { reg a.token a.since with units := a.units, adopted := true, cancelled := a.cancelled }
                let s := (zeroRest s c o o.d sel).updWave c.key fun w => Wave.startWait { w with adopted := none, leash := some r } c.mask .leash
                .moved (if a.woken.isSome || a.expired then wakeLeashed s c.key r a.woken else s)
              else
                let s := s.post (.cancel c.key c.w.serial a.token a.pa)
                .moved (fresh (s.updWave c.key fun w => { w with adopted := none }))

/-- The copy engine of an issuer (R135). -/
def copyEngine (key : Nat) : Nat :=
  8 * dieOf key + (if isCtl key then key % 2 * 4 else coreOf key % 8)

def copyQueue (s : State) (e : Nat) : List Nat := (s.die (e / 8)).copyq.getD (e % 8) []

/-- COPY (R205). -/
def execCopy (o : Ops) (s : State) : Host.Outcome State Fault Refusal :=
  s.issue (.copy o) fun s c =>
    let e := copyEngine c.key
    if selOf s c o == 0 then .done (idleFor s c true false [])
    else if c.w.engc ≥ 255 || (copyQueue s e).length ≥ 64 then .hold s false (engineWhy c)
    else
      let (no, s) := launchCmd s c { baseCmd s c .copy (scalarRun s c.w o.a 4) with eng := e }
      .done (s.updDie (e / 8) fun d => { d with copyq := d.copyq.set (e % 8) (d.copyq.getD (e % 8) [] ++ [no]) })

/-- The commands of a core's stream engine, the running one first (R142). -/
def streamQueue (s : State) (core : Nat) (eng : Bool) : List Nat :=
  if eng then (s.core core).stream1 else (s.core core).stream0
def setStreamQueue (s : State) (core : Nat) (eng : Bool) (q : List Nat) : State :=
  s.updCore core fun k => if eng then { k with stream1 := q } else { k with stream0 := q }

/-- STREAM (R205): one stream runs and four wait. -/
def execStream (o : Ops) (eng : Bool) (s : State) : Host.Outcome State Fault Refusal :=
  s.issue (.stream o eng) fun s c =>
    let core := coreOf c.key
    if selOf s c o == 0 then .done (idleFor s c true false [])
    else if c.w.engc ≥ 255 || (streamQueue s core eng).length ≥ 5 then .hold s false (engineWhy c)
    else
      let x := { baseCmd s c .stream [readSrc s c.w o .a b64 0] with eng := 2 * core + eng.toNat }
      let (no, s) := launchCmd s c x
      .done (setStreamQueue s core eng (streamQueue s core eng ++ [no]))

/-- TNSET (R206). -/
def execTnset (o : Ops) (tid : BitVec 8) (s : State) : Host.Outcome State Fault Refusal :=
  s.issue (.tnset o tid) fun s c =>
    if selOf s c o == 0 then .done (idleFor s c true false [])
    else if c.w.engc ≥ 255 then .hold s false 7
    else .done (launchCmd s c { baseCmd s c .tnset (scalarRun s c.w o.a 8) with tid := tid.toNat }).2

/-- TNGET (R206): its eight destinations are outstanding until it completes (R192). -/
def execTnget (o : Ops) (tid : BitVec 8) (s : State) : Host.Outcome State Fault Refusal :=
  s.issue (.tnget o tid) fun s c =>
    if selOf s c o == 0 then .done (idleFor s c true false [])
    else if c.w.engc ≥ 255 then .hold s false 7
    else
      let (no, s) := launchCmd s c { baseCmd s c .tnget [] with tid := tid.toNat, dst := o.d }
      .done (s.updWave c.key fun w =>
        { w with outs := w.outs ++ (List.range 8).map fun i => ({ tx := no, reg := Wave.skey (firstOf o.d + i) } : Out) })

/-! ### Tile-table commands (R207, R208) -/

/-- The stream engines that fill and drain the tiles of a core: its own, and those of its follower in a pair. -/
def tileEngines (s : State) (core : Nat) : List (Nat × Bool) :=
  ([core, core + 1].filter fun c => tileHome s c == core).flatMap fun c => [(c, false), (c, true)]

/-- The running stream that drains through a slot of a core's tile table (R145). -/
def drainStream (s : State) (core tb : Nat) : Option Nat :=
  (tileEngines s core).findSome? fun e =>
    match (streamQueue s e.1 e.2).head? with
    | none => none
    | some no =>
      match s.cmds.find? no with
      | some x =>
        let w := wordAt x.words 1
        if x.st == .running && bit w 44 && bits w 55 50 ≤ tb && tb ≤ bits w 55 50 + bits w 49 45 then some no else none
      | none => none

/-- Whether a drain stream has marked a slot READY as that of its present tile, and waits for its submit (R145). -/
def marked (x : Cmd) (tb : Nat) : Bool :=
  let w := wordAt x.words 1
  x.phase == 1 && bits w 55 50 + x.pos % (bits w 49 45 + 1) == tb

/-- The shared frame of a tile-table command: an unbound tile traps, and a group with no selected lane does nothing but
zero its destination under Z = 1 (R211). -/
def tileCmd (i : Instr) (o : Ops) (tb : BitVec 6) (s : State) (k : State → Iss → Nat → TileEnt → Res) :
    Host.Outcome State Fault Refusal :=
  s.issue i fun s c =>
    let core := (s.team c.w.team).core
    match tileAt s core tb.toNat with
    | none => .stop c .tileUnbound
    | some t => if selOf s c o == 0 then .done (zeroRest s c o o.d 0) else k s c core t

/-- A tile-table command that changes the table has its turn in the core cycle: releases first, then the others, each by
ascending slice and wave slot, and fill acceptances last; one that comes late is held (R144, R208). -/
def inTableTurn (s : State) (c : Iss) (core : Nat) (release : Bool) (k : State → Res) : Res :=
  let place := placeOf (if release then 0 else 1) c.key
  if s.inTurn core (s.core core).tableAt place then k (s.tableTurn core place) else .hold s true 19

/-- TTRDY (R207): EMPTY to READY. -/
def execTtrdy (o : Ops) (tb : BitVec 6) (s : State) : Host.Outcome State Fault Refusal :=
  tileCmd (.ttrdy o tb) o tb s fun s c core t =>
    if t.st = .empty then
      inTableTurn s c core false fun s => .done (setTile s core tb.toNat { t with st := .ready, gen := t.gen + 1 })
    else .hold s true 9

/-- A release of the slot that a drain stream has marked READY: the tile counts as submitted, and is skipped (R208). -/
def skipTile (x : Cmd) (tb : Nat) : Cmd :=
  if marked x tb then { x with submits := (64 + tb) :: x.submits.filter (· != tb) } else x

/-- TTREL (R207, R208): READY to EMPTY. -/
def execTtrel (o : Ops) (tb : BitVec 6) (s : State) : Host.Outcome State Fault Refusal :=
  tileCmd (.ttrel o tb) o tb s fun s c core t =>
    if t.st = .ready then
      inTableTurn s c core true fun s =>
        let s := setTile s core tb.toNat { t with st := .empty }
        .done (match drainStream s core tb.toNat with
          | some no => { s with cmds := s.cmds.upd no fun x => skipTile x tb.toNat }
          | none => s)
    else .hold s true 9

/-- A submit of a slot is recorded once (R145). -/
def submitTile (x : Cmd) (tb : Nat) : Cmd :=
  if x.submits.contains tb || x.submits.contains (64 + tb) then x else { x with submits := x.submits ++ [tb] }

/-- TTSUB (R207, R145): a submit of a slot that a running drain stream owns, recorded once. -/
def execTtsub (o : Ops) (tb : BitVec 6) (s : State) : Host.Outcome State Fault Refusal :=
  tileCmd (.ttsub o tb) o tb s fun s c core _ =>
    inTableTurn s c core false fun s =>
      match drainStream s core tb.toNat with
      | none => .done s
      | some no => .done { s with cmds := s.cmds.upd no fun x => submitTile x tb.toNat }

/-- TTSTOP (R207, R147): the engine's current stream will end STOPPED. -/
def execTtstop (o : Ops) (eng : Bool) (s : State) : Host.Outcome State Fault Refusal :=
  s.issue (.ttstop o eng) fun s c =>
    if selOf s c o == 0 then .done s
    else
      match (streamQueue s (coreOf c.key) eng).head? with
      | none => .done s
      | some no => .done { s with cmds := s.cmds.upd no fun x => { x with stopped := true } }

/-- TTGET (R207): the entry of R104, uniform over the lanes. -/
def execTtget (o : Ops) (tb : BitVec 6) (s : State) : Host.Outcome State Fault Refusal :=
  tileCmd (.ttget o tb) o tb s fun s c _ t =>
    let sel := selOf s c o
    .done ((zeroRest s c o o.d sel).updWave c.key fun w =>
      match o.d with
      | .s n => w.swrite n.val t.word
      | d => (lanesOf sel).foldl (fun w l => writeDst w d l t.word) w)

/-! ### TRAV (R209) -/

/-- TRAV starts one walk for each selected lane; it is never held for its walks. -/
def execTrav (o : Ops) (s : State) : Host.Outcome State Fault Refusal :=
  s.issue (.trav o) fun s c =>
    let sel := selOf s c o
    if sel == 0 then .done (idleFor s c true false [])
    else if c.w.engc ≥ 255 then .hold s false 7
    else
      let desc := readSrc s c.w o .c b64 0
      let lanes := lanesOf sel
      let first := 8 * dieOf c.key + (if isCtl c.key then c.key % 2 * 4 else coreOf c.key % 8)
      let x := { baseCmd s c .trav [desc] with walks := lanes.length, eng := first }
      let (no, s') := launchCmd s c x
      .done (lanes.foldl (fun t l =>
        { t with walks := t.walks.set t.fresh
                   { cmd := no, lane := l, ctx := c.w.ctx, p := readSrc s c.w o .a b64 l, k := readSrc s c.w o .b b64 l,
                     retr := first },
                 fresh := t.fresh + 1 }) s')

end Sys2Proof.Machine
end

