-- ==== Sys2Proof/Machine/Fetch.lean ====
section
/-! DEFINITION. What a lane group's next word is: instruction fetch (10_encoding.md R158, 03_translation.md R49, R54),
the clause rules (R160, R161, R168) and decoding in the order of R173, and the passing of a clause header. -/

namespace Sys2Proof.Machine

/-- How the fetch of a word ends. -/
inductive Fetched
  | word (s : State) (w : Word)
  /-- walks run, or the lanes parked -/
  | not (s : State)
  | trap (t : Trap) (va : Word)
deriving DecidableEq, Repr

/-- The word at an address, fetched for a lane group (R54): a parking fault parks every lane that is at the group's
program counter and does not wait. -/
def fetchAt (s : State) (key : Nat) (w : Wave) (g : Mask) (pc va : Word) : Fetched :=
  let l := lowest g
  match gate s key w .fetch [(l, va)] with
  | .stop t _ va' => .trap t (if t == .vaRange || t == .memUncorr then va' else 0)
  | .wait s' => .not s'
  | .go ok park =>
    match ok.head? with
    | some (_, _, pa) =>
      if pa % 8 != 0 then .trap .misaligned va
      else
        match winGate s pa with
        | (s, false) => .not s
        | (s, true) =>
          match physRead s pa 8 with
          | .ok x => .word (s.layerRead pa 8) (BitVec.ofNat 64 x)
          | .unmapped => .trap .unmappedPhys 0
          | .bad => .trap .memUncorr va
    | none =>
      let here := g ||| w.lanesWhere fun x => x.st == .active && x.pc == pc && !(Wave.blocked x)
      let s := parkLanes s key (dieOf key) .fetch pc park (some here)
      .not (s.updWave key fun w => { w with xfault := w.xfault.filter fun q => !here.getLsbD (q.1 % 64) })

/-- What a fetch leaves behind when its physical address fails (R28, R34). -/
def fetchLog (s : State) (key : Nat) (w : Wave) (g : Mask) (va : Word) : State :=
  match gate s key w .fetch [(lowest g, va)] with
  | .go ((_, _, pa) :: _) _ =>
    match physRead s pa 8 with
    | .unmapped => s.logUnmapped pa (dieOf key)
    | .bad => s.logBad pa 8
    | .ok _ => s
  | _ => s

/-- The clause of a lane group: a lane that knows it tells for the group. -/
def clauseOf (w : Wave) (g : Mask) : Clause :=
  (((lanesOf g).map fun l => (w.lane l).cl).find? fun c => c != .resume).getD .resume

/-- The clause around a stop point: the nearest header before it, up to 15 words back (R160, R161). Words that cannot
be read end the search. -/
def findClause (s : State) (key : Nat) (w : Wave) (pc : Word) (k : Nat) : Nat → State × Clause
  | 0 => (s, .header)
  | n + 1 =>
    let va := pc - BitVec.ofNat 64 (8 * k)
    match xlNow s (dieOf key) w.ctx va .fetch with
    | (s, .error _) => (s, .header)
    | (s, .ok pa) =>
      match physRead s pa 8 with
      | .ok x =>
        let h := BitVec.ofNat 64 x
        if bits h 63 62 = 3 then
          match readHeader h with
          | some q =>
            if k ≤ q.len.toNat then (s, .inside (va + BitVec.ofNat 64 (8 * q.len.toNat + 8)) q.seta q.setb) else (s, .header)
          | none => (s, .header)
        else findClause s key w pc (k + 1) n
      | _ => (s, .header)

/-- Whether the word before a stop point is a leading word, so that the stop point names a full word it leads
(R346). -/
def afterPfx (s : State) (key : Nat) (w : Wave) (pc : Word) : Bool :=
  match xlNow s (dieOf key) w.ctx (pc - 8) .fetch with
  | (_, .ok pa) => match physRead s pa 8 with | .ok x => x / 2 ^ 62 == 2 | _ => false
  | _ => false

/-- What stands at a lane group's program counter. -/
inductive Peek
  | instr (s : State) (c : Cur) (i : Instr)
  | not (s : State)
  | undef
deriving DecidableEq, Repr

/-- The trap of a word that does not reach execution: fetch faults and steps 1 to 4 of R173. Walks that ended in a fault for
the group's lanes are no results that last (R51). -/
def wordTrap (s : State) (key : Nat) (g : Mask) (pc : Word) (t : Trap) (value : Word) : Peek :=
  let s := s.updWave key fun w => { w with xfault := w.xfault.filter fun q => !g.getLsbD (q.1 % 64) }
  .not ({ s.takeTrap key t 0 [(g, g, pc, value)] with issued := true })

/-- The lanes of a group that may not stand at its word (R161): those that a transfer or the end of a clause brought to a
word that is no header, and those that fell through to a header inside their clause. -/
def strayLanes (w : Wave) (g : Mask) (header : Bool) : Mask :=
  g &&& w.lanesWhere fun l => match l.cl with
    | .header => !header
    | .inside _ _ _ => header
    | .resume => false

/-- The word at a program counter once its clause is known (R173). -/
def peekIn (s : State) (key : Nat) (w : Wave) (g : Mask) (pc : Word) (cl : Clause) (x : Word) : Peek :=
  let bad := wordTrap s key g pc .illegalInstruction 0
  let go := fun (s : State) (next : Word) =>
    let cur : Cur := match cl with
      | .inside _ a b => { wave := key, mask := g, pc, seta := a, setb := b }
      | _ => { wave := key, mask := g, pc }
    match decode x next with
    | .ok i => Peek.instr s cur i
    | .error .illegalInstruction => wordTrap s key g pc .illegalInstruction 0
    | .error .illegalOperand =>
      wordTrap s key g pc (if (unchecked x next).any fun i => early i (isCtl key) then .illegalInstruction else .illegalOperand) 0
  match cl with
  | .inside stop _ _ =>
    if bits x 63 62 = 3 then bad
    else if bits x 63 62 = 2 then
      if pc + 8 = stop then bad
      else
        match fetchAt s key w g pc (pc + 8) with
        | .word s y => go s y
        | .not s => .not s
        | .trap t va => wordTrap (fetchLog s key w g (pc + 8)) key g pc t va
    else go s 0
  | _ => if bits x 63 62 = 3 then go s 0 else bad

/-- What a lane group of a wave would issue next. -/
def peek (s : State) (key : Nat) (w : Wave) (g : Mask) : Peek :=
  let pc := (w.lane (lowest g)).pc
  match fetchAt s key w g pc pc with
  | .not s => .not s
  | .trap t va => wordTrap (fetchLog s key w g pc) key g pc t va
  | .word s x =>
    let stray := strayLanes w g (bits x 63 62 = 3)
    if stray != 0 then .not ({ s.takeTrap key .illegalInstruction 0 [(stray, g, pc, 0)] with issued := true })
    else match clauseOf w g with
    | .resume =>
      match findClause s key w pc 1 15 with
      | (s, .inside stop a b) =>
        if afterPfx s key w pc then .undef
        else
          let cl := Clause.inside stop a b
          let s := s.updWave key fun w => w.mapLanes g fun _ l => { l with cl }
          peekIn s key w g pc cl x
      | (s, _) => peekIn s key w g pc .header x
    | cl => peekIn s key w g pc cl x

/-! ### Headers and unassigned words -/

/-- The flag-setting words of a clause, read from its words as they stand (R153, R161). -/
def clauseSets (s : State) (key : Nat) (w : Wave) (pc : Word) (len : Nat) : Nat :=
  ((List.range len).filter fun k =>
    match xlNow s (dieOf key) w.ctx (pc + BitVec.ofNat 64 (8 * k + 8)) .fetch with
    | (_, .ok pa) =>
      match physRead s pa 8 with
      | .ok x => x / 2 ^ 62 == 0 && flagOps.contains (x / 2 ^ 52 % 1024)
      | _ => false
    | _ => false).length

/-- The flag-setting words that the lane groups inside clauses have still to issue to a flag (R153): a group that resumed
is counted once its clause is known. -/
def setsToCome (s : State) (key : Nat) (w : Wave) (n : Fin 12) : Nat :=
  (w.groups.map fun g =>
    match clauseOf w g with
    | .inside stop a b =>
      if a == some n || b == some n then
        let pc := (w.lane (lowest g)).pc
        clauseSets s key w (pc - 8) ((stop - pc).toNat / 8 % 16)
      else 0
    | _ => 0).sum

/-- Whether a clause would take a flag's count above 255, the words counted that other lane groups are past the header of
(R153). -/
def flagFull (s : State) (key : Nat) (w : Wave) (pc : Word) (h : Header) : Bool :=
  [h.seta, h.setb].any fun f =>
    match f with
    | some n => (w.flags[n.val]?).getD 0 + setsToCome s key w n + clauseSets s key w pc h.len.toNat > 255
    | none => false

/-- Comparators of kind 0 that a passed header matches count a match, and a breakpoint among them stops the group
before the clause's first word (R397). -/
def headerMatch (s : State) (c : Iss) : State :=
  let d := dieOf c.key
  if isCtl c.key || bits (s.reg d 0x5000) 11 0 ≠ c.w.ctx then s
  else
    let hits := (List.range 8).filter fun k =>
      let ctl := s.reg d (0x5050 + 32 * k)
      bit ctl 63 && bits ctl 61 60 == 0 && bits (s.reg d (0x5040 + 32 * k)) 55 0 ≤ c.pc.toNat
        && c.pc.toNat ≤ bits (s.reg d (0x5048 + 32 * k)) 55 0
    let bp := bit (s.reg d 0x5000) 62 && hits.any fun k => bit (s.reg d (0x5050 + 32 * k)) 62
    let s := hits.foldl (fun s k => s.note d (2 + k)) s
    if bp then s.takeTrap c.key .breakpoint 0 [(c.mask, c.mask, c.pc, 0)] else s

/-- Whether a wave of a team to be saved may enter its routine: it is in none, no trap of its team waits, it is not
halted, and no lane waits for a reply that its stop point could not stand for. -/
def mayEnter (s : State) (key : Nat) (w : Wave) (t : Team) : Bool :=
  t.save != .none && w.kind == .team && w.save == .none && !s.halts (dieOf key) w.ctx && !w.stopped
    && (t.waves.all fun p => (s.wave p.2).traps.isEmpty)
    && w.lanes.all fun l => match l.wait with | .reply _ | .suspend _ => false | _ => true

/-- A group of a wave that may enter a save routine goes no further than a safe point of its kernel (R161, R387). -/
def saveHolds (s : State) (c : Iss) (h : Header) : Bool :=
  let k := (s.launch c.w.launch).kernel
  h.sp && recMode s c.w == 0 && mayEnter s c.key c.w (s.team c.w.team)
    && k.safe.any fun r => BitVec.ofNat 64 (k.va + r.1) == c.pc

/-- Whether a flag that a header names is not clear (R161). -/
def headerWaits (w : Wave) (h : Header) : Bool := (List.range 12).any fun n => h.wait.getLsbD n && w.flag n

/-- CLAUSE_HEADER_PASS (R161): a header waits until every flag it names reads clear; passing it takes no issue
cycle. -/
def execClauseHeaderPass (h : Header) (s : State) : Host.Outcome State Fault Refusal :=
  match s.issuer (.clauseHeaderPass h) with
  | none => .refused .noIssuer
  | some c =>
    if s.replay.struck.contains c.key then .next (s.updWave c.key fun w => w.startWait c.mask (.held false 18))
    else if c.w.quantum.ended || headerWaits c.w h || flagFull s c.key c.w c.pc h then
      let why := if headerWaits c.w h then 1 else if flagFull s c.key c.w c.pc h then 7 else 18
      .next (s.updWave c.key fun w => { w.startWait c.mask (.held (!c.w.quantum.ended) why) with
        quantum := { w.quantum with ended := w.quantum.ended || s.quantumOf c.w != 0 } })
    else if saveHolds s c h then .next (s.updWave c.key fun w => w.startWait c.mask (.held true 17))
    else
      let stop := c.pc + BitVec.ofNat 64 (8 * h.len.toNat + 8)
      let s := s.updWave c.key fun w =>
        (w.stepLanes c.mask 1).mapLanes c.mask fun _ l => { l with cl := .inside stop h.seta h.setb }
      .next { headerMatch s c with issued := true }

/-- UNASSIGNED_OPCODE (R172, R174): the word traps precisely. -/
def execUnassignedOpcode (x : Word) (s : State) : Host.Outcome State Fault Refusal :=
  match s.issuer (.unassignedOpcode x) with
  | none => .refused .noIssuer
  | some c => s.settle c (Res.stop c .illegalInstruction)

end Sys2Proof.Machine
end

