-- ==== Sys2Proof/Machine/Teams.lean ====
section
/-! DEFINITION. What happens to a wave as lanes wait together or leave: REJOIN (17_isa_control.md R328, R329), EXIT and
the end of waves and teams (R330), and barriers (R331, R332). -/

namespace Sys2Proof.Machine

/-! ### REJOIN (R328, R329) -/

/-- The mask snapshot of a lane that waits at a REJOIN. -/
def rejoinMask (l : Lane) : Option Mask := match l.wait with | .rejoin m => some m | _ => none

/-- The lanes that wait at a REJOIN at an address. -/
def rejoinAt (w : Wave) (pc : Word) : Mask :=
  w.lanesWhere fun l => l.st == .active && l.pc == pc && (rejoinMask l).isSome

/-- The satisfied lanes at a REJOIN are released together, with the least dd among them less one (R328). -/
def rejoinRelease (w : Wave) (pc : Word) : Wave :=
  let arr := rejoinAt w pc
  let gone := w.lanesWhere fun l => l.st == .exited
  let sat := w.lanesWhere fun l =>
    l.st == .active && l.pc == pc && (match rejoinMask l with | some m => m &&& ~~~(arr ||| gone) == 0 | none => false)
  if sat == 0 then w
  else
    let d := (lanesOf sat).foldl (fun d l => min d (w.lane l).dd.toNat) 255
    (w.mapLanes sat fun _ l => { l with dd := BitVec.ofNat 8 (d - 1) }).stepLanes sat 1

/-- The groups that wait at REJOINs: lanes with their address and mask, by lowest lane. -/
def rejoinGroups (w : Wave) : List (Mask × Mask × Word × Word) :=
  (List.range w.lanes.length).filterMap fun i =>
    let a := w.lane i
    match rejoinMask a with
    | none => none
    | some m =>
      let g := w.lanesWhere fun b => b.st == .active && b.pc == a.pc && b.dd == a.dd && b.wait == a.wait
      if lowest g == i then some (g, g, a.pc, m) else none

/-- After an arrival or an exit: releases, and REJOIN_CYCLE when every non-exited lane waits unsatisfied (R329). -/
def rejoinTest (s : State) (key : Nat) : State :=
  let w := s.wave key
  let pcs := ((rejoinGroups w).map fun g => g.2.2.1).eraseDups
  let s := if pcs.isEmpty then s else s.updWave key fun w => pcs.foldl rejoinRelease w
  let w := s.wave key
  if w.live != 0 && (lanesOf w.live).all fun l => (rejoinMask (w.lane l)).isSome then
    s.takeTrap key .rejoinCycle 0 (rejoinGroups w)
  else s

/-! ### Barriers (R331, R332) -/

def barOf (t : Team) (i : Nat) : Barrier := (t.bars[i]?).getD {}
def setBar (s : State) (tn i : Nat) (b : Barrier) : State := s.updTeam tn fun t => { t with bars := t.bars.set i b }

/-- The team's waves that hold a non-exited lane: index and number. -/
def liveWaves (s : State) (t : Team) : List (Nat × Nat) := t.waves.filter fun p => (s.wave p.2).live != 0

/-- How many waves of the team hold a non-exited lane; one that has ended in a save routine keeps those it saved
(R331, R391). -/
def heldWaves (s : State) (t : Team) : Nat :=
  (liveWaves s t).length + (t.entered.filter fun wi => (t.waves.find? wi).isNone).length

/-- A release (R332): every lane that waits goes on, at index 4 once its cluster is admitted (R375), and the phase
turns. A lane whose wave is in a save routine goes on from the word after its barrier. -/
def barRelease (s : State) (tn i : Nat) : State :=
  let t := s.team tn
  let s := t.waves.foldl (fun s p => s.updWave p.2 fun w =>
    let m := w.lanesWhere fun l => l.wait == .bar i
    let w := w.mapLanes (w.lanesWhere fun l => l.was == .bar i) fun _ l =>
      { l with was := .none, stop := l.stop.map fun q => (q.1 + 8, q.2) }
    if m == 0 then w
    else if i == 4 then w.mapLanes m fun _ l => { l with wait := .inRound }
    else w.stepLanes m 1) s
  setBar s tn i { phase := !(barOf t i).phase }

/-- The release test (R332): equality of the count with the waves that hold a non-exited lane. At index 4 it sends the
team's arrival to the launch record instead, once. -/
def barTestNow (s : State) (tn i : Nat) : State :=
  let t := s.team tn
  let b := barOf t i
  let n := heldWaves s t
  if n != 0 && b.count == n then
    if i == 4 then
      if b.sent then s
      else
        let a := (s.launch t.launch).record + 0x38
        setBar (s.homeWrite a (bytesOf ((kRead s a 8 + 1) % 2 ^ 64) 8)) tn i { b with sent := true }
    else barRelease s tn i
  else s

/-- The release test as arrivals come: under recording the barriers release at commit rounds (R408). -/
def barTest (s : State) (tn i : Nat) : State :=
  if (s.launch (s.team tn).launch).rec_ != 0 then s else barTestNow s tn i

/-- The arrival test of a wave (R331): it arrives when its LA holds every non-exited lane, once per phase. -/
def barArrive (s : State) (tn i wi : Nat) : State :=
  let t := s.team tn
  let b := barOf t i
  match t.waves.find? wi with
  | none => s
  | some key =>
    let live := (s.wave key).live
    if live != 0 && live &&& ~~~(b.la.getD wi 0) == 0 && !b.mask.getLsbD wi then
      setBar s tn i { b with mask := b.mask ||| BitVec.ofNat 384 (2 ^ wi), count := b.count + 1 }
    else s

/-- Both tests of every barrier of a team, after an exit of one of its waves. -/
def barTests (s : State) (tn wi : Nat) : State :=
  (List.range 5).foldl (fun s i => barTest (barArrive s tn i wi) tn i) s

/-! ### The end of waves and teams (R330) -/

/-- Bytes of a range of a core's pinned SRAM or accumulator memory hold undefined values again (R103, R154). -/
def dropBytes (m : Map Byte) (base size : Nat) : Map Byte := m.filter fun p => !(base ≤ p.1 && p.1 < base + size)

/-- A plane whose tile a team bound matches no more once the team has left (R253). -/
def clearPlane (t : Team) (p : Option Plane) : Option Plane :=
  p.filter fun q => !(q.core == t.core && t.tiles.any fun x => x.tb == q.tb)

/-- Faults that name a unit detach from it (R57). -/
def detach (s : State) (a : Attached) : State :=
  { s with dies := s.dies.map fun p =>
      (p.1, { p.2 with faultWait := p.2.faultWait.filter fun f => f.who != a,
                       faults := p.2.faults.map fun e => { e with who := e.who.filter fun x => x != a } }) }

/-- Faults attached to the array, and to the beam engine, of a core detach. -/
def detachMatrix (s : State) (core : Nat) : State := detach s (.matrix core)
def detachBeam (s : State) (core : Nat) : State := detach s (.beam core)

/-- What a team's parked units wait for is theirs no more: a later team's units are not to be woken for it. -/
def detachTeam (s : State) (tn : Nat) : State :=
  let t := s.team tn
  (if t.pair then [t.core, t.core + 1] else [t.core]).foldl (fun s core =>
    let c := s.core core
    let s := if t.kslots != 0 && c.beam.parked then detachBeam s core else s
    if c.mq.any fun q => q.team == tn && q.parked then detachMatrix s core else s) s

/-- What a team holds on its cores is released: pinned ranges, tiles, accumulator area, matrix operations and walks (R103,
R154, R330; log entry 49). Its tile entries read zero from now on, which their registers are presented with
(R100, R104). -/
def releaseTeam (s : State) (tn : Nat) : State :=
  let t := s.team tn
  let s := detachTeam s tn
  let drop := fun (s : State) (core : Nat) (r : Nat × Nat) =>
    s.updCore core fun c => { c with sram := dropBytes c.sram (128 * r.1) (128 * r.2) }
  let s := t.tiles.foldl (fun s x => drop s t.core (tileRange s t.core x.tb)) (drop s t.core t.scratch)
  let s := s.updCore t.core fun c => { c with tiles := c.tiles.filter fun p => !(t.tiles.any fun x => x.tb == p.1) }
  let s := t.tiles.foldl (fun s x => s.present (State.winPa t.core (0x4000000 + 8 * x.tb))) s
  (if t.pair then [t.core, t.core + 1] else [t.core]).foldl (fun s core =>
    (drop s core (if core == t.core then t.kennel else t.kennel2)).updCore core fun c =>
      { c with acc := dropBytes c.acc t.accBase t.accSize, mq := c.mq.filter fun q => q.team != tn,
               beam := if t.kslots == 0 then c.beam else {},
               active := clearPlane t c.active, shadow := clearPlane t c.shadow }) s

/-- A pre-emption request is finished (R386). -/
def preqDone (s : State) (d : Nat) : State := s.updReg d Off.trPdone (s.reg d Off.trPdone + 1)

/-- A pending save request of a team is finished: the team has ended, or its launch is aborted. -/
def preqEnds (s : State) (t : Team) : State :=
  match t.save with
  | .pending _ d => preqDone s d
  | .none => s

/-- The end of a team: a team of the launch is counted in its record (R355), and a save request on it is finished
(R386). -/
def endTeam (s : State) (tn : Nat) : State :=
  let t := s.team tn
  let s := preqEnds { releaseTeam s tn with teams := s.teams.del tn } t
  if t.slot then
    let n := (s.launch t.launch).ended + 1
    let s := s.updLaunch t.launch fun x => { x with ended := n }
    s.homeWrite ((s.launch t.launch).record + 0x40) (bytesOf n 4)
  else s

/-- A wave that runs a save routine (R388). -/
def inSave (w : Wave) : Bool := match w.save with | .saving _ => true | .none => false

/-- A wave leaves its slice: its rows, entries and slot are free (R157). Its arrivals are withdrawn (R332), but not at
the end of its save routine; a team that is being saved does not end with its last wave (R391). -/
def endWave (s : State) (key : Nat) : State :=
  match s.wave? key with
  | none => s
  | some w =>
    let q := w.quantum
    let s := { s with waves := s.waves.del key,
                      replay := if q.heldTx.isEmpty && q.heldCmd.isEmpty then s.replay
                                else { s.replay with left := s.replay.left ++ [(key, q)] } }
    let s := s.updTeam w.team fun t =>
      { t with waves := t.waves.del w.waveId,
               bars := if inSave w then t.bars else t.bars.map fun b =>
                 let in_ := b.mask.getLsbD w.waveId
                 { b with la := b.la.del w.waveId, count := if in_ then b.count - 1 else b.count,
                          mask := b.mask &&& ~~~(BitVec.ofNat 384 (2 ^ w.waveId)) } }
    match s.teams.find? w.team with
    | none => s
    | some t =>
      if t.waves.isEmpty then if t.saving then s else endTeam s w.team
      else (List.range 5).foldl (fun s i => barTest s w.team i) s

/-- Scoreboard entry e of a team. -/
def scbOf (t : Team) (e : Nat) : Scb := (t.scb[e]?).getD {}
def setScb (s : State) (tn e : Nat) (x : Scb) : State := s.updTeam tn fun t => { t with scb := t.scb.set e x }

/-- A wave index as a bit of an entry's mask; none outside it (R265). -/
def scbBit (x : Scb) (wi : Nat) : Option (BitVec 32) :=
  if x.base.toNat ≤ wi && wi < x.base.toNat + 32 && x.mask.getLsbD (wi - x.base.toNat) then
    some (BitVec.ofNat 32 (2 ^ (wi - x.base.toNat)))
  else none

/-- A wave arrives at an entry once every non-exited lane has reached an MRDY on it (R266). -/
def mrdyTest (s : State) (key : Nat) : State :=
  let w := s.wave key
  (List.range 4).foldl (fun s e =>
    let x := scbOf (s.team w.team) e
    match scbBit x w.waveId with
    | some b =>
      if w.live != 0 && !x.busy && (lanesOf w.live).all fun l => (w.lane l).wait == .mrdy e then
        setScb s w.team e { x with arrived := x.arrived ||| b }
      else s
    | none => s) s

/-- Lanes exit (R330): their outstanding destinations are discarded, and they count as arrived everywhere. -/
def exitLanes (s : State) (key : Nat) (m : Mask) : State :=
  let s := s.updWave key fun w =>
    let w := (w.mapLanes m fun _ l => { l with st := .exited, wait := .none, pend := 0 }).dropHolder m
    { w with outs := w.outs.filter fun o =>
               !((o.reg < 2 ^ 16 || 2 ^ 17 ≤ o.reg) && m.getLsbD (o.reg % 64)),
             xfault := w.xfault.filter fun q => !m.getLsbD (q.1 % 64) }
  let w := s.wave key
  if w.live == 0 then endWave s key
  else if inSave w then rejoinTest s key
  else mrdyTest (rejoinTest (barTests s w.team w.waveId) key) key

end Sys2Proof.Machine
end

