-- ==== Sys2Proof/Machine/Vector.lean ====
section
/-! DEFINITION. The meanings of the vector and scalar arithmetic group and of the paired word (12_isa_vector.md,
10_encoding.md R170 to R172). Each instruction is one element function under a shared driver: lanes and sub-elements
are independent (R214), a scalar form acts once (R165), flags are sticky (R116). -/

namespace Sys2Proof.Machine

/-! ### The driver -/

/-- The lanes that an instruction of the group acts in; a scalar form acts once, as lane 0 (R165). -/
def vecLanes (o : Ops) (sel : Mask) : List Nat :=
  match o.d with
  | .s _ => [0]
  | _ => lanesOf sel

def rndOf (o : Ops) : Rnd := (o.pfx.map Pfx.rnd).getD .rne

/-- How lane l rounds its sub-element i (R117, R119, R121). -/
def rcOf (c : Iss) (o : Ops) (l i : Nat) : Rc :=
  { fz := c.w.fz, mode := rndOf o,
    rand := if rndOf o == .sr then srBits c.w.srseed c.fpc c.w.srcnt l i else 0 }

/-- SRCNT advances after an instruction issued with SR (R119). -/
def stepSr (o : Ops) (w : Wave) : Wave :=
  if rndOf o == .sr then { w with srcnt := BitVec.ofNat 64 ((w.srcnt.toNat + 1) % 2 ^ 48) } else w

/-- What every instruction of the group does once its lanes have written: zeroing, SRCNT. -/
def vecEnd (s : State) (c : Iss) (o : Ops) (w : Wave) : State :=
  s.setWave c.key (stepSr o (zeroDst w o.d (zeroed o c.mask (selOf s c o))))

/-- Lanes write their destination: `f l old` gives lane l its new 64 bits and its flags. -/
def vecWrite (s : State) (c : Iss) (o : Ops) (f : Nat → Word × Fl) : Wave :=
  (vecLanes o (selOf s c o)).foldl (fun (w : Wave) l => let (x, fl) := f l; (writeDst w o.d l x).setFl fl) c.w

/-- Lanes write a bit of a predicate, or 1 or 0 to a scalar. -/
def vecBits (s : State) (c : Iss) (o : Ops) (f : Nat → Bool × Fl) : Wave :=
  (vecLanes o (selOf s c o)).foldl (fun (w : Wave) l => let (x, fl) := f l; (writeBit w o.d l x).setFl fl) c.w

/-- Sub-elements joined, with their flags. -/
def joinElems (n : Nat) (xs : List (Nat × Fl)) : Word × Fl :=
  (packElems n (xs.map Prod.fst), xs.foldl (fun f x => f ||| x.2) 0)

/-- One lane of an instruction with sources a, b and c, element by element. -/
def lane3 (s : State) (c : Iss) (o : Ops) (t : VTy) (f : Rc → Nat → Nat → Nat → Nat × Fl) (l : Nat) : Word × Fl :=
  let n := t.ty.width
  let a := readSrc s c.w o .a t l
  let b := readSrc s c.w o .b t l
  let x := readSrc s c.w o .c t l
  joinElems n ((List.range t.cnt.n).map fun i => f (rcOf c o l i) (elem n a i) (elem n b i) (elem n x i))

/-- An instruction that acts on each sub-element of a, b and c. -/
def vec3 (i : Instr) (o : Ops) (t : VTy) (f : Rc → Nat → Nat → Nat → Nat × Fl) (s : State) :
    Host.Outcome State Fault Refusal :=
  s.issue i fun s c => .done (vecEnd s c o (vecWrite s c o (lane3 s c o t f)))

def vec2 (i : Instr) (o : Ops) (t : VTy) (f : Rc → Nat → Nat → Nat × Fl) := vec3 i o t fun r a b _ => f r a b
def vec1 (i : Instr) (o : Ops) (t : VTy) (f : Rc → Nat → Nat × Fl) := vec3 i o t fun r a _ _ => f r a

/-- An instruction that writes whole destinations without flags. -/
def vecWord (i : Instr) (o : Ops) (f : State → Iss → Nat → Word) (s : State) : Host.Outcome State Fault Refusal :=
  s.issue i fun s c => .done (vecEnd s c o (vecWrite s c o fun l => (f s c l, 0)))

/-- The conditions of a lane's sub-elements combined (R225). -/
def combine (any : Bool) (xs : List Bool) : Bool := if any then xs.any id else xs.all id

/-- One lane of a comparison. -/
def laneCmp (s : State) (c : Iss) (o : Ops) (t tb : VTy) (any : Bool) (f : Bool → Nat → Nat → Bool × Fl) (l : Nat) :
    Bool × Fl :=
  let a := readSrc s c.w o .a t l
  let b := readSrc s c.w o .b tb l
  let xs := (List.range t.cnt.n).map fun i => f c.w.fz (elem t.ty.width a i) (elem t.ty.width b i)
  (combine any (xs.map Prod.fst), xs.foldl (fun g x => g ||| x.2) 0)

/-- An instruction that writes one bit a lane. -/
def vecBit (i : Instr) (o : Ops) (f : State → Iss → Nat → Bool × Fl) (s : State) : Host.Outcome State Fault Refusal :=
  s.issue i fun s c => .done (vecEnd s c o (vecBits s c o (f s c)))

/-! ### Integer and address arithmetic (R218 to R221) -/


/-- ADD (R218). -/
def execAdd (o : Ops) (t : VTy) (s : State) : Host.Outcome State Fault Refusal :=
  vec2 (.add o t) o t (fun _ a b => (El.add t.ty a b, 0)) s

/-- SUB (R218). -/
def execSub (o : Ops) (t : VTy) (s : State) : Host.Outcome State Fault Refusal :=
  vec2 (.sub o t) o t (fun _ a b => (El.sub t.ty a b, 0)) s

/-- ADDSAT (R218). -/
def execAddsat (o : Ops) (t : VTy) (s : State) : Host.Outcome State Fault Refusal :=
  vec2 (.addsat o t) o t (fun _ a b => (El.addsat t.ty a b, 0)) s

/-- SUBSAT (R218). -/
def execSubsat (o : Ops) (t : VTy) (s : State) : Host.Outcome State Fault Refusal :=
  vec2 (.subsat o t) o t (fun _ a b => (El.subsat t.ty a b, 0)) s

/-- MUL (R218). -/
def execMul (o : Ops) (t : VTy) (s : State) : Host.Outcome State Fault Refusal :=
  vec2 (.mul o t) o t (fun _ a b => (El.mul t.ty a b, 0)) s

/-- MULHI (R218). -/
def execMulhi (o : Ops) (t : VTy) (s : State) : Host.Outcome State Fault Refusal :=
  vec2 (.mulhi o t) o t (fun _ a b => (El.mulhi t.ty a b, 0)) s

/-- MAD (R218). -/
def execMad (o : Ops) (t : VTy) (s : State) : Host.Outcome State Fault Refusal :=
  vec3 (.mad o t) o t (fun _ a b c => (El.mad t.ty a b c, 0)) s

/-- The type of twice the width and the same signedness (R220). -/
def twiceTy : ETy → ETy
  | .i8 => .i16 | .i16 => .i32 | .i32 => .i64 | .n8 => .n16 | .n16 => .n32 | .n32 => .n64
  | t => t

/-- MADW (R220): the addend and the destination hold elements of twice the width. -/
def execMadw (o : Ops) (t : VTy) (s : State) : Host.Outcome State Fault Refusal :=
  vecWord (.madw o t) o (fun s c l =>
    let n := t.ty.width
    let t2 : VTy := { ty := twiceTy t.ty, cnt := t.cnt }
    let a := readSrc s c.w o .a t l
    let b := readSrc s c.w o .b t l
    let x := readSrc s c.w o .c t2 l
    packElems (2 * n) ((List.range t.cnt.n).map fun i =>
      toBits (2 * n) (tyInt t.ty (elem n a i) * tyInt t.ty (elem n b i) + elem (2 * n) x i))) s

/-- DIV (R219). -/
def execDiv (o : Ops) (t : VTy) (s : State) : Host.Outcome State Fault Refusal :=
  vec2 (.div o t) o t (fun _ a b => (El.div t.ty a b, 0)) s

/-- REM (R219). -/
def execRem (o : Ops) (t : VTy) (s : State) : Host.Outcome State Fault Refusal :=
  vec2 (.rem o t) o t (fun _ a b => (El.rem t.ty a b, 0)) s

/-- NEG (R218). -/
def execNeg (o : Ops) (t : VTy) (s : State) : Host.Outcome State Fault Refusal :=
  vec1 (.neg o t) o t (fun _ a => (El.neg t.ty a, 0)) s

/-- ABS (R218). -/
def execAbs (o : Ops) (t : VTy) (s : State) : Host.Outcome State Fault Refusal :=
  vec1 (.abs o t) o t (fun _ a => (El.abs t.ty a, 0)) s

/-- MIN (R218). -/
def execMin (o : Ops) (t : VTy) (s : State) : Host.Outcome State Fault Refusal :=
  vec2 (.min o t) o t (fun _ a b => (El.min t.ty a b, 0)) s

/-- MAX (R218). -/
def execMax (o : Ops) (t : VTy) (s : State) : Host.Outcome State Fault Refusal :=
  vec2 (.max o t) o t (fun _ a b => (El.max t.ty a b, 0)) s

/-- CLAMP (R218). -/
def execClamp (o : Ops) (t : VTy) (s : State) : Host.Outcome State Fault Refusal :=
  vec3 (.clamp o t) o t (fun _ a b c => (El.clamp t.ty a b c, 0)) s

/-- ABSDIFF (R218). -/
def execAbsdiff (o : Ops) (t : VTy) (s : State) : Host.Outcome State Fault Refusal :=
  vec2 (.absdiff o t) o t (fun _ a b => (El.absdiff t.ty a b, 0)) s

/-! ### Logic, shifts and bit fields (R222 to R224) -/

/-- AND (R222). -/
def execAnd (o : Ops) (t : VTy) (s : State) : Host.Outcome State Fault Refusal :=
  vec2 (.and o t) o t (fun _ a b => (El.and t.ty a b, 0)) s

/-- OR (R222). -/
def execOr (o : Ops) (t : VTy) (s : State) : Host.Outcome State Fault Refusal :=
  vec2 (.or o t) o t (fun _ a b => (El.or t.ty a b, 0)) s

/-- XOR (R222). -/
def execXor (o : Ops) (t : VTy) (s : State) : Host.Outcome State Fault Refusal :=
  vec2 (.xor o t) o t (fun _ a b => (El.xor t.ty a b, 0)) s

/-- NOT (R222). -/
def execNot (o : Ops) (t : VTy) (s : State) : Host.Outcome State Fault Refusal :=
  vec1 (.not o t) o t (fun _ a => (El.not t.ty a, 0)) s

/-- ANDN (R222). -/
def execAndn (o : Ops) (t : VTy) (s : State) : Host.Outcome State Fault Refusal :=
  vec2 (.andn o t) o t (fun _ a b => (El.andn t.ty a b, 0)) s

/-- SHL (R222). -/
def execShl (o : Ops) (t : VTy) (s : State) : Host.Outcome State Fault Refusal :=
  vec2 (.shl o t) o t (fun _ a b => (El.shl t.ty a b, 0)) s

/-- SHR (R222). -/
def execShr (o : Ops) (t : VTy) (s : State) : Host.Outcome State Fault Refusal :=
  vec2 (.shr o t) o t (fun _ a b => (El.shr t.ty a b, 0)) s

/-- SAR (R222). -/
def execSar (o : Ops) (t : VTy) (s : State) : Host.Outcome State Fault Refusal :=
  vec2 (.sar o t) o t (fun _ a b => (El.sar t.ty a b, 0)) s

/-- ROTL (R222). -/
def execRotl (o : Ops) (t : VTy) (s : State) : Host.Outcome State Fault Refusal :=
  vec2 (.rotl o t) o t (fun _ a b => (El.rotl t.ty a b, 0)) s

/-- FUNSHR (R222). -/
def execFunshr (o : Ops) (t : VTy) (s : State) : Host.Outcome State Fault Refusal :=
  vec3 (.funshr o t) o t (fun _ a b c => (El.funshr t.ty a b c, 0)) s

/-- BFX (R223). -/
def execBfx (o : Ops) (t : VTy) (s : State) : Host.Outcome State Fault Refusal :=
  vec3 (.bfx o t) o t (fun _ a b c => (El.bfx t.ty a b c, 0)) s

/-- BFI (R223): its width is the fourth operand. -/
def execBfi (o : Ops) (t : VTy) (s : State) : Host.Outcome State Fault Refusal :=
  vecWord (.bfi o t) o (fun s c l =>
    let n := t.ty.width
    let a := readSrc s c.w o .a t l
    let b := readSrc s c.w o .b t l
    let x := readSrc s c.w o .c t l
    let e := readE s c.w o t l
    packElems n ((List.range t.cnt.n).map fun i => El.bfi t.ty (elem n a i) (elem n b i) (elem n x i) (elem n e i))) s

/-- POPC (R222). -/
def execPopc (o : Ops) (t : VTy) (s : State) : Host.Outcome State Fault Refusal :=
  vec1 (.popc o t) o t (fun _ a => (El.popc t.ty a, 0)) s

/-- CLZ (R222). -/
def execClz (o : Ops) (t : VTy) (s : State) : Host.Outcome State Fault Refusal :=
  vec1 (.clz o t) o t (fun _ a => (El.clz t.ty a, 0)) s

/-- CTZ (R222). -/
def execCtz (o : Ops) (t : VTy) (s : State) : Host.Outcome State Fault Refusal :=
  vec1 (.ctz o t) o t (fun _ a => (El.ctz t.ty a, 0)) s

/-- BREV (R222). -/
def execBrev (o : Ops) (t : VTy) (s : State) : Host.Outcome State Fault Refusal :=
  vec1 (.brev o t) o t (fun _ a => (El.brev t.ty a, 0)) s

/-- PERMB (R224). -/
def execPermb (o : Ops) (t : VTy) (s : State) : Host.Outcome State Fault Refusal :=
  vecWord (.permb o t) o (fun s c l =>
    let lo := readSrc s c.w o .a t l
    let hi := readSrc s c.w o .b t l
    let x := readSrc s c.w o .c t l
    packElems 8 ((List.range 8).map fun j =>
      let k := elem 8 x j
      if k ≥ 128 then 0 else if k % 16 < 8 then elem 8 lo (k % 16) else elem 8 hi (k % 16 - 8))) s

/-- SEL (R224): a predicate chooses for each lane. -/
def execSel (o : Ops) (t : VTy) (s : State) : Host.Outcome State Fault Refusal :=
  vecWord (.sel o t) o (fun s c l =>
    let n := t.ty.width
    let x := if (readSrc s c.w o .c b64 l).getLsbD l then readSrc s c.w o .a t l else readSrc s c.w o .b t l
    packElems n ((List.range t.cnt.n).map (elem n x))) s

/-- MOV (R224). A predicate destination is written whole from a uniform value (R156), which holds the elements of the type
and zeros above them (R113, R214). -/
def execMov (o : Ops) (t : VTy) (s : State) : Host.Outcome State Fault Refusal :=
  s.issue (.mov o t) fun s c =>
    match o.d with
    | .p n => .done (s.setWave c.key (c.w.pwriteAll n.val (lane3 s c o t (fun _ a _ _ => (a, 0)) 0).1))
    | _ => .done (vecEnd s c o (vecWrite s c o (lane3 s c o t fun _ a _ _ => (a, 0))))

/-- LEA (R221): all 64 bits are written, whatever the type. -/
def execLea (o : Ops) (t : VTy) (s : State) : Host.Outcome State Fault Refusal :=
  vecWord (.lea o t) o (fun s c l =>
    let x := (readSrc s c.w o .b t l).toNat
    let idx := word (if t.ty.isSigned then sext x t.ty.width else (x % 2 ^ t.ty.width : Nat))
    readSrc s c.w o .a b64 l + idx <<< ((readSrc s c.w o .c b64 l).toNat % 64)) s

/-! ### Comparisons and predicates (R225 to R227) -/

/-- ICMP (R225). -/
def execIcmp (o : Ops) (t : VTy) (cond : Cond) (any : Bool) (s : State) : Host.Outcome State Fault Refusal :=
  vecBit (.icmp o t cond any) o (fun s c => laneCmp s c o t t any fun _ a b => (El.icmp t.ty cond a b, 0)) s

/-! ### Floating point (R228 to R233) -/

/-- FADD (R228). -/
def execFadd (o : Ops) (t : VTy) (s : State) : Host.Outcome State Fault Refusal :=
  vec2 (.fadd o t) o t (El.fadd t.ty) s

/-- FSUB (R228). -/
def execFsub (o : Ops) (t : VTy) (s : State) : Host.Outcome State Fault Refusal :=
  vec2 (.fsub o t) o t (El.fsub t.ty) s

/-- FMUL (R228). -/
def execFmul (o : Ops) (t : VTy) (s : State) : Host.Outcome State Fault Refusal :=
  vec2 (.fmul o t) o t (El.fmul t.ty) s

/-- FMA (R228). -/
def execFma (o : Ops) (t : VTy) (s : State) : Host.Outcome State Fault Refusal :=
  vec3 (.fma o t) o t (El.fma t.ty) s

/-- FMS (R228). -/
def execFms (o : Ops) (t : VTy) (s : State) : Host.Outcome State Fault Refusal :=
  vec3 (.fms o t) o t (El.fms t.ty) s

/-- FNMA (R228). -/
def execFnma (o : Ops) (t : VTy) (s : State) : Host.Outcome State Fault Refusal :=
  vec3 (.fnma o t) o t (El.fnma t.ty) s

/-- FMIN (R229). -/
def execFmin (o : Ops) (t : VTy) (s : State) : Host.Outcome State Fault Refusal :=
  vec2 (.fmin o t) o t (El.fmin t.ty) s

/-- FMAX (R229). -/
def execFmax (o : Ops) (t : VTy) (s : State) : Host.Outcome State Fault Refusal :=
  vec2 (.fmax o t) o t (El.fmax t.ty) s

/-- FABS (R229). -/
def execFabs (o : Ops) (t : VTy) (s : State) : Host.Outcome State Fault Refusal :=
  vec1 (.fabs o t) o t (El.fabs t.ty) s

/-- FNEG (R229). -/
def execFneg (o : Ops) (t : VTy) (s : State) : Host.Outcome State Fault Refusal :=
  vec1 (.fneg o t) o t (El.fneg t.ty) s

/-- FDIV (R230). -/
def execFdiv (o : Ops) (t : VTy) (s : State) : Host.Outcome State Fault Refusal :=
  vec2 (.fdiv o t) o t (El.fdiv t.ty) s

/-- FSQRT (R230). -/
def execFsqrt (o : Ops) (t : VTy) (s : State) : Host.Outcome State Fault Refusal :=
  vec1 (.fsqrt o t) o t (El.fsqrt t.ty) s

/-- FRCP (R230). -/
def execFrcp (o : Ops) (t : VTy) (s : State) : Host.Outcome State Fault Refusal :=
  vec1 (.frcp o t) o t (El.frcp t.ty) s

/-- FRSQ (R230). -/
def execFrsq (o : Ops) (t : VTy) (s : State) : Host.Outcome State Fault Refusal :=
  vec1 (.frsq o t) o t (El.frsq t.ty) s

/-- FEXP2 (R231). -/
def execFexp2 (o : Ops) (t : VTy) (s : State) : Host.Outcome State Fault Refusal :=
  vec1 (.fexp2 o t) o t (El.fexp2 t.ty) s

/-- FLOG2 (R231). -/
def execFlog2 (o : Ops) (t : VTy) (s : State) : Host.Outcome State Fault Refusal :=
  vec1 (.flog2 o t) o t (El.flog2 t.ty) s

/-- FSIN (R231). -/
def execFsin (o : Ops) (t : VTy) (s : State) : Host.Outcome State Fault Refusal :=
  vec1 (.fsin o t) o t (El.fsin t.ty) s

/-- FCOS (R231). -/
def execFcos (o : Ops) (t : VTy) (s : State) : Host.Outcome State Fault Refusal :=
  vec1 (.fcos o t) o t (El.fcos t.ty) s

/-- FTANH (R231). -/
def execFtanh (o : Ops) (t : VTy) (s : State) : Host.Outcome State Fault Refusal :=
  vec1 (.ftanh o t) o t (El.ftanh t.ty) s

/-- FSIGM (R231). -/
def execFsigm (o : Ops) (t : VTy) (s : State) : Host.Outcome State Fault Refusal :=
  vec1 (.fsigm o t) o t (El.fsigm t.ty) s

/-- FRND (R232). -/
def execFrnd (o : Ops) (t : VTy) (s : State) : Host.Outcome State Fault Refusal :=
  vec1 (.frnd o t) o t (El.frnd t.ty) s

/-- FFRAC (R232). -/
def execFfrac (o : Ops) (t : VTy) (s : State) : Host.Outcome State Fault Refusal :=
  vec1 (.ffrac o t) o t (El.ffrac t.ty) s

/-- FCMP (R225). -/
def execFcmp (o : Ops) (t : VTy) (cond : Cond) (any : Bool) (s : State) : Host.Outcome State Fault Refusal :=
  vecBit (.fcmp o t cond any) o (fun s c => laneCmp s c o t t any fun fz a b => El.fcmp t.ty fz cond a b) s

/-- FCLASS (R226): FZ is ignored and no flag is set. -/
def execFclass (o : Ops) (t : VTy) (any : Bool) (s : State) : Host.Outcome State Fault Refusal :=
  vecBit (.fclass o t any) o (fun s c l =>
    let m := readSrc s c.w o .b b64 l
    laneCmp s c o t t any (fun _ a _ => (m.getLsbD (El.classBit t.ty a), 0)) l) s

/-- The type of the addend and the destination of a short dot product (R233). -/
def dotTy (t : VTy) : VTy := { ty := if t.ty.isInt then .i32 else .f32, cnt := .x2 }

/-- One lane of a short dot product of k terms to an element. -/
def laneDot (k : Nat) (s : State) (c : Iss) (o : Ops) (t : VTy) (l : Nat) : Word × Fl :=
  let n := t.ty.width
  let a := readSrc s c.w o .a t l
  let b := readSrc s c.w o .b t l
  let x := readSrc s c.w o .c (dotTy t) l
  joinElems 32 ((List.range 2).map fun j =>
    let as := (List.range k).map fun i => elem n a (k * j + i)
    let bs := (List.range k).map fun i => elem n b (k * j + i)
    if t.ty.isInt then (dotInt t.ty as bs (elem 32 x j), 0) else dotElem t.ty (rcOf c o l j) as bs (elem 32 x j))

/-- FDOT2 (R233). -/
def execFdot2 (o : Ops) (t : VTy) (s : State) : Host.Outcome State Fault Refusal :=
  s.issue (.fdot2 o t) fun s c => .done (vecEnd s c o (vecWrite s c o (laneDot 2 s c o t)))

/-- FDOT4 (R233). -/
def execFdot4 (o : Ops) (t : VTy) (s : State) : Host.Outcome State Fault Refusal :=
  s.issue (.fdot4 o t) fun s c => .done (vecEnd s c o (vecWrite s c o (laneDot 4 s c o t)))

/-- FSCALE (R232): the exponent is an integer of the element width. -/
def execFscale (o : Ops) (t : VTy) (s : State) : Host.Outcome State Fault Refusal :=
  s.issue (.fscale o t) fun s c =>
    .done (vecEnd s c o (vecWrite s c o fun l =>
      let n := t.ty.width
      let a := readSrc s c.w o .a t l
      let b := readSrc s c.w o .b { t with ty := if n == 64 then .i64 else if n == 32 then .i32 else .i16 } l
      joinElems n ((List.range t.cnt.n).map fun i => El.fscale t.ty (rcOf c o l i) (elem n a i) (elem n b i))))

/-! ### Conversions (R234 to R238) -/

/-- Where a conversion takes and puts its elements (R234). `f i x` converts source element x into destination
element i. -/
def convLane (sw sc dw dc p : Nat) (a old : Word) (f : Nat → Nat → Nat × Fl) : Word × Fl :=
  let p := p % (Nat.max sc dc / Nat.min sc dc)
  if dc ≤ sc then joinElems dw ((List.range dc).map fun i => f i (elem sw a (p * dc + i)))
  else joinElems dw ((List.range dc).map fun j =>
    if p * sc ≤ j && j < p * sc + sc then f j (elem sw a (j - p * sc)) else (elem dw old j, 0))

/-- A conversion of element types, with the part in b[2:0]. -/
def vecConv (i : Instr) (o : Ops) (t src : VTy) (s : State) : Host.Outcome State Fault Refusal :=
  s.issue i fun s c => .done (vecEnd s c o (vecWrite s c o fun l =>
    convLane src.ty.width src.cnt.n t.ty.width t.cnt.n ((readSrc s c.w o .b b64 l).toNat % 8)
      (readSrc s c.w o .a src l) (readOpd s c.w o.d t l) fun j x => convert src.ty t.ty (rcOf c o l j) x))

/-- FCVT (R235). -/
def execFcvt (o : Ops) (t src : VTy) (s : State) : Host.Outcome State Fault Refusal :=
  vecConv (.fcvt o t src) o t src s

/-- FTOI (R235). -/
def execFtoi (o : Ops) (t src : VTy) (s : State) : Host.Outcome State Fault Refusal :=
  vecConv (.ftoi o t src) o t src s

/-- ITOF (R235). -/
def execItof (o : Ops) (t src : VTy) (s : State) : Host.Outcome State Fault Refusal :=
  vecConv (.itof o t src) o t src s

/-- ICVT (R235). -/
def execIcvt (o : Ops) (t src : VTy) (s : State) : Host.Outcome State Fault Refusal :=
  vecConv (.icvt o t src) o t src s

/-- PACK (R236). -/
def execPack (o : Ops) (t : VTy) (s : State) : Host.Outcome State Fault Refusal :=
  vecWord (.pack o t) o (fun s c l =>
    let n := t.ty.width
    let h := t.cnt.n / 2
    let a := readSrc s c.w o .a t l
    let b := readSrc s c.w o .b t l
    packElems n ((List.range t.cnt.n).map fun i => if i < h then elem (2 * n) a i else elem (2 * n) b (i - h))) s

/-- The type of half the width and the same signedness (R236). -/
def halfTy : ETy → ETy
  | .i16 => .i8 | .i32 => .i16 | .i64 => .i32 | .n16 => .n8 | .n32 => .n16 | .n64 => .n32
  | t => t
def twiceCnt : Cnt → Cnt
  | .x1 => .x2 | .x2 => .x4 | .x4 | .x8 => .x8

/-- UNPK (R236): the source holds twice as many elements of half the width, which a constant fills at that width. -/
def execUnpk (o : Ops) (t : VTy) (s : State) : Host.Outcome State Fault Refusal :=
  s.issue (.unpk o t) fun s c => .done (vecEnd s c o (vecWrite s c o fun l =>
    let n := t.ty.width
    convLane (n / 2) (2 * t.cnt.n) n t.cnt.n ((readSrc s c.w o .b b64 l).toNat % 8) (readSrc s c.w o .a { ty := halfTy t.ty, cnt := twiceCnt t.cnt } l) 0
      fun _ x => (if t.ty.isSigned then toBits n (sext x (n / 2)) else x, 0)))

/-- The zero point of QCVT and QDEQ in b (R237). -/
def zeroPoint (t : ETy) (b : Word) : Nat := if t == .q8 then bits b 23 16 else bits b 19 16
/-- Bits of a quantised code. -/
def qBits (t : ETy) : Nat := if t == .q8 then 8 else 4

/-- QCVT (R237). -/
def execQcvt (o : Ops) (t src : VTy) (s : State) : Host.Outcome State Fault Refusal :=
  s.issue (.qcvt o t src) fun s c => .done (vecEnd s c o (vecWrite s c o fun l =>
    let b := readSrc s c.w o .b b64 l
    convLane src.ty.width src.cnt.n 8 t.cnt.n (bits b 26 24) (readSrc s c.w o .a src l) (readOpd s c.w o.d t l)
      fun j x =>
        let r := rcOf c o l j
        toQ (qBits t.ty) r (bits b 15 0) (zeroPoint t.ty b) (srcVal src.ty r.fz x)))

/-- QDEQ (R237). -/
def execQdeq (o : Ops) (t src : VTy) (s : State) : Host.Outcome State Fault Refusal :=
  s.issue (.qdeq o t src) fun s c => .done (vecEnd s c o (vecWrite s c o fun l =>
    let b := readSrc s c.w o .b b64 l
    convLane 8 src.cnt.n t.ty.width t.cnt.n (bits b 26 24) (readSrc s c.w o .a src l) (readOpd s c.w o.d t l)
      fun j x => El.fin t.ty (rcOf c o l j) (qVal (bits b 15 0) (zeroPoint src.ty b) (x % 2 ^ qBits src.ty))))

/-- The .bf16 values that lane l supplies to its quad's block (R238). -/
def mxVals (s : State) (c : Iss) (o : Ops) (l : Nat) : List Val :=
  let t : VTy := { ty := .bf16, cnt := .x4 }
  let a := readSrc s c.w o .a t l
  let b := readSrc s c.w o .b t l
  (List.range 8).map fun i => srcVal .bf16 c.w.fz (if i < 4 then elem 16 a i else elem 16 b (i - 4))

/-- One quad of MXCVT: the selected lanes form one block, and each receives its codes and the shared scale. -/
def mxQuad (s : State) (c : Iss) (o : Ops) (t : VTy) (ls : List Nat) (w : Wave) : Wave :=
  let sc := blockScale t.ty (ls.flatMap (mxVals s c o))
  ls.foldl (fun (w : Wave) l =>
    let (x, fl) := joinElems 8 ((mxVals s c o l).zipIdx.map fun v => toBlock t.ty (rcOf c o l v.2) sc v.1)
    (writeDst (writeDst w o.d l x) o.c l (BitVec.ofNat 64 sc)).setFl fl) w

/-- MXCVT (R238). -/
def execMxcvt (o : Ops) (t : VTy) (s : State) : Host.Outcome State Fault Refusal :=
  s.issue (.mxcvt o t) fun s c =>
    let ls := lanesOf (selOf s c o)
    .done (vecEnd s c o ((List.range 16).foldl (fun w q => mxQuad s c o t (ls.filter fun l => l / 4 == q) w) c.w))

/-! ### Predicate logic (R227) -/

/-- PAND (R227). -/
def execPand (o : Ops) (s : State) : Host.Outcome State Fault Refusal :=
  vecBit (.pand o) o (fun s c l =>
    let a := (readSrc s c.w o .a b64 l).getLsbD l
    let b := (readSrc s c.w o .b b64 l).getLsbD l
    (a && b, 0)) s

/-- POR (R227). -/
def execPor (o : Ops) (s : State) : Host.Outcome State Fault Refusal :=
  vecBit (.por o) o (fun s c l =>
    let a := (readSrc s c.w o .a b64 l).getLsbD l
    let b := (readSrc s c.w o .b b64 l).getLsbD l
    (a || b, 0)) s

/-- PXOR (R227). -/
def execPxor (o : Ops) (s : State) : Host.Outcome State Fault Refusal :=
  vecBit (.pxor o) o (fun s c l =>
    let a := (readSrc s c.w o .a b64 l).getLsbD l
    let b := (readSrc s c.w o .b b64 l).getLsbD l
    (a != b, 0)) s

/-- PANDN (R227). -/
def execPandn (o : Ops) (s : State) : Host.Outcome State Fault Refusal :=
  vecBit (.pandn o) o (fun s c l =>
    let a := (readSrc s c.w o .a b64 l).getLsbD l
    let b := (readSrc s c.w o .b b64 l).getLsbD l
    (a && !b, 0)) s

/-- PSET (R227). -/
def execPset (o : Ops) (zero : Bool) (s : State) : Host.Outcome State Fault Refusal :=
  vecBit (.pset o zero) o (fun s c l => ((readSrc s c.w o .a b64 l == 0) == zero, 0)) s

/-! ### The paired word (R170 to R172) -/

/-- The element function of a paired opcode: that of the full instruction of its name. -/
def pairFn : POp → ETy → Rc → Nat → Nat → Nat × Fl
  | .add => fun t _ a b => (El.add t a b, 0)
  | .sub => fun t _ a b => (El.sub t a b, 0)
  | .mul => fun t _ a b => (El.mul t a b, 0)
  | .min => fun t _ a b => (El.min t a b, 0)
  | .max => fun t _ a b => (El.max t a b, 0)
  | .addsat => fun t _ a b => (El.addsat t a b, 0)
  | .subsat => fun t _ a b => (El.subsat t a b, 0)
  | .absdiff => fun t _ a b => (El.absdiff t a b, 0)
  | .and => fun t _ a b => (El.and t a b, 0)
  | .or => fun t _ a b => (El.or t a b, 0)
  | .xor => fun t _ a b => (El.xor t a b, 0)
  | .andn => fun t _ a b => (El.andn t a b, 0)
  | .shl => fun t _ a b => (El.shl t a b, 0)
  | .shr => fun t _ a b => (El.shr t a b, 0)
  | .sar => fun t _ a b => (El.sar t a b, 0)
  | .mov => fun _ _ _ b => (b, 0)
  | .fadd => El.fadd
  | .fsub => El.fsub
  | .fmul => El.fmul
  | .fmin => El.fmin
  | .fmax => El.fmax
  | .fneg => fun t r _ b => El.fneg t r b
  | .fabs => fun t r _ b => El.fabs t r b
  | .neg => fun t _ _ b => (El.neg t b, 0)

/-- One half in lane l, from the registers as they stood before the word: d and a of the half, rounded by RNE. -/
def laneHalf (s : State) (c : Iss) (h : Half) (l : Nat) : Word × Fl :=
  let n := h.t.ty.width
  let x := c.w.vread s.epoch h.d.toNat l
  let y := c.w.vread s.epoch h.a.toNat l
  joinElems n ((List.range h.t.cnt.n).map fun i => pairFn h.op h.t.ty { fz := c.w.fz } (elem n x i) (elem n y i))

/-- PAIRED_WORD (R171). -/
def execPairedWord (h1 h2 : Half) (s : State) : Host.Outcome State Fault Refusal :=
  s.issue (.pairedWord h1 h2) fun s c =>
    .done (s.setWave c.key ((lanesOf c.mask).foldl (fun (w : Wave) l =>
      let (x, f) := laneHalf s c h1 l
      let (y, g) := laneHalf s c h2 l
      ((w.vwrite h1.d.toNat l x).vwrite h2.d.toNat l y).setFl (f ||| g)) c.w))

end Sys2Proof.Machine
end

