-- ==== Sys2Proof/Machine/Control.lean ====
section
/-! DEFINITION. The meanings of the control, synchronisation and system instructions (17_isa_control.md R323 to R350),
opcodes 0x220 to 0x245. -/

namespace Sys2Proof.Machine

/-! ### Branches, calls and divergence (R325 to R327) -/

/-- Every active lane of a vector destination, or a scalar once, takes a value. -/
def writeAll (w : Wave) (d : Opd) (m : Mask) (x : Nat → Word) : Wave :=
  match d with
  | .s n => w.swrite n.val (x (lowest m))
  | .v n => (lanesOf m).foldl (fun (w : Wave) l => w.vwrite n.val l (x l)) w
  | _ => w

/-- A transfer: `taken` lanes go to their targets and the others of the group to the next word (R325). When the lanes
of the group part, their divergence depth rises (R326), and the part that the hint names holds the others (R327, R372). -/
def transfer (s : State) (c : Iss) (taken : Mask) (target : Nat → Word) (hint : Bool) (link : Opd) : Res :=
  let ls := lanesOf taken
  let high := ls.filter fun l => bits (target l) 63 56 != 0
  let odd := ls.filter fun l => (target l).toNat % 8 != 0
  let stop := fun (t : Trap) (m : List Nat) => Res.trap t taken (target ((m.head?).getD 0)) 0
  if !high.isEmpty then stop .vaRange high
  else if !odd.isEmpty then stop .misaligned odd
  else if taken == 0 then .done s
  else
    let rest := c.mask &&& ~~~taken
    let next := c.pc + 8
    let w := writeAll c.w link taken fun _ => next
    let pcs := ((ls.map target) ++ (if rest == 0 then [] else [next])).eraseDups
    let w := (w.sendLanes taken target).stepLanes rest 1
    if pcs.length < 2 then .moved (s.setWave c.key w.mergeHolds)
    else
      let w := w.mapLanes c.mask fun _ l => { l with dd := if l.dd == 255 then 255 else l.dd + 1 }
      let first := if hint && rest != 0 then rest
        else taken &&& w.lanesWhere fun l => l.pc == target (lowest taken)
      let others := (pcs.map fun p => c.mask &&& ~~~first &&& w.lanesWhere fun l => l.pc == p).filter fun g => g != 0
      .moved (s.setWave c.key ({ w with holds := w.holds ++ others.map fun g => (first, g) }.mergeHolds))

/-- The selected lanes that take a branch (R325). -/
def takes (s : State) (c : Iss) (o : Ops) (cond : BCond) (f : LitSel) : Mask :=
  let sel := selOf s c o
  match cond with
  | .always => sel
  | .nz => maskOf ((lanesOf sel).filter fun l => readSrc s c.w o f b64 l != 0)
  | .z => maskOf ((lanesOf sel).filter fun l => readSrc s c.w o f b64 l == 0)

/-- pc + 8 × EXTS(off, 20). -/
def offPc (c : Iss) (off : BitVec 20) : Word := c.pc + word (8 * sext off.toNat 20)

/-- The low 56 bits of a lane's operand. -/
def addr56 (s : State) (c : Iss) (o : Ops) (l : Nat) : Word := BitVec.ofNat 64 (bits (readSrc s c.w o .a b64 l) 55 0)

/-- BR (R325). -/
def execBr (o : Ops) (cond : BCond) (hint : Bool) (off : BitVec 20) (s : State) : Host.Outcome State Fault Refusal :=
  s.issue (.br o cond hint off) fun s c => transfer s c (takes s c o cond .a) (fun _ => offPc c off) hint .zero

/-- BRI (R325). -/
def execBri (o : Ops) (cond : BCond) (hint : Bool) (s : State) : Host.Outcome State Fault Refusal :=
  s.issue (.bri o cond hint) fun s c => transfer s c (takes s c o cond .b) (addr56 s c o) hint .zero

/-- CALL (R325). -/
def execCall (o : Ops) (hint : Bool) (off : BitVec 20) (s : State) : Host.Outcome State Fault Refusal :=
  s.issue (.call o hint off) fun s c => transfer s c (selOf s c o) (fun _ => offPc c off) hint o.d

/-- CALLI (R325). -/
def execCalli (o : Ops) (hint : Bool) (s : State) : Host.Outcome State Fault Refusal :=
  s.issue (.calli o hint) fun s c => transfer s c (selOf s c o) (addr56 s c o) hint o.d

/-- RET (R325). -/
def execRet (o : Ops) (hint : Bool) (s : State) : Host.Outcome State Fault Refusal :=
  s.issue (.ret o hint) fun s c => transfer s c (selOf s c o) (addr56 s c o) hint .zero

/-! ### REJOIN, EXIT and NOP (R328 to R330) -/

/-- REJOIN (R328). -/
def execRejoin (o : Ops) (s : State) : Host.Outcome State Fault Refusal :=
  s.issue (.rejoin o) fun s c =>
    let m := readSrc s c.w o .a b64 0 &&& lowMask c.w.width
    .moved (rejoinTest (s.updWave c.key fun w => w.startWait c.mask (.rejoin m)) c.key)

/-- EXIT (R330). -/
def execExit (o : Ops) (s : State) : Host.Outcome State Fault Refusal :=
  s.issue (.exit o) fun s c =>
    let sel := selOf s c o
    if sel == 0 then .done s
    else .moved (exitLanes (s.updWave c.key fun w => w.stepLanes (c.mask &&& ~~~sel) 1) c.key sel)

/-- NOP (R330). -/
def execNop (o : Ops) (s : State) : Host.Outcome State Fault Refusal :=
  s.issue (.nop o) fun s _ => .done s

/-! ### Barriers (R331 to R334) -/

/-- The lanes of the group set their LA bits, and both tests are made (R331, R332). -/
def arrive (s : State) (c : Iss) (i : Nat) : State :=
  let tn := c.w.team
  let b := barOf (s.team tn) i
  let s := setBar s tn i { b with la := b.la.set c.w.waveId (b.la.getD c.w.waveId 0 ||| c.mask) }
  barTest (barArrive s tn i c.w.waveId) tn i

/-- BAR (R331). -/
def execBar (o : Ops) (idx : BitVec 2) (s : State) : Host.Outcome State Fault Refusal :=
  s.issue (.bar o idx) fun s c =>
    .moved (arrive (s.updWave c.key fun w => w.startWait c.mask (.bar idx.toNat)) c idx.toNat)

/-- BARL (R331, R332). -/
def execBarl (o : Ops) (s : State) : Host.Outcome State Fault Refusal :=
  s.issue (.barl o) fun s c =>
    if !(s.launch c.w.launch).co || c.w.kind != .team then .stop c .barrierScope
    else .moved (arrive (s.updWave c.key fun w => w.startWait c.mask (.bar 4)) c 4)

/-- BARA (R331). -/
def execBara (o : Ops) (idx : BitVec 2) (s : State) : Host.Outcome State Fault Refusal :=
  s.issue (.bara o idx) fun s c => .done (arrive s c idx.toNat)

/-- The eight words of a barrier's part (R334). -/
def barWords (b : Barrier) (i wi : Nat) (wavePart : Bool) : List Word :=
  if wavePart then [b.la.getD wi 0, 0, 0, 0, 0, 0, 0, 0]
  else
    BitVec.ofNat 64 (b.phase.toNat * 2 ^ 63 + (if i = 4 then b.sent.toNat * 2 ^ 62 else 0) + b.count)
      :: (List.range 6).map (fun j => BitVec.ofNat 64 (b.mask.toNat / 2 ^ (64 * j))) ++ [0]

/-- Words into a run of scalar registers. -/
def writeRun (w : Wave) (first : Nat) (xs : List Word) : Wave :=
  xs.zipIdx.foldl (fun (w : Wave) p => w.swrite (first + p.2) p.1) w

/-- BARGET (R334). -/
def execBarget (o : Ops) (idx : Fin 5) (wavePart : Bool) (s : State) : Host.Outcome State Fault Refusal :=
  s.issue (.barget o idx wavePart) fun s c =>
    .done (s.updWave c.key fun w =>
      writeRun w (firstOf o.d) (barWords (barOf (s.team c.w.team) idx.val) idx.val c.w.waveId wavePart))

/-- BARSET (R334). -/
def execBarset (o : Ops) (idx : Fin 5) (wavePart : Bool) (s : State) : Host.Outcome State Fault Refusal :=
  s.issue (.barset o idx wavePart) fun s c =>
    let tn := c.w.team
    let t := s.team tn
    let b := barOf t idx.val
    let ws := scalarRun s c.w o.a 8
    let w0 := (ws[0]?).getD 0
    if wavePart then
      let s := setBar s tn idx.val { b with la := b.la.set c.w.waveId (w0 &&& lowMask c.w.width) }
      .done (barTest (barArrive s tn idx.val c.w.waveId) tn idx.val)
    else
      let mask : BitVec 384 := BitVec.ofNat 384 (((ws.drop 1).take 6).zipIdx.map fun p => p.1.toNat * 2 ^ (64 * p.2)).sum
      let bad := bits w0 8 0 != popc mask || mask.toNat ≥ 2 ^ t.nwaves || bits w0 61 9 != 0 || (ws[7]?).getD 0 != 0
        || (bit w0 62 && idx.val != 4)
      if bad then .stop c .barrierState
      else
        let s := setBar s tn idx.val { b with phase := bit w0 63, sent := bit w0 62, count := bits w0 8 0, mask }
        .done (barTest (t.waves.foldl (fun s p => barArrive s tn idx.val p.1) s) tn idx.val)

/-! ### Spawning and work queues (R335 to R339) -/

/-- The spawn table kernel whose entry an address is (R335, R355). -/
def spawnKernel (s : State) (launch : Nat) (a : Nat) : Option Nat :=
  ((s.launch launch).spawn.zipIdx.find? fun p => (p.1.va + p.1.entry) % 2 ^ 64 == a).map Prod.snd

/-- A thread enters a bin of a core; a bin that holds the kernel's width forms a wave (R335). -/
def enterBin (s : State) (core launch k : Nat) (t : Thread) : State :=
  let bins := (s.core core).bins
  let mine := bins.find? fun b => b.launch == launch && b.kernel == k
  let b : Bin := (mine.getD { launch, kernel := k, threads := [], since := if (s.launch launch).rec_ != 0 then s.replay.round else s.now core })
  let b := { b with threads := b.threads ++ [t] }
  let others := bins.filter fun b => !(b.launch == launch && b.kernel == k)
  let kn := ((s.launch launch).spawn[k]?).getD {}
  if b.threads.length ≥ kn.width then
    s.updCore core fun c => { c with
      bins := others,
      formed := c.formed ++ [{ launch, kernel := k, kind := .spawned, pc := BitVec.ofNat 64 (kn.va + kn.entry),
                               team := ((b.threads.head?).map Thread.team).getD 0,
                               threads := b.threads.map fun x => [x.arg], at_ := s.epoch }] }
  else s.updCore core fun c => { c with bins := others ++ [b] }

/-- A bin, one for each place in the spawn tables, cannot take lanes of a launch while a wave that it formed waits to be
placed (R335), or while it holds threads of another launch (log entry 53). -/
def binBusy (s : State) (core launch k : Nat) : Bool :=
  ((s.core core).formed.any fun f => f.kernel == k && f.kind == .spawned)
    || (s.core core).bins.any fun b => b.kernel == k && b.launch != launch

/-- SPAWN (R335). -/
def execSpawn (o : Ops) (s : State) : Host.Outcome State Fault Refusal :=
  s.issue (.spawn o) fun s c =>
    let sel := selOf s c o
    let ls := lanesOf sel
    let kn := fun l => spawnKernel s c.w.launch (bits (readSrc s c.w o .a b64 l) 55 0)
    let bad := ls.filter fun l => (kn l).isNone
    let core := coreOf c.key
    if sel == 0 then .done s
    else if !bad.isEmpty then .trap .spawnTarget sel 0 0
    else if mustWait s c then holdToRound s c
    else if ls.any fun l => binBusy s core c.w.launch ((kn l).getD 0) then .hold s false 19
    else .done (ls.foldl (fun s l =>
      enterBin s core c.w.launch ((kn l).getD 0) { arg := readSrc s c.w o .b b64 l, team := c.w.teamNo }) s)

/-- The shared meaning of the queue instructions (R337, R338): the checks at issue, then one request to the home slice
of the descriptor, for whose reply the group waits. -/
def queueOp (i : Instr) (o : Ops) (put steal spawnl : Bool) (status : Opd) (s : State) :
    Host.Outcome State Fault Refusal :=
  s.issue i fun s c =>
    let sel := selOf s c o
    let ls := lanesOf sel
    let va := readSrc s c.w o .a b64 0
    let bad := ls.filter fun l => (spawnKernel s c.w.launch (bits (readSrc s c.w o .b b64 l) 55 0)).isNone
    if sel == 0 then .done s
    else if bits va 63 56 != 0 then .trap .vaRange sel va 0
    else if va.toNat % 32 != 0 then .trap .misaligned sel va 0
    else if spawnl && !bad.isEmpty then .trap .spawnTarget sel 0 0
    else
      match gate s c.key c.w .both [(lowest sel, va)] with
      | .stop t _ v => .trap t sel (if t == .memUncorr then v else 0) 0
      | .wait s' => .walk s'
      | .go ok park =>
        match ok.head? with
        | none => .moved (parkLanes s c.key (dieOf c.key) .both c.pc park (some c.mask))
        | some (_, _, pa) =>
          if !isDev pa then .trap .atomicTarget sel 0 0
          else if mustWait s c then holdToRound s c
          else
            let once := !put && (match o.d with | .s _ => true | _ => false)
            let items := if put then ls.map fun l => (readSrc s c.w o .b b64 l, readSrc s c.w o .c b64 l) else []
            let (n, s) := s.takeNo
            let r : QReq := { wave := c.key, serial := c.w.serial, put, steal, desc := pa, va, ctx := c.w.ctx, sel,
                              mask := c.mask, once, items, dst := o.d, status, pc := c.pc, seq := c.w.seq,
                              at_ := s.now (clockOf (ctlNo (homeDie pa 0) 0)) }
            .moved ({ s with msgs := s.msgs.set n .queue, queues := s.queues.set n r }.updWave c.key fun w =>
              w.startWait c.mask (.reply n))

/-- The status predicate of a take. -/
def statusOpd (st : Option (Fin 15)) : Opd := match st with | some n => .p n | none => .zero

/-- SPAWNL (R337). -/
def execSpawnl (o : Ops) (s : State) : Host.Outcome State Fault Refusal := queueOp (.spawnl o) o true false true o.d s
/-- QPUT (R337). -/
def execQput (o : Ops) (s : State) : Host.Outcome State Fault Refusal := queueOp (.qput o) o true false false o.d s
/-- QTAKE (R337). -/
def execQtake (o : Ops) (st : Option (Fin 15)) (s : State) : Host.Outcome State Fault Refusal :=
  queueOp (.qtake o st) o false false false (statusOpd st) s
/-- QSTEAL (R337). -/
def execQsteal (o : Ops) (st : Option (Fin 15)) (s : State) : Host.Outcome State Fault Refusal :=
  queueOp (.qsteal o st) o false true false (statusOpd st) s

/-! ### Task records (R340 to R342) -/

/-- The kernel field that TASKNEW and SUSPEND write. -/
def taskKernel (c : Iss) : Word := if isCtl c.key then BitVec.ofNat 64 (bits c.w.tkernel 55 0) else BitVec.ofNat 64 c.w.kernel

/-- Register d + i of a lane. -/
def runReg (s : State) (w : Wave) (d : Opd) (i l : Nat) : Word :=
  match d with
  | .v n => w.vread s.epoch (n.val + i) l
  | .s n => w.sread s.epoch (n.val + i)
  | _ => 0

/-- Words 0x10 and up of a record: kernel, nreg and pc, and the registers. -/
def taskTail (s : State) (c : Iss) (o : Ops) (nreg : Nat) (pc : Word) (l : Nat) : List (Nat × Word) :=
  (0x10, taskKernel c) :: (0x18, BitVec.ofNat 64 (nreg * 2 ^ 56 + bits pc 55 0))
    :: (List.range nreg).map fun i => (0x20 + 8 * i, runReg s c.w o.d i l)

/-- What translation makes of the words of a task instruction (R49, R52, R53): the count words with a right of their own,
the others as stores. The accesses that go on with their words, and those that park, each with its right. -/
inductive TaskGate
  | stop (t : Trap) (va : Word)
  | wait (s : State)
  | go (ok : List ((Nat × Word × Nat) × Nat × Word)) (park : List (Need × List (LaneXl × Trap)))

def taskGate (s : State) (c : Iss) (need : Need) (at_ : Nat → Word) (ws : List (Nat × Nat × Word)) : TaskGate :=
  let isCount := fun (p : Nat × Nat × Word) => p.2.1 == 0
  let counts := ws.filter isCount
  let rest := ws.filter fun p => !isCount p
  let look := fun (s : State) (need : Need) (ws : List (Nat × Nat × Word)) =>
    gate s c.key c.w need (ws.map fun p => (p.1, at_ p.1 + BitVec.ofNat 64 p.2.1))
  let words := fun (ok : List (Nat × Word × Nat)) (ws : List (Nat × Nat × Word)) => ok.filterMap fun x =>
    (ws.find? fun p => p.1 == x.1 && at_ p.1 + BitVec.ofNat 64 p.2.1 == x.2.1).map fun p => (x, p.2)
  match look s need counts, look s .write rest with
  | .stop t _ va, _ => .stop t va
  | _, .stop t _ va => .stop t va
  | .wait s', _ => .wait (match look s' .write rest with | .wait s'' => s'' | _ => s')
  | _, .wait s' => .wait s'
  | .go ok1 park1, .go ok2 park2 =>
    .go (words ok1 counts ++ words ok2 rest)
      [(need, park1), (.write, park2.filter fun y => !(park1.any fun x => x.1.lane == y.1.lane))]

/-- The checks of a task instruction on each lane's record address, then its translations (R54, R341): lanes that park stay
at the word, and `go` performs it for the others, whose group is given. -/
def taskIssue (s : State) (c : Iss) (o : Ops) (f : LitSel) (need : Need) (words : Nat → List (Nat × Word))
    (go : State → Mask → List Acc → List TaskDec → State) : Res :=
  let sel := selOf s c o
  let ls := lanesOf sel
  let at_ := fun l => readSrc s c.w o f b64 l
  let high := ls.filter fun l => bits (at_ l) 63 56 != 0
  let odd := ls.filter fun l => (at_ l).toNat % 32 != 0
  let stop := fun (t : Trap) (m : List Nat) => Res.trap t sel (at_ ((m.head?).getD 0)) 0
  if ls.isEmpty then .done (idleFor s c false false [.t, .d, .k])
  else if !high.isEmpty then stop .vaRange high
  else if !odd.isEmpty then stop .misaligned odd
  else if counterFull c.w false [.t, .d, .k] then .hold s false 7
  else
    match taskGate s c need at_ (ls.flatMap fun l => ((0, 0) :: words l).map fun p => (l, p.1, p.2)) with
    | .stop t va => .trap t sel (if t == .vaRange || t == .memUncorr then va else 0) 0
    | .wait s' => .walk s'
    | .go ok park =>
      let parked := maskOf (park.flatMap fun p => p.2.map fun x => x.1.lane)
      let live := c.mask &&& ~~~parked
      let both := ok.filter fun p => live.getLsbD p.1.1
      if ok.any fun p => !isDev p.1.2.2 then .trap .atomicTarget sel 0 0
      else if !both.isEmpty && mustWait s c then holdToRound s c
      else
        let counts := (both.filter fun p => p.2.1 == 0).map fun p => ({ lane := p.1.1, va := p.1.2.1, pa := p.1.2.2 } : TaskDec)
        let accs := both.map fun p => ({ lane := p.1.1, va := p.1.2.1, pa := p.1.2.2, n := 8, data := p.2.2 } : Acc)
        let s := park.foldl (fun s p => if p.2.isEmpty then s else parkLanes s c.key (dieOf c.key) p.1 c.pc p.2 none) s
        .moved (if both.isEmpty then s.updWave c.key fun w => w.stepLanes live 1 else go s live accs counts)

/-- The store transaction of a task instruction. -/
def taskTx (c : Iss) (sel : Mask) : Tx :=
  { baseTx c .store .k .b64 sel with owed := [.t, .d, .k] }

/-- TASKNEW (R341): a whole record in each selected lane. -/
def execTasknew (o : Ops) (nreg : Fin 17) (s : State) : Host.Outcome State Fault Refusal :=
  s.issue (.tasknew o nreg) fun s c =>
    let cnt := fun l => readSrc s c.w o .b b64 l
    taskIssue s c o .a .write
      (fun l => (8, 0) :: taskTail s c o nreg.val (readSrc s c.w o .c b64 l) l)
      fun s live accs counts =>
        let accs := accs.map fun a =>
          if counts.any fun p => p.lane == a.lane && p.pa == a.pa then { a with data := cnt a.lane } else a
        let ready := counts.filter fun p => cnt p.lane == 0
        (launchTx s c { taskTx c (selOf s c o &&& live) with accs, tasks := ready }).updWave c.key fun w => w.stepLanes live 1

/-- TASKDEC (R341): the group waits for the old counts. -/
def execTaskdec (o : Ops) (s : State) : Host.Outcome State Fault Refusal :=
  s.issue (.taskdec o) fun s c =>
    taskIssue s c o .a .both (fun _ => []) fun s live _ counts =>
      let n := s.fresh
      let s := launchTx s c { taskTx c (selOf s c o &&& live) with dst := o.d, tasks := counts }
      let s := (List.range counts.length).foldl (fun s i => s.post (.taskDec n i)) s
      s.updWave c.key fun w => w.startWait live (.reply n)

/-- SUSPEND (R49, R341): count and value stay as they are; once the stores have completed at .k the count falls and the lane
exits. -/
def execSuspend (o : Ops) (nreg : Fin 17) (s : State) : Host.Outcome State Fault Refusal :=
  s.issue (.suspend o nreg) fun s c =>
    taskIssue s c o .a .both (fun l => taskTail s c o nreg.val (readSrc s c.w o .b b64 l) l)
      fun s live accs counts =>
        let sel := selOf s c o &&& live
        let n := s.fresh
        let accs := accs.filter fun a => !(counts.any fun p => p.lane == a.lane && p.pa == a.pa)
        let s := launchTx s c { taskTx c sel with accs, tasks := counts, suspend := true }
        s.updWave c.key fun w => (w.stepLanes (live &&& ~~~sel) 1).startWait sel (.suspend n)

/-! ### Traps and breakpoints (R343) -/

/-- TRAP (R343). -/
def execTrap (o : Ops) (code : BitVec 7) (s : State) : Host.Outcome State Fault Refusal :=
  s.issue (.trap o code) fun s c =>
    let sel := selOf s c o
    if sel == 0 then .done s else .trap .user sel (readSrc s c.w o .a b64 (lowest sel)) code.toNat

/-- BRKPT (R343, R395). -/
def execBrkpt (o : Ops) (code : BitVec 7) (s : State) : Host.Outcome State Fault Refusal :=
  let s := match s.cur with | some c => s.note (dieOf c.wave) 20 | none => s
  s.issue (.brkpt o code) fun s c =>
    if bit (s.reg (dieOf c.key) 0x5000) 62 then .trap .breakpoint c.mask 0 code.toNat else .done s

/-! ### Special registers (R344, R345) -/

/-- PLACE (R344). -/
def placeWord (key : Nat) : Word :=
  if isCtl key then BitVec.ofNat 64 (2 ^ 16 + dieOf key * 2 ^ 14 + key % 2 * 2 ^ 8)
  else BitVec.ofNat 64 (dieOf key * 2 ^ 14 + coreOf key % 64 * 2 ^ 8 + sliceOf key * 2 ^ 5 + slotOf key)

/-- A destination of every lane of the group, or a scalar once. -/
def giveAll (s : State) (c : Iss) (o : Ops) (x : Word) : State := s.updWave c.key fun w => writeAll w o.d c.mask fun _ => x

/-- A logged value given to the destination; none holds the word (R407). -/
def giveLogged (c : Iss) (o : Ops) (r : Option (State × Word)) (s : State) : Res :=
  match r with
  | some (s, x) => .done (giveAll s c o x)
  | none => .hold s false 18

/-- SRGET (R344). -/
def execSrget (o : Ops) (num : BitVec 10) (s : State) : Host.Outcome State Fault Refusal :=
  s.issue (.srget o num) fun s c =>
    let n := num.toNat
    if n = 0 then .done (giveAll s c o c.w.fpctl)
    else if n = 1 then .done (giveAll s c o c.w.fpflags)
    else if n = 2 then .done (giveAll s c o c.w.srseed)
    else if n = 3 then .done (giveAll s c o c.w.srcnt)
    else if 0x10 ≤ n && n < 0x1C then .done (giveAll s c o (((c.w.fst[n - 0x10]?).getD 0).zeroExtend 64))
    else if n = 0x20 then giveLogged c o (logged s c logThermal (s.core (clockOf c.key)).thermal) s
    else if n = 0x21 then giveLogged c o (logged s c logPlace (placeWord c.key)) s
    else if n = 0x22 then .done (giveAll s c o (BitVec.ofNat 64 c.w.ctx))
    else if n = 0x28 && isCtl c.key then .done (giveAll s c o c.w.tkernel)
    else .stop c .illegalInstruction

/-- SRSET (R344): reserved bits of a written value are ignored. -/
def execSrset (o : Ops) (num : BitVec 10) (s : State) : Host.Outcome State Fault Refusal :=
  s.issue (.srset o num) fun s c =>
    let n := num.toNat
    let x := readSrc s c.w o .a b64 0
    let low := fun k => BitVec.ofNat 64 (x.toNat % 2 ^ k)
    let put := fun (f : Wave → Wave) => Res.done (s.updWave c.key f)
    if n = 0 then put fun w => { w with fpctl := low 2 }
    else if n = 1 then put fun w => { w with fpflags := low 5 }
    else if n = 2 then put fun w => { w with srseed := x }
    else if n = 3 then put fun w => { w with srcnt := low 48 }
    else if 0x10 ≤ n && n < 0x1C then
      put fun w => if w.flag (n - 0x10) then w else { w with fst := w.fst.set (n - 0x10) (BitVec.ofNat 32 x.toNat) }
    else if n = 0x28 && isCtl c.key then put fun w => { w with tkernel := low 56 }
    else .stop c .illegalInstruction

/-- PCGET (R345). -/
def execPcget (o : Ops) (off : BitVec 20) (s : State) : Host.Outcome State Fault Refusal :=
  s.issue (.pcget o off) fun s c => .done (giveAll s c o (offPc c off))

/-- CLKGET (R345): the result is logged under recording (R407). -/
def execClkget (o : Ops) (s : State) : Host.Outcome State Fault Refusal :=
  s.issue (.clkget o) fun s c =>
    giveLogged c o (logged s c logClk (BitVec.ofNat 64 (s.now (clockOf c.key)))) s

/-- SEQGET (R345). -/
def execSeqget (o : Ops) (s : State) : Host.Outcome State Fault Refusal :=
  s.issue (.seqget o) fun s c => .done (giveAll s c o (c.w.seq.zeroExtend 64))

/-- SEQSET (R345). -/
def execSeqset (o : Ops) (s : State) : Host.Outcome State Fault Refusal :=
  s.issue (.seqset o) fun s c =>
    .done (s.updWave c.key fun w => { w with seq := BitVec.ofNat 32 (readSrc s c.w o .a b64 0).toNat })

/-! ### Save and restore (R346 to R349) -/

/-- DIVGET (R346): outside a save routine the stop point is the word's own address. -/
def execDivget (o : Ops) (s : State) : Host.Outcome State Fault Refusal :=
  s.issue (.divget o) fun s c =>
    let sel := selOf s c o
    .done (s.updWave c.key fun w => (lanesOf sel).foldl (fun (w : Wave) l =>
      let a := c.w.lane l
      let (pc, dd) := a.stop.getD (c.pc, a.dd)
      writeDst w o.d l (BitVec.ofNat 64 (dd.toNat * 2 ^ 56 + bits pc 55 0))) w)

/-- DIVSET (R346): each selected lane resumes at a stop point with the depth given. -/
def execDivset (o : Ops) (s : State) : Host.Outcome State Fault Refusal :=
  s.issue (.divset o) fun s c =>
    let sel := selOf s c o
    let src := fun l => readSrc s c.w o .a b64 l
    let odd := (lanesOf sel).filter fun l => (src l).toNat % 8 != 0
    if !odd.isEmpty then .trap .misaligned sel (BitVec.ofNat 64 (bits (src ((odd.head?).getD 0)) 55 0)) 0
    else .moved (s.updWave c.key fun w =>
      let w := w.sendLanes sel fun l => BitVec.ofNat 64 (bits (src l) 55 0)
      let w := w.mapLanes sel fun l x => { x with dd := BitVec.ofNat 8 (bits (src l) 63 56), cl := .resume }
      let w := if w.quantum.routine then { w with quantum := { ended := true } } else w
      (w.stepLanes (c.mask &&& ~~~sel) 1).mergeHolds)

/-- FLGGET (R347). -/
def execFlgget (o : Ops) (s : State) : Host.Outcome State Fault Refusal :=
  s.issue (.flgget o) fun s c =>
    let f := fun i => (c.w.flags[i]?).getD 0 % 256
    let lo := ((List.range 8).map fun i => f i * 2 ^ (8 * i)).sum
    let hi := ((List.range 4).map fun i => f (8 + i) * 2 ^ (8 * i)).sum + c.w.engc % 256 * 2 ^ 32
    .done (s.updWave c.key fun w => writeRun w (firstOf o.d) [BitVec.ofNat 64 lo, BitVec.ofNat 64 hi])

/-- FLGSET (R347). -/
def execFlgset (o : Ops) (s : State) : Host.Outcome State Fault Refusal :=
  s.issue (.flgset o) fun s c =>
    let ws := scalarRun s c.w o.a 2
    let lo := (ws[0]?).getD 0
    let hi := (ws[1]?).getD 0
    .done (s.updWave c.key fun w =>
      { w with flags := (List.range 12).map fun i =>
                 if i < 8 then bits lo (8 * i + 7) (8 * i) else bits hi (8 * (i - 8) + 7) (8 * (i - 8)),
               engc := bits hi 39 32 })

/-- LSDET (R348): acts on the registration of the wave, leashed or adopted. -/
def execLsdet (o : Ops) (s : State) : Host.Outcome State Fault Refusal :=
  s.issue (.lsdet o) fun s c =>
    let va := readSrc s c.w o .a b64 0
    if bits va 63 56 != 0 then .trap .vaRange c.mask va 0
    else if va.toNat % 32 != 0 then .trap .misaligned c.mask va 0
    else
      match gate s c.key c.w .both [(lowest c.mask, va)] with
      | .stop t _ v => .trap t c.mask (if t == .memUncorr then v else 0) 0
      | .wait s' => .walk s'
      | .go ok park =>
        match ok.head? with
        | none => .moved (parkLanes s c.key (dieOf c.key) .both c.pc park (some c.mask))
        | some (_, _, pa) =>
          if !isDev pa then .trap .atomicTarget c.mask 0 0
          else
            match c.w.leash <|> c.w.adopted with
            | none => .done (s.updWave c.key fun w => writeRun w (firstOf o.d) [0, 0, 0, 0])
            | some r =>
              let n := s.fresh
              .moved ((s.post (.detach c.key c.w.serial r.token r.pa pa (firstOf o.d))).updWave c.key fun w =>
                w.startWait c.mask (.reply n))

/-- LSATT (R349). -/
def execLsatt (o : Ops) (s : State) : Host.Outcome State Fault Refusal :=
  s.issue (.lsatt o) fun s c =>
    let ws := scalarRun s c.w o.a 4
    let w0 := (ws[0]?).getD 0
    let give := fun (x : Word) => Res.done (s.updWave c.key fun w => writeDst w o.d 0 x)
    if bits w0 63 62 != 1 then give 2
    else
      match LCmp.ofCode (bits w0 61 58) with
      | none => give 1
      | some cmp =>
        let n := s.fresh
        let e : LeashEntry :=
          { st := .waiting, cmp, wide := bit w0 57, pa := bits w0 51 0, operand := (ws[1]?).getD 0, wave := c.key,
            serial := c.w.serial, ctx := c.w.ctx, token := bits ((ws[2]?).getD 0) 63 32, order := n }
        let dst := match o.d with | .s k => k.val | _ => 256
        .moved ((s.post (.attach c.key c.w.serial dst (bits ((ws[3]?).getD 0) 20 0) e)).updWave c.key fun w =>
          w.startWait c.mask (.reply n))

/-! ### Hints (R350) -/

/-- YIELD (R350): the group counts as waiting for the rest of the slice cycle. -/
def execYield (o : Ops) (s : State) : Host.Outcome State Fault Refusal :=
  s.issue (.yield o) fun s c => .moved (s.updWave c.key fun w => (w.stepLanes c.mask 1).startWait c.mask .yield)

/-- PWRHINT (R350, R423): counted, and the wave's latest code is kept. -/
def execPwrhint (o : Ops) (code : BitVec 2) (s : State) : Host.Outcome State Fault Refusal :=
  s.issue (.pwrhint o code) fun s c =>
    .done ((s.count (dieOf c.key) (0x4200 + 32 * clusterOf (coreOf c.key) + 8 * code.toNat)).updWave c.key fun w =>
      { w with hint := code })

/-- RATIO (R350). -/
def execRatio (o : Ops) (code : BitVec 2) (s : State) : Host.Outcome State Fault Refusal :=
  s.issue (.ratio o code) fun s c => .done (s.updWave c.key fun w => { w with ratio := code })

end Sys2Proof.Machine
end

