-- ==== Sys2Proof/Machine/MatrixOps.lean ====
section
/-! DEFINITION. What the matrix array computes (14_isa_matrix.md R252 to R264, R267, R270 to R273; 07_number_formats.md
R111 to R114, R125, R127): operand classes, tiles as it reads them, the sums of one row of one k-step, element
conversions, and what a write to an operand in flight leaves undefined (09_registers.md R155). -/

namespace Sys2Proof.Machine

/-! ### Operand classes (R254) -/

/-- A pair of operand classes: k per step, products per k-group (R125), an .i32 accumulator, and a Q class. -/
structure MClass where
  kb : Nat
  group : Nat
  int : Bool := false
  q : Bool := false
  mx : Bool := false
deriving DecidableEq, Repr

/-- The class of an activation type and kind with a weight type and kind. -/
def mclass (ta : ETy) (ka : Nat) (tw : ETy) (kw : Nat) : Option MClass :=
  let both := fun (l : List ETy) => l.contains ta && l.contains tw
  if both [.e5m2, .e4m3] && ka ≤ 1 && kw ≤ 1 then some { kb := 64, group := 32 }
  else if both [.mxi8] && ka == 1 && kw == 1 then some { kb := 64, group := 32, mx := true }
  else if both [.e3m2, .e2m3, .e2m1] && ka ≤ 1 && kw ≤ 1 then some { kb := 128, group := 32 }
  else if (both [.bf16] || both [.f16]) && ka == 0 && kw == 0 then some { kb := 32, group := 16 }
  else if both [.f32] && ka == 0 && kw == 0 then some { kb := 8, group := 8 }
  else if both [.i8, .n8] && ka == 0 && kw == 0 then some { kb := 64, group := 32, int := true }
  else if [ETy.e5m2, .e4m3, .bf16, .f16].contains ta && ka == 0 && kw == 2 then
    if tw == .q8 then some { kb := 64, group := 32, q := true }
    else if tw == .q4 then some { kb := 128, group := 32, q := true }
    else none
  else none

/-- k per step of a weight type alone (R260). -/
def weightKb : ETy → Option Nat
  | .e5m2 | .e4m3 | .mxi8 | .i8 | .n8 | .q8 => some 64
  | .e3m2 | .e2m3 | .e2m1 | .q4 => some 128
  | .bf16 | .f16 => some 32
  | .f32 => some 8
  | _ => none

/-- The K of a weight tile: a pruned one holds the kept elements (R254). -/
def TEnt.k (e : TEnt) : Nat := e.tc / (pruneOf e.prune).2 * (pruneOf e.prune).1

/-! ### Tiles as bytes (R114, R134) -/

/-- The bytes of a tile buffer, by offset. -/
abbrev Img := Nat → Byte

def tileImg (s : State) (core tb : Nat) : Img :=
  match tileAt s core tb with
  | some t => fun o => sramByte s core (t.base * 128 + o)
  | none => fun _ => 0

def imgNat (m : Img) (o n : Nat) : Nat := ofBytes ((List.range n).map fun i => m (o + i))
/-- n bits at a bit offset of an area. -/
def imgBits (m : Img) (base off n : Nat) : Nat :=
  imgNat m (base + off / 8) ((off % 8 + n + 7) / 8) / 2 ^ (off % 8) % 2 ^ n

/-- An element as the array reads it: its code, and the codes of its scale and zero point. -/
structure Cell where
  code : Nat
  scale : Nat := 0
  zero : Nat := 0
deriving DecidableEq, Repr

/-- The element of a tile at row i, stored column c. -/
def tileCell (e : TEnt) (m : Img) (i c : Nat) : Cell :=
  let b := fmtBits e.fmt
  let code := imgBits m (i * e.rowBytes) (c * b) b
  if e.kind = 1 then { code, scale := imgNat m (e.scaleOff + i * (e.tc / 32) + c / 32) 1 }
  else if e.kind = 2 then
    let g := i * (e.tc / e.group) + c / e.group
    { code, scale := imgNat m (e.scaleOff + 2 * g) 2, zero := imgBits m e.zeroOff (g * b) b }
  else { code }

/-- The value of an element: block scales included (R111), group-quantised ones exact (R112); NV where an infinite
scale meets q = z. -/
def cellVal (t : ETy) (kind : Nat) (fz : Bool) (x : Cell) : Val × Fl :=
  if kind = 2 then qVal x.scale x.zero x.code
  else if kind = 1 then
    if x.scale = 255 then (.qnan, 0)
    else
      match (if t == .mxi8 then Val.num (.ofInt (sext x.code 8) (-6)) else srcVal t fz x.code) with
      | .num v => (.num (v.scale ((x.scale : Int) - 127)), 0)
      | v => (v, 0)
  else (srcVal t fz x.code, 0)

/-- Whether a weight counts as zero (R127). -/
def zeroWeight (t : ETy) (fz skc : Bool) (x : Cell) : Bool :=
  match fmtOf t with
  | some f =>
    let c := x.code % 2 ^ f.width
    c % 2 ^ (f.eb + f.mb) == 0 || (skc && fz && f.eb != 11 && f.subnormal c)
  | none => if t == .q4 || t == .q8 then x.code == x.zero else x.code == 0

/-! ### Sums (R125, R262) -/

/-- A weight of a step: its cell, and whether its product is skipped. -/
structure Wt where
  cell : Cell
  skip : Bool
deriving DecidableEq, Repr

/-- How a multiply form chooses the products it sums (R263). -/
inductive Skip
  | dense
  | code
  | bitmap (m : Img) (e : TEnt)
  | pruned

/-- The weights of column j for k from lo on, n of them. A pruned tile holds only the kept ones. -/
def weights (e : TEnt) (m : Img) (t : ETy) (fz skc : Bool) (how : Skip) (j lo n : Nat) : List Wt :=
  (List.range n).map fun i =>
    let k := lo + i
    match how with
    | .dense => { cell := tileCell e m j k, skip := false }
    | .code => let x := tileCell e m j k; { cell := x, skip := zeroWeight t fz skc x }
    | .bitmap bm be =>
      let x := tileCell e m j k
      { cell := x, skip := !((bm (j * be.rowBytes + k / 8)).getLsbD (k % 8)) || zeroWeight t fz skc x }
    | .pruned =>
      let (run, kept) := pruneOf e.prune
      let bits := log2n run
      match (List.range kept).find? fun q =>
          imgBits m (e.metaOff + j * e.metaRow) ((k / run * kept + q) * bits) bits == k % run with
      | some q => let x := tileCell e m j (k / run * kept + q); { cell := x, skip := zeroWeight t fz skc x }
      | none => { cell := { code := 0 }, skip := true }

/-- One k-group added to an .f32 accumulator (R125): rounded once; with no product summed it stays as it is. -/
def groupAdd (fz : Bool) (ps : List (Val × Fl)) (acc : Nat) : Nat × Fl :=
  if ps.isEmpty then (acc, 0)
  else
    let g := dotSum false ps
    let x := srcVal .f32 fz acc
    let v := Val.add false g.1 x
    El.fin .f32 { fz } (v.1, g.2 ||| v.2 ||| x.sigFl)

/-- A list cut into runs of n. -/
def chunk {α : Type} (n : Nat) : Nat → List α → List (List α)
  | 0, _ => []
  | fuel + 1, xs => if xs.isEmpty then [] else xs.take n :: chunk n fuel (xs.drop n)

/-- A product of the step, or none where it is skipped, with the flags it raises: SKNF for a skipped one whose
activation is infinite or a NaN (R127). -/
def product (a : Val × Fl) (w : Wt) (tw : ETy) (kw : Nat) (fz : Bool) : Option (Val × Fl) × Fl :=
  if w.skip then (none, if a.1.isNan || a.1.isInf then .sknf else 0)
  else
    let b := cellVal tw kw fz w.cell
    let p := Val.mul a.1 b.1
    (some (p.1, p.2 ||| a.2 ||| b.2), 0)

/-- One element's sum over one k-step. -/
def stepSum (c : MClass) (ta tw : ETy) (ka kw : Nat) (fz : Bool) (as : List Cell) (ws : List Wt) (acc : Nat) : Nat × Fl :=
  if c.int then
    (toBits 32 ((acc : Int) + ((as.zip ws).map fun p =>
      if p.2.skip then 0 else tyInt ta p.1.code * tyInt tw p.2.cell.code).sum), 0)
  else
    let ps := (as.zip ws).map fun p => product (cellVal ta ka fz p.1) p.2 tw kw fz
    (chunk c.group ps.length ps).foldl (fun (x : Nat × Fl) g =>
      let r := groupAdd fz (g.filterMap Prod.fst) x.1
      (r.1, g.foldl (fun f p => f ||| p.2) (x.2 ||| r.2))) (acc, 0)

/-! ### Elements to and from tiles (R272, R273) -/

/-- The tile's element type and width: none for the raw 4-byte format. -/
def tileTy (e : TEnt) : Option ETy := fmtType e.fmt

/-- The value of an accumulator element. -/
def accVal (int fz : Bool) (x : Nat) : Val := if int then .num (.ofInt (sext x 32)) else srcVal .f32 fz x

/-- MSTA: one row's elements in a tile's format, with the scale codes of its blocks of 32. -/
def rowToTile (e : TEnt) (int fz rz : Bool) (xs : List Nat) : List Nat × List Nat × Fl :=
  let r : Rc := { fz, mode := if rz then .rz else .rne }
  match tileTy e with
  | none => (xs, [], 0)
  | some t =>
    if e.kind = 1 then
      let blocks := (chunk 32 xs.length xs).map fun b =>
        let vs := b.map (accVal int fz)
        let sc := blockScale t vs
        (vs.map (toBlock t r sc), sc)
      let all := blocks.flatMap Prod.fst
      (all.map Prod.fst, blocks.map Prod.snd, all.foldl (fun f x => f ||| x.2) 0)
    else
      let all := xs.map fun x => convert (if int then .i32 else .f32) t r x
      (all.map Prod.fst, [], all.foldl (fun f x => f ||| x.2) 0)

/-- MLDA: one tile element in the handle's type. -/
def cellToAcc (e : TEnt) (int fz : Bool) (code : Nat) : Nat × Fl :=
  match tileTy e with
  | none => (code, 0)
  | some t => convert t (if int then .i32 else .f32) { fz } code

/-- The bits at a bit offset of a tile's area replaced. -/
def putBits (s : State) (core base off n x : Nat) : State :=
  let a := base + off / 8
  let k := (off % 8 + n + 7) / 8
  let old := sramRead s core a k
  let lo := off % 8
  let new := old - old / 2 ^ lo % 2 ^ n * 2 ^ lo + x % 2 ^ n * 2 ^ lo
  { (s.updCore core fun c => { c with sram := (bytesOf new k).zipIdx.foldl (fun m p => Map.set m (a + p.2) p.1) c.sram }) with }

/-! ### The operation of an instruction -/

/-- The tile and mode of a queued operation's instruction. -/
structure MForm where
  handle : Option (Fin 16)
  w : Option WCtl := none
  /-- the tile of MLDW, MSTA or MLDA -/
  tb : Option (BitVec 6) := none
  mode : Option SMode := none
  q : Bool := false
  /-- MMAX's activation type and entry -/
  joint : Option (ETy × BitVec 2) := none
deriving DecidableEq, Repr

def accIdx (o : Opd) : Option (Fin 16) := match o with | .acc n => some n | _ => none

/-- The queued operations (R275). -/
def mform (i : Instr) : Option MForm :=
  match i with
  | .mldw _ tb => some { handle := none, tb := some tb }
  | .mma o w => some { handle := accIdx o.d, w := some w }
  | .mmas o w m => some { handle := accIdx o.d, w := some w, mode := some m }
  | .mmaq o w => some { handle := accIdx o.d, w := some w, q := true }
  | .mmax o t w e => some { handle := accIdx o.d, w := some w, joint := some (t, e) }
  | .msta o tb _ => some { handle := accIdx o.d, tb := some tb }
  | .mlda o tb => some { handle := accIdx o.d, tb := some tb }
  | .mscale o => some { handle := accIdx o.d }
  | .mcvt o _ => some { handle := accIdx o.d }
  | _ => none

/-- The operand fields of a queued operation. -/
def mops (i : Instr) : Option Ops :=
  match i with
  | .mldw o _ | .mma o _ | .mmas o _ _ | .mmaq o _ | .mmax o _ _ _ | .msta o _ _ | .mlda o _ | .mscale o | .mcvt o _ => some o
  | _ => none

/-- The activation word (R261). -/
structure ActWord where
  mem : Bool
  id : Nat
  o1 : Nat
  o0 : Nat
  clean : Bool
deriving DecidableEq, Repr

def actWord (a : Word) : ActWord :=
  { mem := bit a 63, id := bits a 55 48, o1 := bits a 31 16, o0 := bits a 15 0,
    clean := bits a 62 56 == 0 && bits a 47 32 == 0 && (bit a 63 || bits a 55 54 == 0) }

/-- The tiles that an operation names. -/
def mtiles (f : MForm) (a : ActWord) : List Nat :=
  (f.w.toList.map fun w => w.tb.toNat) ++ (f.tb.toList.map BitVec.toNat)
    ++ (if f.w.isSome && f.joint.isNone && !a.mem then [a.id] else [])
    ++ (match f.mode with | some (.bitmap tb) => [tb.toNat] | _ => [])

/-- Whether an element type of a class, weight tile and form fit together (R261, R263). -/
def formFits (f : MForm) (c : MClass) (ew : TEnt) : Bool :=
  c.q == f.q && (match f.mode with
    | some .pruned => ew.prune != 0 && !c.mx
    | _ => true)

/-- The checks of R261 and R263 that need the weight tile and the activation's type alone. -/
def weightFits (f : MForm) (ta : ETy) (ka : Nat) (ew : TEnt) (h : Hnd) : Bool :=
  match fmtType ew.fmt with
  | none => false
  | some tw =>
    match mclass ta ka tw ew.kind with
    | none => false
    | some c => formFits f c ew && ew.tr == h.cols && ew.k % c.kb == 0 && h.ty == (if c.int then 1 else 0)

/-- The checks of MMAS's mode that need only tiles (R263). -/
def modeFits (f : MForm) (ew : TEnt) (bm : Option TEnt) : Bool :=
  match f.mode with
  | none => ew.prune == 0
  | some .code => ew.prune == 0
  | some .pruned => ew.prune != 0
  | some (.bitmap _) =>
    match bm with
    | some b => ew.prune == 0 && b.fmt == 0x20 && b.kind == 0 && b.tr == ew.tr && b.tc == ew.k / 8
    | none => false

/-- The shape of a weight tile's steps; 0 where its type has no class. -/
def stepsOf (ew : TEnt) : Nat := match (fmtType ew.fmt).bind weightKb with | some kb => ew.k / kb | none => 0

end Sys2Proof.Machine
end

