-- ==== Sys2Proof/Machine/Matrix.lean ====
section
/-! DEFINITION. The meanings of the matrix instructions, opcodes 0x1C0 to 0x1D3 (14_isa_matrix.md R255 to R276): the
checks at issue, handles and pairing, the operation queue of an array, the scoreboard, drains, and the saving of
operations. What the array does with its queue is `MatrixRun`. -/

namespace Sys2Proof.Machine

/-! ### Teams, arrays and handles (R252, R257 to R259) -/

/-- The cores whose arrays serve a team. -/
def arraysOf (t : Team) : List Nat := if t.pair then [t.core, t.core + 1] else [t.core]

/-- Whether an array of the team's cores holds an operation of the team (R257). -/
def teamBusy (s : State) (tn : Nat) : Bool :=
  (arraysOf (s.team tn)).any fun c => (s.core c).mq.any fun q => q.team == tn

/-- The area of a team (R154). -/
def areaSize (t : Team) : Nat := if t.pair then 2 * t.accSize else t.accSize

/-- A tile of a pair crosses offset A (R258). -/
def crosses (t : Team) (h : Hnd) : Bool :=
  t.pair && h.base * 32 < t.accSize && t.accSize < h.base * 32 + h.rows * h.cols * 4

/-- What MBIND refuses (R258). -/
def badHandle (t : Team) (x : Word) : Bool :=
  let h := hnd x
  !h.v || h.ty ≥ 2 || bit x 60 || bits x 42 14 != 0 || h.base * 32 + h.rows * h.cols * 4 > areaSize t
    || (crosses t h && (!t.paired || (t.accSize - h.base * 32) % (h.cols * 4) != 0))

def setHandle (s : State) (tn n : Nat) (x : Word) : State :=
  s.updTeam tn fun t => { t with handles := t.handles.set n x }

def handleAt (t : Team) (o : Opd) : Word := match accIdx o with | some n => (t.handles[n.val]?).getD 0 | none => 0
def handleNo (o : Opd) : Nat := match accIdx o with | some n => n.val | none => 0

/-- An instruction of R257: held while the team's arrays hold an operation of the team, then at once. -/
def whenIdle (s : State) (c : Iss) (k : Team → Res) : Res :=
  if teamBusy s c.w.team then .hold s false 13 else k (s.team c.w.team)

/-- Every element of a handle's tile that a test admits set to zero. -/
def zeroTile (s : State) (t : Team) (h : Hnd) (rows : Nat → Bool) : State :=
  (List.range h.rows).foldl (fun s i =>
    if rows i then (List.range h.cols).foldl (fun s j => setAccElem s t h i j 0) s else s) s

/-- MBIND (R257, R258). -/
def execMbind (o : Ops) (s : State) : Host.Outcome State Fault Refusal :=
  s.issue (.mbind o) fun s c =>
    whenIdle s c fun t =>
      let x := readSrc s c.w o .a b64 0
      if badHandle t x then .stop c .matrixShape else .done (setHandle s c.w.team (handleNo o.d) x)

/-- MUNBIND (R257). -/
def execMunbind (o : Ops) (s : State) : Host.Outcome State Fault Refusal :=
  s.issue (.munbind o) fun s c =>
    whenIdle s c fun t =>
      if bit (handleAt t o.d) 63 then .done (setHandle s c.w.team (handleNo o.d) 0) else .stop c .accUnbound

/-- MZERO (R257). -/
def execMzero (o : Ops) (s : State) : Host.Outcome State Fault Refusal :=
  s.issue (.mzero o) fun s c =>
    whenIdle s c fun t =>
      if bit (handleAt t o.d) 63 then .done (zeroTile s t (hnd (handleAt t o.d)) fun _ => true) else .stop c .accUnbound

/-- MPAIR (R257, R258). -/
def execMpair (o : Ops) (paired : Bool) (s : State) : Host.Outcome State Fault Refusal :=
  s.issue (.mpair o paired) fun s c =>
    whenIdle s c fun t =>
      if paired && !t.pair then .stop c .matrixPair
      else if !paired && t.handles.any fun x => bit x 63 && crosses t (hnd x) then .stop c .matrixShape
      else
        .done ((s.updTeam c.w.team fun t => { t with paired }).updWave c.key fun w =>
          writeAll w o.d c.mask fun _ => if t.paired then 1 else 0)

/-- MSWAP (R260): the planes of a team's arrays change places. -/
def execMswap (o : Ops) (s : State) : Host.Outcome State Fault Refusal :=
  s.issue (.mswap o) fun s c =>
    whenIdle s c fun t =>
      .done ((arraysOf t).foldl (fun s a => s.updCore a fun k => { k with active := k.shadow, shadow := k.active }) s)

/-! ### Checks of queued operations (R256, R260, R261, R263, R267, R272, R273) -/

/-- The shape of an operation against its handle and tiles. `mask` and `nv` are MMAX's; a resumed MCVT has already
rewritten its handle's type (R275). -/
def mshapeOk (t : Team) (i : Instr) (f : MForm) (h : Hnd) (a : Word) (mask : BitVec 32) (width nv : Nat) (resumed : Bool) :
    Bool :=
  let geom := fun (tb : Nat) => tileGeom t tb
  match i with
  | .mldw _ tb => match geom tb.toNat with | some e => decide (a.toNat < stepsOf e) | none => false
  | .mma _ w | .mmas _ w _ | .mmaq _ w =>
    let x := actWord a
    match geom w.tb.toNat with
    | none => false
    | some ew =>
      let bm := match f.mode with | some (.bitmap tb) => geom tb.toNat | _ => none
      x.clean && modeFits f ew bm && (x.mem || match geom x.id with
        | none => false
        | some ea =>
          match fmtType ea.fmt with
          | none => false
          | some ta =>
            weightFits f ta ea.kind ew h && decide (x.o1 + h.rows ≤ ea.tr) && decide (x.o0 + ew.k ≤ ea.tc)
              && (ea.kind != 1 || x.o0 % 32 == 0))
  | .mmax o ty w _ =>
    match geom w.tb.toNat with
    | none => false
    | some ew =>
      let first := match o.a with | .v n => n.val | _ => 0
      modeFits f ew none && weightFits f ty 0 ew h && h.rows == popc mask * width
        && decide (first + ew.k / (64 / ty.width) ≤ nv)
  | .msta _ tb _ =>
    match geom tb.toNat with
    | none => false
    | some e => (!isRaw e.fmt || e.fmt == 0x22) && e.kind ≤ 1 && decide (h.rows ≤ e.tr) && decide (h.cols ≤ e.tc)
  | .mlda _ tb =>
    match geom tb.toNat with
    | none => false
    | some e => (!isRaw e.fmt || e.fmt == 0x22) && e.kind == 0 && decide (h.rows ≤ e.tr) && decide (h.cols ≤ e.tc)
  | .mscale _ => h.ty == 0
  | .mcvt _ toInt => h.ty == (if toInt != resumed then 0 else 1)
  | _ => false

/-- The trap of a queued operation at its issue, if any. -/
def mcheck (s : State) (t : Team) (i : Instr) (f : MForm) (a : Word) (mask : BitVec 32) (width nv : Nat)
    (resumed : Bool) : Option Trap :=
  let hx := match f.handle with | some n => (t.handles[n.val]?).getD 0 | none => 0
  if f.handle.isSome && !bit hx 63 then some .accUnbound
  else if f.w.isSome && f.joint.isNone && !(actWord a).clean then some .matrixShape
  else if (mtiles f (actWord a)).any fun tb => (tileAt s t.core tb).isNone then some .tileUnbound
  else if mshapeOk t i f (hnd hx) a mask width nv resumed then none
  else some .matrixShape

/-- Every tile that the operation names is READY (R106, R256). -/
def mtilesReady (s : State) (t : Team) (f : MForm) (a : Word) : Bool :=
  (mtiles f (actWord a)).all fun tb => (tileAt s t.core tb).any fun e => readyAt s t.core tb e

/-- The arrays in whose queues an operation takes an entry (R259, R274). -/
def queuesFor (t : Team) (f : MForm) (h : Hnd) : List Nat :=
  if !t.pair then [t.core]
  else if f.handle.isNone || t.paired then [t.core, t.core + 1]
  else [(accPlace t (accOff h 0 0)).1]

def queuesFull (s : State) (qs : List Nat) : Bool := qs.any fun c => (s.core c).mq.length ≥ 8

/-- The scalar register that an operation takes its activation word, factor or step from. -/
def MOp.scalar (o : MOp) : Option Nat :=
  match mops o.instr with
  | some x => (match x.a with | .s n => some n.val | _ => none)
  | none => none

/-- The registers of waves are watched until the operation completes (R155). -/
def watching (s : State) (op : MOp) (keys : List Nat) : State × MOp :=
  (keys.foldl (fun s k => s.updWave k fun w => { w with watch := w.watch + 1 }) s,
   { op with joined := keys.map fun k => (k, (s.wave k).vhits.length) })

/-- They are watched no more. -/
def unwatch (s : State) (o : MOp) : State :=
  o.joined.foldl (fun s j => s.updWave j.1 fun w =>
    { w with watch := w.watch - 1, vhits := if w.watch ≤ 1 then [] else w.vhits }) s

/-- An operation enters the queue of its array, or of both. -/
def enqueue (s : State) (qs : List Nat) (op : MOp) : State :=
  let (no, s) := s.takeNo
  let op := { op with no }
  qs.zipIdx.foldl (fun s p => s.updCore p.1 fun c => { c with mq := c.mq ++ [{ op with mirror := p.2 != 0 }] }) s

/-- The operation of an instruction, for the wave that issues it. -/
def mopOf (s : State) (w : Wave) (key : Nat) (i : Instr) (f : MForm) (a : Word) : MOp :=
  let t := s.team w.team
  { word := ((encode i).map Prod.fst).getD 0, instr := i, wave := key, serial := w.serial, team := w.team, waveId := w.waveId, seta := none,
    setb := none, pc := 0, seq := w.seq, ctx := w.ctx,
    handle := match f.handle with | some n => (t.handles[n.val]?).getD 0 | none => 0,
    factor := a, fz := w.fz, skc := w.skc,
    gen := match mtiles f (actWord a) with
      | tb :: _ => ((tileAt s t.core tb).map TileEnt.gen).getD 0
      | [] => 0,
    held := recMode s w != 0 && f.w.isSome && f.joint.isNone && (actWord a).mem }

/-- MCVT rewrites its handle's type at issue (R273). -/
def retype (s : State) (tn : Nat) (i : Instr) : State :=
  match i with
  | .mcvt o toInt => s.updTeam tn fun t =>
      let x := handleAt t o.d
      let y := BitVec.ofNat 64 (x.toNat - bits x 62 61 * 2 ^ 61 + (if toInt then 2 ^ 61 else 0))
      { t with handles := t.handles.set (handleNo o.d) y }
  | _ => s

/-- The issue of a queued operation other than MMAX (R256). -/
def queueMat (i : Instr) (o : Ops) (s : State) : Host.Outcome State Fault Refusal :=
  s.issue i fun s c =>
    match mform i with
    | none => .stop c .illegalInstruction
    | some f =>
      let t := s.team c.w.team
      let a := readSrc s c.w o .a b64 0
      match mcheck s t i f a 0 c.w.width c.w.nv false with
      | some tr => .stop c tr
      | none =>
        let op := mopOf s c.w c.key i f a
        let qs := queuesFor t f (hnd op.handle)
        if !mtilesReady s t f a then .hold s true (if queuesFull s qs then 8 else 9)
        else if queuesFull s qs then .hold s false 8
        else
          match if op.held then none else redoTake s c.key logMatrix 0 with
          | some (s, _) => .done s
          | none =>
            let s := if op.held || recMode s c.w == 0 then s else memoPut s c.key logMatrix 0 0
            let (s, op) := watching s op (if op.scalar.isSome then [c.key] else [])
            .done ((retype (enqueue s qs { op with pc := c.pc, seta := c.seta, setb := c.setb }) c.w.team i).updWave c.key
              fun w => w.raise c.seta c.setb)

/-- MLDW (R260). -/
def execMldw (o : Ops) (tb : BitVec 6) (s : State) : Host.Outcome State Fault Refusal := queueMat (.mldw o tb) o s
/-- MMA (R262). -/
def execMma (o : Ops) (w : WCtl) (s : State) : Host.Outcome State Fault Refusal := queueMat (.mma o w) o s
/-- MMAS (R263). -/
def execMmas (o : Ops) (w : WCtl) (mode : SMode) (s : State) : Host.Outcome State Fault Refusal :=
  queueMat (.mmas o w mode) o s
/-- MMAQ (R264). -/
def execMmaq (o : Ops) (w : WCtl) (s : State) : Host.Outcome State Fault Refusal := queueMat (.mmaq o w) o s
/-- MSTA (R272). -/
def execMsta (o : Ops) (tb : BitVec 6) (rz : Bool) (s : State) : Host.Outcome State Fault Refusal :=
  queueMat (.msta o tb rz) o s
/-- MLDA (R272). -/
def execMlda (o : Ops) (tb : BitVec 6) (s : State) : Host.Outcome State Fault Refusal := queueMat (.mlda o tb) o s
/-- MSCALE (R273). -/
def execMscale (o : Ops) (s : State) : Host.Outcome State Fault Refusal := queueMat (.mscale o) o s
/-- MCVT (R273). -/
def execMcvt (o : Ops) (toInt : Bool) (s : State) : Host.Outcome State Fault Refusal := queueMat (.mcvt o toInt) o s

/-! ### The scoreboard and joint issue (R265 to R267) -/

/-- The two words of an entry. -/
def scbWords (x : Scb) : List Word :=
  [BitVec.ofNat 64 (x.mask.toNat * 2 ^ 32 + x.arrived.toNat), BitVec.ofNat 64 (x.busy.toNat * 2 ^ 63 + x.base.toNat)]

/-- What MSCB refuses: a base past 383, a mask bit beyond the team, a reserved bit. -/
def badScb (t : Team) (w0 w1 : Word) : Bool :=
  bits w1 8 0 ≥ 384 || bits w1 62 9 != 0
    || ((List.range 32).any fun j => bit w0 (32 + j) && bits w1 8 0 + j ≥ t.nwaves)

/-- The shared meaning of MSCB's writes. -/
def scbWrite (i : Instr) (o : Ops) (entry : BitVec 2) (wait : Bool) (new : Scb → Word → Word → Scb) (s : State) :
    Host.Outcome State Fault Refusal :=
  s.issue i fun s c =>
    let t := s.team c.w.team
    let x := scbOf t entry.toNat
    let ws := scalarRun s c.w o.a 2
    let w0 := (ws[0]?).getD 0
    let w1 := (ws[1]?).getD 0
    if badScb t w0 w1 then .stop c .matrixScb
    else if wait && (x.busy || x.arrived != 0) then .hold s true 13
    else
      .done ((setScb s c.w.team entry.toNat (new x w0 w1)).updWave c.key fun w =>
        match o.d with | .s n => writeRun w n.val (scbWords x) | _ => w)

/-- MSCB.set (R265). -/
def execMscbSet (o : Ops) (entry : BitVec 2) (s : State) : Host.Outcome State Fault Refusal :=
  scbWrite (.mscbSet o entry) o entry true
    (fun x w0 w1 => { x with mask := BitVec.ofNat 32 (bits w0 63 32), base := BitVec.ofNat 9 (bits w1 8 0), arrived := 0 }) s

/-- MSCB.write (R265). -/
def execMscbWrite (o : Ops) (entry : BitVec 2) (s : State) : Host.Outcome State Fault Refusal :=
  scbWrite (.mscbWrite o entry) o entry false
    (fun x w0 w1 => { x with mask := BitVec.ofNat 32 (bits w0 63 32), base := BitVec.ofNat 9 (bits w1 8 0),
                             arrived := BitVec.ofNat 32 (bits w0 31 0) }) s

/-- MSCB.read (R265). -/
def execMscbRead (o : Ops) (entry : BitVec 2) (s : State) : Host.Outcome State Fault Refusal :=
  s.issue (.mscbRead o entry) fun s c =>
    .done (s.updWave c.key fun w =>
      match o.d with | .s n => writeRun w n.val (scbWords (scbOf (s.team c.w.team) entry.toNat)) | _ => w)

/-- MRDY (R266): the lane group is held at the word until the MMAX that consumes the entry completes. -/
def execMrdy (o : Ops) (entry : BitVec 2) (s : State) : Host.Outcome State Fault Refusal :=
  s.issue (.mrdy o entry) fun s c =>
    let x := scbOf (s.team c.w.team) entry.toNat
    if (scbBit x c.w.waveId).isNone || x.busy then .stop c .matrixScb
    else if c.w.pending c.mask != 0 then .hang s
    else .moved (mrdyTest (s.updWave c.key fun w => w.startWait c.mask (.mrdy entry.toNat)) c.key)

/-- The waves of an entry in ascending index: the index with the number of a resident wave. -/
def participants (t : Team) (mask : BitVec 32) (base : BitVec 9) : List (Nat × Option Nat) :=
  ((List.range 32).filter fun j => mask.getLsbD j).map fun j => (base.toNat + j, t.waves.find? (base.toNat + j))

/-- Every wave of an entry has arrived; one without a non-exited lane counts as arrived (R266). -/
def allArrived (s : State) (t : Team) (x : Scb) : Bool :=
  (participants t x.mask x.base).all fun p =>
    x.arrived.getLsbD (p.1 - x.base.toNat)
      || (match p.2 with | some key => (s.wave key).live == 0 | none => true)

/-- MMAX (R267). -/
def execMmax (o : Ops) (ty : ETy) (w : WCtl) (entry : BitVec 2) (s : State) : Host.Outcome State Fault Refusal :=
  s.issue (.mmax o ty w entry) fun s c =>
    let i := Instr.mmax o ty w entry
    match mform i with
    | none => .stop c .illegalInstruction
    | some f =>
      let t := s.team c.w.team
      let x := scbOf t entry.toNat
      match mcheck s t i f 0 x.mask c.w.width c.w.nv false with
      | some tr => .stop c tr
      | none =>
        let why := fun (s : State) =>
          if queuesFull s (queuesFor t f (hnd (mopOf s c.w c.key i f 0).handle)) then 8 else if !mtilesReady s t f 0 then 9 else 13
        if c.w.live != c.mask || x.busy then .hold s true (why s)
        else
          let x := match scbBit x c.w.waveId with | some b => { x with arrived := x.arrived ||| b } | none => x
          let s := setScb s c.w.team entry.toNat x
          let op := mopOf s c.w c.key i f 0
          let qs := queuesFor t f (hnd op.handle)
          if !allArrived s t x || !mtilesReady s t f 0 then .hold s true (why s)
          else if queuesFull s qs then .hold s false 8
          else
            let ws := (participants t x.mask x.base).filterMap Prod.snd
            let op := { op with pc := c.pc, seta := c.seta, setb := c.setb, mask := x.mask, base := x.base }
            let (s, op) := watching (setScb s c.w.team entry.toNat { x with arrived := 0, busy := true }) op ws
            .done ((enqueue s qs op).updWave c.key fun w => w.raise c.seta c.setb)

/-! ### Drains (R271) -/

/-- The shared meaning of MDRN and MDRNC. -/
def openDrain (i : Instr) (o : Ops) (clear : Bool) (s : State) : Host.Outcome State Fault Refusal :=
  s.issue i fun s c =>
    let x := handleAt (s.team c.w.team) o.d
    let h := hnd x
    let row := (readSrc s c.w o .a b64 0).toNat
    let col := (readSrc s c.w o .b b64 0).toNat
    if !h.v then .stop c .accUnbound
    else if row ≥ h.rows || col ≥ h.cols then .stop c .matrixShape
    else .done (s.updWave c.key fun w => { w with drain := some { handle := handleNo o.d, row, col, clear } })

def execMdrn (o : Ops) (s : State) : Host.Outcome State Fault Refusal := openDrain (.mdrn o) o false s
def execMdrnc (o : Ops) (s : State) : Host.Outcome State Fault Refusal := openDrain (.mdrnc o) o true s

/-! ### Saving and resuming operations (R274, R275) -/

/-- Flag fields of a record: 0 to 11, and 15 for none. -/
def flagField (f : Option (Fin 12)) : Nat := match f with | some n => n.val | none => 15
def flagOf (n : Nat) : Option (Fin 12) := if h : n < 12 then some ⟨n, h⟩ else none

/-- The operations of a team in its arrays, in issue order, each once. -/
def teamOps (s : State) (tn : Nat) : List (Nat × MOp) :=
  let all := (arraysOf (s.team tn)).flatMap fun c =>
    ((s.core c).mq.filter fun q => q.team == tn && !q.mirror).map fun q => (c, q)
  (all.foldl (fun (m : Map (Nat × MOp)) p => m.set p.2.no p) []).vals

/-- Every operation of the team leaves its queue for the stop list (R274). -/
def stopOps (s : State) (tn : Nat) : State :=
  let ops := teamOps s tn
  let s := ops.foldl (fun s p => if p.2.parked then detachMatrix s p.1 else s) s
  let s := ops.foldl (fun s p => unwatch s p.2) s
  let s := (arraysOf (s.team tn)).foldl (fun s c =>
    s.updCore c fun k => { k with mq := k.mq.filter fun q => q.team != tn }) s
  s.updTeam tn fun t => { t with stopList := t.stopList ++ ops.map fun p =>
    { word := p.2.word, seta := p.2.seta, setb := p.2.setb, wave := p.2.waveId, row := p.2.row, step := p.2.step,
      pc := p.2.pc, mask := p.2.mask, base := p.2.base } }

/-- The four words of a record. -/
def recWords (r : MRec) : List Word :=
  [r.word, BitVec.ofNat 64 (2 ^ 63 + flagField r.seta * 2 ^ 50 + flagField r.setb * 2 ^ 46 + r.wave * 2 ^ 37
     + r.row * 2 ^ 16 + r.step), r.pc, BitVec.ofNat 64 (r.mask.toNat * 2 ^ 32 + r.base.toNat)]

/-- MPGET (R274): with stop, an operation in the middle of a step runs to the end of it first, and one that has nothing
left to do completes (R273). -/
def execMpget (o : Ops) (idx : BitVec 4) (stop : Bool) (s : State) : Host.Outcome State Fault Refusal :=
  s.issue (.mpget o idx stop) fun s c =>
    if stop && (teamOps s c.w.team).any fun p => p.2.ended || (p.2.row != 0 && !p.2.parked) then .hold s false 19
    else
      let s := if stop then stopOps s c.w.team else s
      let ws := match (s.team c.w.team).stopList[idx.toNat]? with | some r => recWords r | none => [0, 0, 0, 0]
      .done (s.updWave c.key fun w => writeRun w (firstOf o.d) ws)

/-- The steps and rows of an operation, for the progress of a record. -/
def mextent (t : Team) (i : Instr) (f : MForm) (h : Hnd) : Nat × Nat :=
  match i, f.w with
  | .mldw _ _, _ => (1, 1)
  | _, some w => match tileGeom t w.tb.toNat with | some e => (stepsOf e, h.rows) | none => (0, 0)
  | _, none => (1, 1)

/-- MPSET (R275). -/
def execMpset (o : Ops) (s : State) : Host.Outcome State Fault Refusal :=
  s.issue (.mpset o) fun s c =>
    let ws := scalarRun s c.w o.a 4
    let at_ := fun (k : Nat) => (ws[k]?).getD 0
    let w1 := at_ 1
    let w3 := at_ 3
    if !bit w1 63 then .done s
    else if bits w1 62 54 != 0 || bits w1 36 25 != 0 || bits w3 31 9 != 0 then .stop c .illegalInstruction
    else
      match (if bits (at_ 0) 63 62 == 0 then decodeFull (at_ 0) none else .error .illegalInstruction) with
      | .error .illegalOperand => .stop c .illegalOperand
      | .error .illegalInstruction => .stop c .illegalInstruction
      | .ok i =>
        match mform i, mops i with
        | some f, some io =>
          match waveCheck i false c.w with
          | some tr => .stop c tr
          | none =>
            let t := s.team c.w.team
            let a := readSrc s c.w io .a b64 0
            let mask := BitVec.ofNat 32 (bits w3 63 32)
            let base := BitVec.ofNat 9 (bits w3 8 0)
            let a' := if f.joint.isSome then 0 else a
            match mcheck s t i f a' mask c.w.width c.w.nv true with
            | some tr => .stop c tr
            | none =>
              let wi := bits w1 45 37
              let key := (t.waves.find? wi).getD c.key
              let op := mopOf s (s.wave key) key i f a'
              let step := bits w1 15 0
              let row := bits w1 24 16
              let ext := mextent t i f (hnd op.handle)
              let qs := queuesFor t f (hnd op.handle)
              if step > ext.1 || row ≥ max ext.2 1 || (step == ext.1 && row != 0) then .stop c .matrixShape
              else if !mtilesReady s t f a' then .hold s true (if queuesFull s qs then 8 else 9)
              else if queuesFull s qs then .hold s false 8
              else
                let ws := if f.joint.isSome then (participants t mask base).filterMap Prod.snd
                  else if op.scalar.isSome then [c.key] else []
                let op := { op with pc := at_ 2, seta := flagOf (bits w1 53 50), setb := flagOf (bits w1 49 46), step, row,
                                    began := step != 0 || row != 0, waveId := wi, mask, base }
                let s := match f.joint with
                  | some (_, e) => setScb s c.w.team e.toNat { scbOf t e.toNat with busy := true }
                  | none => s
                let (s, op) := watching s op ws
                .done ((enqueue s qs op).updTeam c.w.team fun t => { t with stopList := [] })
        | _, _ => .stop c .illegalInstruction

end Sys2Proof.Machine
end

