-- ==== Sys2Proof/Machine/Beam.lean ====
section
/-! DEFINITION. Kennels, walk entries and the meanings of the beam instructions, opcodes 0x200 to 0x20B
(15_beam_engine.md R278, R279, R293, R297 to R307). What the engine does is `BeamRun`. -/

namespace Sys2Proof.Machine

open Geo (V3 Frame Line)

/-! ### Kennel slots (R278) -/

/-- A slot's fields. -/
structure Slot where
  state : Nat := 0
  depth : Nat := 0
  area : Bool := false
  refl : Bool := false
  hitv : Bool := false
  ovf : Bool := false
  walk : Nat := 0
  lpos : Nat := 0
  bsize : Nat := 0
  ray : Nat := 0
  cursor : Nat := 0
  tag : Nat := 0
  hit : Nat := 0
  cov : Nat := 0
  hf : Nat := 0
  key : Line := (0, 0, 0)
  hn : Nat := 0
  mirror : Nat := 0
  frame : Frame := ⟨⟨0, 0, 0⟩, ⟨0, 0, 0⟩, ⟨0, 0, 0⟩, ⟨0, 0, 0⟩⟩
  edges : List Line := []
deriving DecidableEq, Repr

def slotFree : Nat := 0
def slotHeld : Nat := 1
def slotQueued : Nat := 2
def slotEnded : Nat := 3

/-- The slot that 24 doublewords hold. -/
def kslotOf (ws : List Word) : Slot :=
  let w := fun (i : Nat) => wordAt ws i
  let f := fun (off : Nat) => (wordAt ws (off / 8)).toNat / 2 ^ (8 * (off % 8)) % 2 ^ 32
  let v := fun (off : Nat) => (⟨f off, f (off + 4), f (off + 8)⟩ : V3)
  { state := bits (w 0) 63 62, depth := bits (w 0) 57 53, area := bit (w 0) 52, refl := bit (w 0) 51, hitv := bit (w 0) 50,
    ovf := bit (w 0) 49, walk := bits (w 0) 48 45, lpos := bits (w 0) 44 41, bsize := bits (w 0) 39 38,
    ray := bits (w 0) 37 32, cursor := bits (w 0) 31 0, tag := f 0x0C, hit := f 0x08, cov := f 0x14, hf := f 0x10,
    key := (f 0x18, f 0x1C, f 0x20), hn := f 0x24, mirror := f 0x2C,
    frame := ⟨v 0x30, v 0x3C, v 0x48, v 0x54⟩,
    edges := (List.range (bits (w 0) 61 58)).map fun i => (f (0x60 + 12 * i), f (0x64 + 12 * i), f (0x68 + 12 * i)) }

/-- The 192 bytes of a slot; edges at or above np are zero. -/
def Slot.bytes (x : Slot) : List Byte :=
  let f := fun (n : Nat) => bytesOf n 4
  let v := fun (a : V3) => f a.x ++ f a.y ++ f a.z
  let w0 := x.state * 2 ^ 62 + x.edges.length % 16 * 2 ^ 58 + x.depth * 2 ^ 53 + x.area.toNat * 2 ^ 52 + x.refl.toNat * 2 ^ 51
    + x.hitv.toNat * 2 ^ 50 + x.ovf.toNat * 2 ^ 49 + x.walk * 2 ^ 45 + x.lpos * 2 ^ 41 + x.bsize * 2 ^ 38 + x.ray % 64 * 2 ^ 32
    + x.cursor
  (bytesOf w0 8 ++ f x.hit ++ f x.tag ++ f x.hf ++ f x.cov ++ f x.key.1 ++ f x.key.2.1 ++ f x.key.2.2 ++ f x.hn
    ++ f 0 ++ f x.mirror ++ v x.frame.o ++ v x.frame.a ++ v x.frame.u ++ v x.frame.v
    ++ (x.edges.take 8).flatMap (fun (e : Line) => f e.1 ++ f e.2.1 ++ f e.2.2)
    ++ List.replicate 96 0).take 192

/-- The team that a core's engine serves, and the pinned offset of its kennel (R279). -/
def kennelOf (s : State) (core : Nat) : Option (Nat × Team) :=
  List.find? (fun (p : Nat × Team) => p.2.kslots != 0 && (p.2.core == core || (p.2.pair && p.2.core + 1 == core))) s.teams

def kslots (s : State) (core : Nat) : Nat := match kennelOf s core with | some p => p.2.kslots | none => 0

def slotBase (s : State) (core n : Nat) : Nat :=
  match kennelOf s core with
  | some p => (if p.2.core == core then p.2.kennel else p.2.kennel2).1 * 128 + 192 * n
  | none => 0

def slotWords (s : State) (core n : Nat) : List Word :=
  (List.range 24).map fun i => BitVec.ofNat 64 (sramRead s core (slotBase s core n + 8 * i) 8)

def slotAt (s : State) (core n : Nat) : Slot := kslotOf (slotWords s core n)
def setSlot (s : State) (core n : Nat) (x : Slot) : State := sramWrite s core (slotBase s core n) x.bytes

/-- A slot's state alone. -/
def slotState (s : State) (core n : Nat) : Nat := (sramByte s core (slotBase s core n + 7)).toNat / 64

def freeSlots (s : State) (core : Nat) : List Nat :=
  (List.range (kslots s core)).filter fun n => slotState s core n == slotFree

def updBeam (s : State) (core : Nat) (f : Beam → Beam) : State := s.updCore core fun c => { c with beam := f c.beam }

/-! ### Checks at issue (R298) -/

/-- The slot numbers of the selected lanes, each in a state that a test admits. With no selected lane the flags of a
flag-setting instruction are up for a cycle (R161, R193). -/
def slotLanes (s : State) (c : Iss) (o : Ops) (f : LitSel) (flags : Bool) (ok : Nat → Bool) (k : List (Nat × Nat) → Res) : Res :=
  let core := coreOf c.key
  let sel := selOf s c o
  let ls := (lanesOf sel).map fun l => (l, bits (readSrc s c.w o f b64 l) 10 0)
  let mine := (kennelOf s core).any fun p => p.1 == c.w.team
  let out := ls.filter fun p => !mine || p.2 ≥ kslots s core
  let wrong := ls.filter fun p => !ok (slotState s core p.2)
  if ls.isEmpty then .done (idleFor s c flags false [])
  else if !out.isEmpty then .trap .kennelSlot sel 0 0
  else if !wrong.isEmpty then .trap .kennelState sel 0 0
  else k ls

/-- An instruction that names no slot: it needs the team's kennel. -/
def withKennel (s : State) (c : Iss) (sel : Mask) (flags : Bool) (k : Res) : Res :=
  if sel == 0 then .done (idleFor s c flags false [])
  else if (kennelOf s (coreOf c.key)).any fun p => p.1 == c.w.team then k
  else .trap .kennelSlot sel 0 0

def noSlot : Word := 0xFFFFFFFFFFFFFFFF
def badFrame : Word := 0xFFFFFFFFFFFFFFFE

/-- A change of slots by an instruction has its turn in the cycle: frees by BKFREE first, then what the engine takes,
then what instructions take (R294). -/
def inKennelTurn (s : State) (c : Iss) (kind : Nat) (k : State → Res) : Res :=
  let core := coreOf c.key
  if s.inTurn core (s.core core).kennelAt (placeOf kind c.key) then k (s.kennelTurn core (placeOf kind c.key)) else .hold s true 19

/-! ### Making and freeing slots (R299, R305) -/

/-- The determinant of a frame is not 0, and its values are finite and ordered (R299). -/
def frameOk (area : Bool) (f : Frame) (hn hf s0 t0 s1 t1 : Nat) : Bool :=
  let det := f.u.dot (f.v.cross f.a)
  f.o.finite && f.a.finite && f.u.finite && f.v.finite && [hn, hf, s0, t0, s1, t1].all Geo.finite
    && Geo.lt s0 s1 && Geo.lt t0 t1 && Geo.lt hn hf && (area || Geo.pos hn) && !Geo.isZero det

/-- The shared meaning of BMAKE and BMAKEA: lanes in ascending order take the lowest free slots. -/
def makeBeams (i : Instr) (o : Ops) (area : Bool) (s : State) : Host.Outcome State Fault Refusal :=
  s.issue i fun s c =>
    let sel := selOf s c o
    let core := coreOf c.key
    withKennel s c sel false (inKennelTurn s c 2 fun s => .done ((lanesOf sel).foldl (fun s l =>
      let first := match o.a with | .v n => n.val | _ => 0
      let g := fun (k : Nat) => elem 32 (c.w.vread s.epoch (first + k / 2) l) (k % 2)
      let v := fun (k : Nat) => (⟨g k, g (k + 1), g (k + 2)⟩ : V3)
      let f : Frame := ⟨v 0, v 3, v 6, v 9⟩
      let hn := g 12; let hf := g 13; let s0 := g 14; let t0 := g 15; let s1 := g 16; let t1 := g 17
      let give := fun (s : State) (x : Word) => s.updWave c.key fun w => writeDst w o.d l x
      let m := Geo.neg Geo.one
      if !frameOk area f hn hf s0 t0 s1 t1 then give s badFrame
      else
        match (freeSlots s core).head? with
        | none => give s noSlot
        | some n =>
          let x : Slot :=
            { state := slotHeld, area, cov := Geo.one, tag := (readSrc s c.w o .b b64 l).toNat % 2 ^ 32, frame := f, hn, hf,
              edges := [(0, Geo.one, Geo.neg t0), (m, 0, s1), (0, m, t1), (Geo.one, 0, Geo.neg s0)] }
          give (setSlot s core n x) (BitVec.ofNat 64 n)) s))

/-- BMAKE (R299). -/
def execBmake (o : Ops) (s : State) : Host.Outcome State Fault Refusal := makeBeams (.bmake o) o false s
/-- BMAKEA (R299). -/
def execBmakea (o : Ops) (s : State) : Host.Outcome State Fault Refusal := makeBeams (.bmakea o) o true s

/-- BKALLOC (R305). -/
def execBkalloc (o : Ops) (s : State) : Host.Outcome State Fault Refusal :=
  s.issue (.bkalloc o) fun s c =>
    let sel := selOf s c o
    let core := coreOf c.key
    withKennel s c sel false (inKennelTurn s c 2 fun s => .done ((lanesOf sel).foldl (fun s l =>
      match (freeSlots s core).head? with
      | none => s.updWave c.key fun w => writeDst w o.d l noSlot
      | some n => (setSlot s core n { state := slotHeld }).updWave c.key fun w => writeDst w o.d l (BitVec.ofNat 64 n)) s))

/-- BKFREE (R305). -/
def execBkfree (o : Ops) (s : State) : Host.Outcome State Fault Refusal :=
  s.issue (.bkfree o) fun s c =>
    let core := coreOf c.key
    slotLanes s c o .a false (fun st => st != slotQueued) fun ls =>
      inKennelTurn s c 0 fun s => .done (ls.foldl (fun s p =>
        if slotState s core p.2 == slotFree then s else setSlot s core p.2 { slotAt s core p.2 with state := slotFree }) s)

/-- BOVF (R303). -/
def execBovf (o : Ops) (s : State) : Host.Outcome State Fault Refusal :=
  s.issue (.bovf o) fun s c =>
    let core := coreOf c.key
    slotLanes s c o .a false (fun st => st == slotHeld) fun ls =>
      let b := (readSrc s c.w o .b b64 0).toNat
      if b ≥ 3 then .trap .beamControl (selOf s c o) 0 0
      else .done (ls.foldl (fun s p => setSlot s core p.2 { slotAt s core p.2 with ovf := true, bsize := b }) s)

/-! ### Split control (R304) -/

def badSplit (x : Word) : Bool := bits x 63 8 != 0 || bits x 6 5 == 3 || bits x 4 0 > 24

/-- BSPLIT (R304). -/
def execBsplit (o : Ops) (write : Bool) (s : State) : Host.Outcome State Fault Refusal :=
  s.issue (.bsplit o write) fun s c =>
    let old := (s.team c.w.team).split
    let x := readSrc s c.w o .a b64 0
    if write && badSplit x then .stop c .beamControl
    else
      .done ((if write then s.updTeam c.w.team fun t => { t with split := x } else s).updWave c.key fun w =>
        writeAll w o.d c.mask fun _ => old)

/-! ### Walks (R293, R300) -/

def bwalkBit (w0 : Word) (n : Nat) : Bool := bit w0 n

/-- The four words of a walk entry. -/
def entryWords (b : BWalk) : List Word :=
  [b.w0, b.scene, BitVec.ofNat 64 (b.seq.toNat * 2 ^ 32 + b.live), b.pc]

/-- BWALK (R300): once for its lane group, as an engine command. -/
def execBwalk (o : Ops) (tb : BitVec 6) (scr keep : Bool) (s : State) : Host.Outcome State Fault Refusal :=
  s.issue (.bwalk o tb scr keep) fun s c =>
    let core := coreOf c.key
    let t := s.team c.w.team
    slotLanes s c o .a true (fun st => st == slotHeld) fun ls =>
      let tile := (tileAt s t.core tb.toNat).bind fun e =>
        if e.scr && (tileGeom t tb.toNat).any fun g => fmtBits g.fmt == 64 then some e else none
      if scr && tile.isNone then .trap .beamControl (selOf s c o) 0 0
      else
        let walks := (s.core core).beam.walks
        match (List.range 16).find? fun i => (walks.find? i).isNone with
        | none => .hold s false (engineWhy c)
        | some i =>
          if c.w.engc ≥ 255 then .hold s false 7
          else
            let slots := (ls.map Prod.snd).eraseDups
            let seq := c.w.seq + 1
            let w0 := BitVec.ofNat 64 (2 ^ 63 + keep.toNat * 2 ^ 62 + scr.toNat * 2 ^ 61 + tb.toNat * 2 ^ 55
              + bits t.split 6 5 * 2 ^ 53 + bits t.split 4 0 * 2 ^ 48 + bits t.split 7 7 * 2 ^ 47 + c.w.waveId * 2 ^ 38
              + flagField c.seta * 2 ^ 34 + flagField c.setb * 2 ^ 30)
            let (no, s) := s.takeNo
            let b : BWalk :=
              { w0, scene := BitVec.ofNat 64 (bits (readSrc s c.w o .b b64 0) 55 0), seq, live := slots.length, pc := c.pc,
                order := no, serial := c.w.serial, wave := c.key, slots, held := recMode s c.w != 0 }
            let s := ls.foldl (fun s p => setSlot s core p.2 { slotAt s core p.2 with walk := i }) s
            .done ((updBeam s core fun e => { e with walks := e.walks.set i b, spare := e.spare.del i }).updWave c.key fun w =>
              { w with seq, engc := w.engc + 1 }.raise c.seta c.setb)

/-- The walk whose scene descriptor is to be read next: restored ones that had started, then the first in order. -/
def nextStart (s : State) (core : Nat) : Option (Nat × BWalk) :=
  let ws : List (Nat × BWalk) := (s.core core).beam.walks.filter fun p => p.2.desc.isNone && !p.2.ended
  match List.find? (fun (p : Nat × BWalk) => bit p.2.w0 0) ws with
  | some p => some p
  | none => ws.foldl (fun m p => match m with | some q => if p.2.order < q.2.order then some p else some q | none => some p) none

/-! ### Fragments (R301) -/

/-- The fragments that a recorded wave takes in a quantum are kept for its re-execution (R410). -/
def keepFragments (s : State) (p : BPop) : State :=
  match s.waveAt p.wave p.serial with
  | some w =>
    if recMode s w == 0 || p.tx < w.quantum.start then s
    else p.got.foldl (fun s (g : Nat × List Word) => g.2.foldl (fun s x => memoPut s p.wave logFragment g.1 x) s) s
  | none => s

/-- A BPOP is served: the lanes' registers and status bits are written, what was outstanding ends, and its flags count
down. -/
def endPop (s : State) (p : BPop) : State :=
  let s := keepFragments s p
  s.updWaveOld p.wave p.serial (fun w => decide (p.tx < w.quantum.start)) fun w =>
    let out := fun (w : Wave) (r : Nat) => w.outs.find? fun o => o.tx == p.tx && o.reg == r
    let first := match p.dst with | .v n => n.val | _ => 0
    let w' := { w with outs := w.outs.filter fun o => o.tx != p.tx }
    let put := fun (w' : Wave) (l k : Nat) (x : Word) =>
      match out w (Wave.vkey (first + k) l) with
      | none => w'
      | some o => w'.vwrite (first + k) l (if o.hit then s.free (Wave.vkey (first + k) l) else x)
    let w' := p.got.foldl (fun w' g => g.2.zipIdx.foldl (fun w' x => put w' g.1 x.2 x.1) w') w'
    let w' := match p.status with
      | none => w'
      | some n => (lanesOf p.sel).foldl (fun w' l =>
          match out w (Wave.pkey n.val l) with
          | none => w'
          | some o => w'.pwrite n.val l (if o.hit then (s.free (Wave.pkey n.val l)).getLsbD 0 else p.got.any fun g => g.1 == l)) w'
    finishIn w' p.seta p.setb 0 0 p.seq

/-- Serves the BPOPs of an engine in issue order (R301): each lane takes the head fragment; a BPOP is done when its
lanes are served, when it does not wait, or when no walk is in use. -/
def servePops (s : State) (core : Nat) : Nat → State
  | 0 => s
  | fuel + 1 =>
    let e := (s.core core).beam
    match e.pops with
    | [] => s
    | p :: rest =>
      let n := min p.lanes.length e.frags.length
      let p := { p with got := p.got ++ p.lanes.zip (e.frags.take n), lanes := p.lanes.drop n }
      let s := updBeam s core fun e => { e with frags := e.frags.drop n, pops := p :: rest }
      if p.lanes.isEmpty || p.nowait || e.walks.isEmpty then
        servePops (endPop (updBeam s core fun e => { e with pops := rest }) p) core fuel
      else s

def serve (s : State) (core : Nat) : State := servePops s core ((s.core core).beam.pops.length + 1)

/-- BPOP (R301). -/
def execBpop (o : Ops) (st : Option (Fin 15)) (nowait : Bool) (s : State) : Host.Outcome State Fault Refusal :=
  s.issue (.bpop o st nowait) fun s c =>
    let sel := selOf s c o
    let core := coreOf c.key
    withKennel s c sel true (
      let (no, s) := s.takeNo
      let first := match o.d with | .v n => n.val | _ => 0
      let keys := (lanesOf sel).flatMap fun l =>
        (List.range 8).map (fun k => Wave.vkey (first + k) l) ++ (st.toList.map fun n => Wave.pkey n.val l)
      let p : BPop := { wave := c.key, serial := c.w.serial, lanes := lanesOf sel, dst := o.d, status := st, nowait,
                        seta := c.seta, setb := c.setb, tx := no, seq := c.w.seq, sel }
      let s := s.updWave c.key fun w =>
        { w with outs := w.outs ++ keys.map fun k => ({ tx := no, reg := k } : Out) }.raise c.seta c.setb
      .done (serve (updBeam s core fun e => { e with pops := e.pops ++ [p] }) core))

/-! ### Reflection (R302) -/

/-- The fields of a scene descriptor (R280). -/
structure Scene where
  nodes : Nat
  prims : Nat
  ncount : Nat
  pcount : Nat
  root : Nat
  scope : Scope
deriving DecidableEq, Repr

/-- The scene of a descriptor's four words; none where it is invalid. -/
def sceneOf (addr : Nat) (ws : List Word) : Option Scene :=
  let w := fun i => wordAt ws i
  let sc := bits (w 3) 31 30
  if bits (w 0) 63 56 != 0 || bits (w 1) 63 56 != 0 || bits (w 3) 29 0 != 0 || sc == 3 || bits (w 0) 6 0 != 0
      || bits (w 1) 5 0 != 0 || addr % 32 != 0 then none
  else some { nodes := (w 0).toNat, prims := (w 1).toNat, ncount := bits (w 2) 63 32, pcount := bits (w 2) 31 0,
              root := bits (w 3) 63 32, scope := if sc = 0 then .d else if sc = 1 then .k else .s }

def codeAt (bs : List Byte) (off : Nat) : Nat := ofBytes ((bs.drop off).take 4)
def vertexAt (bs : List Byte) (k : Nat) : V3 := ⟨codeAt bs (12 * k), codeAt bs (12 * k + 4), codeAt bs (12 * k + 8)⟩

/-- w − 2 × ((n · w) / (n · n)) × n. -/
def mirrored (n : V3) (d w : V3) : V3 :=
  let k := Geo.mul Geo.two (Geo.div (n.dot d) (n.dot n))
  w.sub ⟨Geo.mul k n.x, Geo.mul k n.y, Geo.mul k n.z⟩

/-- A beam reflected in a primitive. -/
def reflect (x : Slot) (bs : List Byte) : Slot :=
  let v0 := vertexAt bs 0
  let n := ((vertexAt bs 1).sub v0).cross ((vertexAt bs 2).sub v0)
  let f := x.frame
  { x with frame := ⟨mirrored n (f.o.sub v0) f.o, mirrored n f.a f.a, mirrored n f.u f.u, mirrored n f.v f.v⟩,
           mirror := x.hit, refl := true, hitv := false, state := slotHeld }

/-- The reads of BREFL for its lanes, each translated like a load's (R302): the physical addresses and bytes of n bytes
at each address, or what issue does instead. -/
def reflRead (s : State) (c : Iss) (sel : Mask) (xs : List (Nat × Word)) (n : Nat) (k : List (Nat × List Byte) → Res) : Res :=
  match gate s c.key c.w .read xs with
  | .stop t _ va => .trap t sel (if t == .vaRange || t == .memUncorr then va else 0) 0
  | .wait s' => .walk s'
  | .go ok park =>
    if !park.isEmpty then .moved (parkLanes s c.key (dieOf c.key) .read c.pc park (some c.mask))
    else
      let rs := ok.map fun x => (x, readAt s (coreOf c.key) (dieOf c.key) .k x.2.2 n)
      match rs.find? fun r => match r.2 with | .ok _ => false | _ => true with
      | some (x, .unmapped) => .trap .unmappedPhys sel x.2.1 0
      | some (x, .bad) => .trap .memUncorr sel x.2.1 0
      | _ => k (rs.filterMap fun r => match r.2 with | .ok v => some (r.1.1, bytesOf v n) | _ => none)

/-- BREFL (R302): every lane's slot is read before any is written (R6). -/
def execBrefl (o : Ops) (s : State) : Host.Outcome State Fault Refusal :=
  s.issue (.brefl o) fun s c =>
    let core := coreOf c.key
    slotLanes s c o .a false (fun st => st == slotEnded) fun ls =>
      let scene := readSrc s c.w o .b b64 0
      let old := s
      let hits := ls.filter fun p => (slotAt s core p.2).hitv
      let finish := fun (s : State) (bs : List (Nat × List Byte)) =>
        Res.done (ls.foldl (fun s p =>
          match bs.find? fun b => b.1 == p.1 with
          | some b => (setSlot s core p.2 (reflect (slotAt old core p.2) b.2)).updWave c.key fun w =>
              writeDst w o.d p.1 (BitVec.ofNat 64 p.2)
          | none => s.updWave c.key fun w => writeDst w o.d p.1 badFrame) s)
      if hits.isEmpty then finish s []
      else
        reflRead s c (selOf s c o) [((hits.head?.map Prod.fst).getD 0, scene)] 32 fun ds =>
          match (ds.head?).bind fun d => sceneOf scene.toNat (wordsOf d.2) with
          | none => .trap .beamControl (selOf s c o) 0 0
          | some sc =>
            reflRead s c (selOf s c o) (hits.map fun p => (p.1, BitVec.ofNat 64 (sc.prims + 64 * (slotAt s core p.2).hit))) 64 fun bs =>
              finish s bs

/-! ### Saving and restoring (R306) -/

/-- BKGET (R306). -/
def execBkget (o : Ops) (mode : KMode) (s : State) : Host.Outcome State Fault Refusal :=
  s.issue (.bkget o mode) fun s c =>
    let core := coreOf c.key
    let e := (s.core core).beam
    let a := (readSrc s c.w o .a b64 0).toNat
    let give := fun (s : State) (xs : List Word) => Res.done (s.updWave c.key fun w => writeRun w (firstOf o.d) xs)
    withKennel s c c.mask false (
      match mode with
      | .slot =>
        if a ≥ kslots s core then .stop c .kennelSlot
        else if !e.stopped && slotState s core a == slotQueued then
          give s ((List.range 24).map fun i => s.free (2 ^ 37 + i))
        else give s (slotWords s core a)
      | .walk =>
        if a ≥ 16 then .stop c .beamControl
        else give s (match e.walks.find? a with | some b => entryWords b | none => e.spare.getD a [0, 0, 0, 0])
      | .frag =>
        give (updBeam s core fun e => { e with frags := e.frags.drop 1 }) ((e.frags.head?).getD (List.replicate 8 0)))

/-- The words of an entry without their reserved bits, which read zero (R4, R293). -/
def entryMask (ws : List Word) : List Word :=
  [wordAt ws 0 &&& 0xFFFFFFFFC0000001, wordAt ws 1 &&& 0x00FFFFFFFFFFFFFF, wordAt ws 2, wordAt ws 3]

/-- The words of a fragment without its reserved bits (R4, R289). -/
def fragMask (ws : List Word) : List Word :=
  (List.range 8).map fun i => if i = 1 then wordAt ws 1 &&& 0xFFFFFFFFFFFFFF3F else if i = 7 then 0 else wordAt ws i

/-- The entry of four words (R293); the model's own fields start afresh. One that has started and has no slot left has
only to complete (R296). -/
def entryOf (ws : List Word) (no : Nat) : BWalk :=
  { w0 := wordAt ws 0, scene := wordAt ws 1, ended := bit (wordAt ws 0) 0 && bits (wordAt ws 2) 31 0 == 0, seq := BitVec.ofNat 32 (bits (wordAt ws 2) 63 32), live := bits (wordAt ws 2) 31 0,
    pc := wordAt ws 3, order := no, serial := 0, wave := 0, filling := bit (wordAt ws 0) 0 && bit (wordAt ws 0) 61 }

/-- BKPUT (R306). -/
def execBkput (o : Ops) (mode : KMode) (s : State) : Host.Outcome State Fault Refusal :=
  s.issue (.bkput o mode) fun s c =>
    let core := coreOf c.key
    let e := (s.core core).beam
    let b := (readSrc s c.w o .b b64 0).toNat
    withKennel s c c.mask false (
      match mode with
      | .slot =>
        let ws := scalarRun s c.w o.a 24
        if b ≥ kslots s core then .stop c .kennelSlot
        else if !e.stopped && (bits (wordAt ws 0) 63 62 == slotQueued || slotState s core b == slotQueued) then
          .stop c .kennelState
        else
          .done (updBeam (setSlot s core b (kslotOf ws)) core fun e => { e with pending := e.pending.filter fun p => p.1 != b })
      | .walk =>
        let ws := scalarRun s c.w o.a 4
        if b ≥ 16 then .stop c .beamControl
        else if !e.stopped && (e.walks.find? b).isSome then .stop c .kennelState
        else
          let (no, s) := s.takeNo
          let ws := entryMask ws
          .done (serve (updBeam s core fun e =>
            if bit (wordAt ws 0) 63 then { e with walks := e.walks.set b (entryOf ws no), spare := e.spare.del b }
            else { e with walks := e.walks.del b, spare := e.spare.set b ws }) core)
      | .frag =>
        if e.frags.length ≥ 256 then .stop c .beamControl
        else .done (serve (updBeam s core fun e => { e with frags := e.frags ++ [fragMask (scalarRun s c.w o.a 8)] }) core))

/-! ### BSTAT (R307) -/

/-- The slots that the engine may take: QUEUED, of a started walk. -/
def readySlots (s : State) (core : Nat) : List Nat :=
  let e := (s.core core).beam
  (List.range (kslots s core)).filter fun n =>
    slotState s core n == slotQueued
      && (match e.walks.find? (slotAt s core n).walk with | some b => bit b.w0 0 && !b.ended | none => false)

/-- What BSTAT reads. -/
def beamStatus (s : State) (core : Nat) : Word :=
  let e := (s.core core).beam
  let count := fun (st : Nat) => ((List.range (kslots s core)).filter fun n => slotState s core n == st).length
  BitVec.ofNat 64 (e.stopped.toNat * 2 ^ 63 + (readySlots s core).isEmpty.toNat * 2 ^ 62 + e.frags.length * 2 ^ 53
    + e.walks.length * 2 ^ 48 + min e.conversions 65535 * 2 ^ 32 + count slotQueued * 2 ^ 16 + count slotFree)

/-- The shared meaning of BSTAT: the engine is between two steps whenever an instruction issues. -/
def beamStat (i : Instr) (o : Ops) (act : State → Nat → State) (s : State) : Host.Outcome State Fault Refusal :=
  s.issue i fun s c =>
    let s := act s (coreOf c.key)
    .done (s.updWave c.key fun w => writeAll w o.d c.mask fun _ => beamStatus s (coreOf c.key))

/-- BSTAT.read (R307). -/
def execBstatRead (o : Ops) (s : State) : Host.Outcome State Fault Refusal := beamStat (.bstatRead o) o (fun s _ => s) s
/-- What STOP does: a parked beam detaches (R57); the beam in progress is the one that RESUME goes on with. -/
def stopBeam (s : State) (core : Nat) : State :=
  updBeam (if (s.core core).beam.parked then detachBeam s core else s) core fun e =>
    { e with stopped := true, parked := false, walks := e.walks.map fun (p : Nat × BWalk) => (p.1, { p.2 with parked := false }) }

/-- BSTAT.stop (R307). It is held while a walk that has ended early has still to complete, since an entry's words could
not carry the status to where it is restored (log entry 49). -/
def execBstatStop (o : Ops) (s : State) : Host.Outcome State Fault Refusal :=
  s.issue (.bstatStop o) fun s c =>
    let core := coreOf c.key
    if (s.core core).beam.walks.any fun p => p.2.ended && p.2.status != 0 then .hold s true 19
    else
      let s := stopBeam s core
      .done (s.updWave c.key fun w => writeAll w o.d c.mask fun _ => beamStatus s core)
/-- BSTAT.resume (R307). -/
def execBstatResume (o : Ops) (s : State) : Host.Outcome State Fault Refusal :=
  beamStat (.bstatResume o) o (fun s core => updBeam s core fun e => { e with stopped := false }) s

end Sys2Proof.Machine
end

