-- ==== Sys2Proof/Machine/EngineData.lean ====
section
/-! DEFINITION. What copy and stream engines move (08_tensor_streams.md R131 to R137, R143, R146; 07_number_formats.md
R122 to R124, R128): the sides of a command, its blocks, the values read, the codes written, and what a destination
byte that is reached twice receives. -/

namespace Sys2Proof.Machine

/-! ### Sides and regions (R133, R134, R136) -/

/-- One side of a command: a tensor of memory, or a tile of a core with the base of its buffer. -/
structure Side where
  e : TEnt
  tile : Option (Nat × Nat) := none
deriving DecidableEq, Repr

/-- A region to move: origins and extents in elements of the destination; a part outside the tensor is allowed to
streams (R143). -/
structure Job where
  src : Side
  dst : Side
  so : List Nat
  dO : List Nat
  ext : List Nat
  mode : Rnd := .rne
  outside : Bool := false
deriving DecidableEq, Repr

def nth (xs : List Nat) (i : Nat) : Nat := (xs[i]?).getD 0

/-- Elements of a block: those of a scale at the destination. -/
def Job.size (j : Job) : Nat := if j.dst.e.kind = 2 then j.dst.e.group else 32
def Job.perRow (j : Job) : Nat := (nth j.ext 0 + j.size - 1) / j.size
/-- Rows of the region along d1 to d3; an extent of zero lies above the rank. -/
def Job.rows (j : Job) : Nat := max 1 (nth j.ext 1) * max 1 (nth j.ext 2) * max 1 (nth j.ext 3)
/-- How many blocks, and so accesses, a command has. -/
def Job.units (j : Job) : Nat := j.perRow * j.rows

/-- A source column for each stored column of a pruned destination (R143, R146). -/
def Job.src0 (j : Job) (c : Nat) : Nat :=
  let (n, k) := pruneOf j.dst.e.prune
  c / k * n

/-- The row of a block, as offsets along d1 to d3, its first column in the region, and its columns. -/
def Job.at (j : Job) (u : Nat) : List Nat × Nat × Nat :=
  let r := u / j.perRow
  let e1 := max 1 (nth j.ext 1)
  let e2 := max 1 (nth j.ext 2)
  let c := u % j.perRow * j.size
  ([r % e1, r / e1 % e2, r / (e1 * e2)], c, min j.size (nth j.ext 0 - c))

/-- The indices along d1 to d3 of a row on a side whose origin is given. -/
def rowIdx (o row : List Nat) : List Nat := [nth o 1 + nth row 0, nth o 2 + nth row 1, nth o 3 + nth row 2]

/-- The address of a row's first element (R133). -/
def rowAddr (e : TEnt) (r : List Nat) : Nat := e.base + nth r 0 * e.s1 + nth r 1 * e.s2 + nth r 2 * e.s3

/-- The index of a row's first scale, for scales of G elements (R133). -/
def rowScale (e : TEnt) (r : List Nat) : Nat := ((nth r 2 * e.d2 + nth r 1) * e.d1 + nth r 0) * (e.d0 / e.group)

/-- Whether a row lies in the tensor (R143). -/
def rowIn (e : TEnt) (r : List Nat) : Bool :=
  (List.range 3).all fun i => if i + 1 ≤ e.rank then nth r i < e.ext (i + 1) else nth r i = 0

/-- How many of m elements from column c of a row are in the tensor. -/
def inside (j : Job) (e : TEnt) (r : List Nat) (c m : Nat) : Nat :=
  if !j.outside then m else if rowIn e r then min m (e.d0 - c) else 0

/-! ### Accesses of engines (R97, R99, R141) -/

/-- Whether the map takes a part of a row: register files, core SRAM and accumulator memory are reached in whole
sectors, which the row's range from lo to hi must cover. -/
def rowWide (write : Bool) (lo hi va pa n : Nat) : Bool :=
  match place pa with
  | .win _ o =>
    if o < 0x180000 || (0x2000000 ≤ o && o < 0x4000000) then lo ≤ va / 32 * 32 && (va + n + 31) / 32 * 32 ≤ hi
    else if o < 0x2000000 then (n == 4 || n == 8) && va % n == 0
    else n == 8 && va % 8 == 0
  | .ctl _ o => if o < 0x1000 && !write then [1, 2, 4, 8].contains n && va % n == 0 else n == 8 && va % 8 == 0
  | _ => true

/-- A part of an access that failed: why, its address and its length. -/
structure EFail where
  err : EErr
  va : Nat
  n : Nat
deriving DecidableEq, Repr

/-- Whether a range of addresses touches sectors of a list. -/
def inSectors (lost : List Nat) (lo hi : Nat) : Bool := lost.any fun k => 32 * k < hi && lo < 32 * k + 32

/-- The parts of a range that are accessed: pages, and the sectors of them that have not failed. -/
def liveParts (lost : List Nat) (va n : Nat) : List (Nat × Nat) :=
  (piecesOf va n).flatMap fun p =>
    if !inSectors lost p.1 (p.1 + p.2) then [p]
    else ((sectorsOf p.1 p.2).filter fun k => !lost.contains k).map fun k =>
      let a := max p.1 (32 * k)
      (a, min (p.1 + p.2) (32 * k + 32) - a)

/-- Parts translated, each with its physical address. -/
def partsXl (s : State) (d ctx : Nat) (need : Need) :
    List (Nat × Nat) → State × Except EFail (List (Nat × Nat × Nat))
  | [] => (s, .ok [])
  | (a, n) :: rest =>
    match piecesXl s d ctx need [(a, n)] with
    | (s, .error e) => (s, .error { err := e, va := a, n })
    | (s, .ok ps) =>
      match partsXl s d ctx need rest with
      | (s, .ok qs) => (s, .ok ((ps.map fun p => (a, p.1, n)) ++ qs))
      | e => e

/-- A part of a row translated, but for the sectors that failed before: the address, physical address and length of each
part. -/
def engXl (s : State) (d ctx : Nat) (need : Need) (lo hi va n : Nat) (lost : List Nat) :
    State × Except EFail (List (Nat × Nat × Nat)) :=
  match partsXl s d ctx need (liveParts lost va n) with
  | (s, .error e) => (s, .error e)
  | (s, .ok ps) =>
    match List.find? (fun (p : Nat × Nat × Nat) => !rowWide (need == .write) lo hi p.1 p.2.1 p.2.2) ps with
    | some p => (s, .error { err := .width p.1, va := p.1, n := p.2.2 })
    | none =>
      match winGates s (ps.map Prod.snd) with
      | (s, true) => (s, .ok ps)
      | (s, false) => (s, .error { err := .gated, va, n })

/-- Parts read: the bytes of each with its address. -/
def partsRead (s : State) (d : Nat) : List (Nat × Nat × Nat) → State × Except EFail (List (Nat × List Byte))
  | [] => (s, .ok [])
  | (va, pa, n) :: rest =>
    match readAt s (64 * d) d .k pa n with
    | .unmapped => (logFail s d pa n .unmapped, .error { err := .unmapped, va, n })
    | .bad =>
      let k := (s.firstBad pa n).getD (sectorOf pa)
      let a := max pa (32 * k)
      (logFail s d pa n .bad, .error { err := .bad, va := va + (a - pa), n := min (pa + n) (32 * k + 32) - a })
    | .ok x =>
      match partsRead (arriveLines (readLeaves s (64 * d) d .k pa n) d pa n) d rest with
      | (s, .ok bs) => (s, .ok ((va, bytesOf x n) :: bs))
      | e => e

/-- Bytes of a row read at the home slice (R319); zero stands for the sectors that failed before. -/
def engRead (s : State) (d ctx lo hi va n : Nat) (lost : List Nat) : State × Except EFail (List Byte) :=
  if n = 0 then (s, .ok [])
  else
    match engXl s d ctx .read lo hi va n lost with
    | (s, .error e) => (s, .error e)
    | (s, .ok ps) =>
      match partsRead s d ps with
      | (s, .error e) => (s, .error e)
      | (s, .ok bs) =>
        let r := bs.foldl (fun (r : Nat × List (List Byte)) p =>
          (p.1 + p.2.length, p.2 :: List.replicate (p.1 - r.1) 0 :: r.2)) (va, [])
        (s, .ok ((List.replicate (va + n - r.1) 0 :: r.2).reverse.flatMap id))

/-! ### Source elements (R137) -/

/-- A source element: a cell, or +0 outside the tensor. -/
abbrev Elem := Option Cell

/-- The bytes that m elements from column c take, from the start of their row. -/
def spanOf (b c m : Nat) : Nat × Nat := (c * b / 8, ((c + m) * b + 7) / 8)

/-- m elements of a row of memory from column c; the region's row runs from column c0 to c1. -/
def readMem (s : State) (d ctx : Nat) (e : TEnt) (r : List Nat) (c m c0 c1 : Nat) (lost : List Nat) :
    State × Except EFail (List Cell) :=
  let b := fmtBits e.fmt
  let a := rowAddr e r
  let (lo, hi) := spanOf b c m
  let (rlo, rhi) := spanOf b c0 (c1 - c0)
  match engRead s d ctx (a + rlo) (a + rhi) (a + lo) (hi - lo) lost with
  | (s, .error x) => (s, .error x)
  | (s, .ok bs) =>
    let x := ofBytes bs
    let code := fun (i : Nat) => x / 2 ^ ((c + i) * b - lo * 8) % 2 ^ b
    if e.kind = 0 || m = 0 then (s, .ok ((List.range m).map fun i => { code := code i }))
    else
      let g := e.group
      let q0 := rowScale e r + c / g
      let qn := (c + m + g - 1) / g - c / g
      let w := if e.kind = 2 then 2 else 1
      let sa := e.sbase + w * q0
      let all := (rowScale e r + c0 / g, rowScale e r + (c1 + g - 1) / g)
      match engRead s d ctx (e.sbase + w * all.1) (e.sbase + w * all.2) sa (w * qn) lost with
      | (s, .error x) => (s, .error x)
      | (s, .ok sc) =>
        let scale := fun (i : Nat) => ofBytes ((sc.drop (w * ((c + i) / g - c / g))).take w)
        if e.kind = 1 then (s, .ok ((List.range m).map fun i => { code := code i, scale := scale i }))
        else
          let (zlo, zhi) := spanOf b q0 qn
          let (alo, ahi) := spanOf b all.1 (all.2 - all.1)
          match engRead s d ctx (e.zbase + alo) (e.zbase + ahi) (e.zbase + zlo) (zhi - zlo) lost with
          | (s, .error x) => (s, .error x)
          | (s, .ok zs) =>
            let zero := fun (i : Nat) => ofBytes zs / 2 ^ ((q0 + ((c + i) / g - c / g)) * b - zlo * 8) % 2 ^ b
            (s, .ok ((List.range m).map fun i => { code := code i, scale := scale i, zero := zero i }))

/-- Whether elements are copied bit for bit. -/
def Job.same (j : Job) : Bool := j.src.e.fmt == j.dst.e.fmt && j.src.e.kind == j.dst.e.kind && j.src.e.gsz == j.dst.e.gsz

/-- The columns, and so the source elements, that a destination element is made of: a run where it is pruned. -/
def Job.srcRun (j : Job) (c : Nat) : Nat × Nat :=
  if j.dst.e.prune = 0 then (c, 1) else (j.src0 c, (pruneOf j.dst.e.prune).1)

/-- The bytes of memory that hold elements of a source row, those of their scales and those of their zero points. -/
def Job.srcBytes (j : Job) (row : List Nat) (x n : Nat) : (Nat × Nat) × (Nat × Nat) × (Nat × Nat) :=
  let e := j.src.e
  let g := e.group
  let r := rowIdx j.so row
  let x := nth j.so 0 + x
  let (lo, hi) := spanOf (fmtBits e.fmt) x n
  let q := rowScale e r + x / g
  let k := (x + n + g - 1) / g - x / g
  let w := if e.kind = 2 then 2 else 1
  let p := spanOf (fmtBits e.fmt) q k
  ((rowAddr e r + lo, rowAddr e r + hi), (e.sbase + w * q, e.sbase + w * (q + k)), (e.zbase + p.1, e.zbase + p.2))

/-- Whether a test holds of source bytes that a destination element is computed from. -/
def Job.uses (j : Job) (hit : Nat × Nat → Bool) (row : List Nat) (c : Nat) : Bool :=
  let (x, n) := j.srcRun c
  let (a, b, z) := j.srcBytes row x n
  hit a || (!(j.same && j.dst.e.prune == 0) && ((j.src.e.kind != 0 && hit b) || (j.src.e.kind == 2 && hit z)))

/-- Whether what a block writes depends on a failed read: an element by its number in the block, its scale and its zero
point. A block that is scaled anew depends on all its elements. -/
def Job.lost (j : Job) (u : Nat) (lost : List Nat) : (Nat → Bool) × Bool × Bool :=
  if lost.isEmpty || j.src.tile.isSome then (fun _ => false, false, false)
  else
    let hit := fun (p : Nat × Nat) => inSectors lost p.1 p.2
    let (row, c, m) := j.at u
    if j.dst.e.kind = 1 && !j.same then
      let all := (List.range m).any fun i => j.uses hit row (c + i)
      (fun _ => all, all, all)
    else
      let (_, b, z) := j.srcBytes row c 1
      (fun i => j.uses hit row (c + i), hit b, hit z)

/-- The source elements of a block; +0 stands for one that cannot be computed with. -/
def readBlock (s : State) (d ctx : Nat) (j : Job) (u : Nat) (lost : List Nat) : State × Except EFail (List Elem) :=
  let (row, c, m) := j.at u
  let lo := j.src0 c
  let n := j.src0 (c + m) - lo
  match j.src.tile with
  | some (core, base) =>
    let img : Img := fun o => sramByte s core (base + o)
    (s, .ok ((List.range n).map fun i => some (tileCell j.src.e img (nth row 0) (lo + i))))
  | none =>
    let r := rowIdx j.so row
    let c0 := nth j.so 0 + lo
    let k := inside j j.src.e r c0 n
    let first := nth j.so 0
    match readMem s d ctx j.src.e r c0 k first (first + inside j j.src.e r first (j.src0 (nth j.ext 0))) lost with
    | (s, .error x) => (s, .error x)
    | (s, .ok cs) =>
      let cut := fun (i : Nat) =>
        !lost.isEmpty && !(j.same && j.dst.e.prune == 0) &&
          (let (a, b, z) := j.srcBytes row (lo + i) 1
           inSectors lost a.1 a.2 || (j.src.e.kind != 0 && inSectors lost b.1 b.2) || (j.src.e.kind == 2 && inSectors lost z.1 z.2))
      (s, .ok ((cs.zipIdx.map fun p => if cut p.2 then none else some p.1) ++ List.replicate (n - k) none))

/-! ### Values and codes (R122 to R124, R128, R137) -/

/-- The value of a source element, with the flags of reading it; a raw one has none. -/
def elemVal (e : TEnt) (x : Elem) : Val × Fl :=
  match x, fmtType e.fmt with
  | some c, some t =>
    if e.kind != 0 then cellVal t e.kind false c
    else if t.isInt then (.num (.ofInt (tyInt t c.code)), 0)
    else (srcVal t false c.code, 0)
  | _, _ => (Val.zero false, 0)

/-- One element converted to a plain destination. -/
def elemTo (e f : TEnt) (mode : Rnd) (x : Elem) : Nat × Fl :=
  match fmtType e.fmt, fmtType f.fmt with
  | some a, some b =>
    match x with
    | some c =>
      if e.kind = 0 then convert a b { mode } c.code
      else
        let v := elemVal e x
        let y := if b.isInt then toInt b { mode } v.1 else toFloat b { mode } v.1
        (y.1, y.2 ||| v.2)
    | none => if b.isInt then (0, 0) else toFloat b { mode } (Val.zero false)
  | _, _ => ((x.map Cell.code).getD 0, 0)

/-- Whether an element of a run ranks above another by magnitude (R128). -/
def outranks (x y : Val × Nat) : Bool :=
  let more := match x.1, y.1 with
    | .nan _ _, .nan _ _ => none
    | .nan _ _, _ => some true
    | _, .nan _ _ => some false
    | .inf _, .inf _ => none
    | .inf _, _ => some true
    | _, .inf _ => some false
    | .num a, .num b => if b.magLt a then some true else if a.magLt b then some false else none
  match more with
  | some b => b
  | none => x.2 < y.2

/-- The indices that pruning to k keeps of a run (R128). -/
def keepOf (k : Nat) (vs : List Val) : List Nat :=
  let xs := vs.zipIdx
  (xs.filter fun x => (xs.filter fun y => outranks y x).length < k).map Prod.snd

/-- What a block becomes: the destination codes, then its scale and zero point where the destination has them, or the
kept indices of a pruned one. A raw element has no value, and its rank in a pruning is free. -/
def blockOut (s : State) (j : Job) (u : Nat) (xs : List Elem) : List Nat × Fl :=
  let e := j.src.e
  let f := j.dst.e
  let codes := xs.map fun x => (x.map Cell.code).getD 0
  if f.prune != 0 then
    let (n, k) := pruneOf f.prune
    let runs := chunk n xs.length xs
    let kept := runs.zipIdx.map fun p =>
      let vs := p.1.zipIdx.map fun q =>
        if isRaw e.fmt then Val.ofNat (s.free (2 ^ 38 + (u * 64 + p.2) * 8 + q.2)).toNat else (elemVal e q.1).1
      (keepOf k vs).map fun i => (i, (p.1[i]?).getD none, (vs[i]?).getD (Val.zero false))
    let all := kept.flatMap id
    let out := all.map fun q => if j.same then ((q.2.1.map Cell.code).getD 0, (0 : Fl)) else elemTo e f j.mode q.2.1
    (out.map Prod.fst ++ all.map Prod.fst,
      (out.zip all).foldl (fun fl p => fl ||| p.1.2 ||| (if p.2.2.2.isNan && !isRaw e.fmt then Fl.nx else 0)) 0)
  else if j.same then
    let first := (xs.head?.bind id).getD { code := 0 }
    (codes ++ (if f.kind = 0 then [] else if f.kind = 1 then [first.scale] else [first.scale, first.zero]), 0)
  else if f.kind = 1 then
    match fmtType f.fmt with
    | some t =>
      let vs := xs.map (elemVal e)
      let sc := blockScale t (vs.map Prod.fst)
      let out := vs.map fun v => let y := toBlock t { mode := j.mode } sc v.1; (y.1, y.2 ||| v.2)
      (out.map Prod.fst ++ [sc], out.foldl (fun fl p => fl ||| p.2) 0)
    | none => (codes ++ [0], 0)
  else
    let out := xs.map (elemTo e f j.mode)
    (out.map Prod.fst, out.foldl (fun fl p => fl ||| p.2) 0)

/-! ### Destination bytes that receive undefined values (R137) -/

/-- The byte ranges that a command writes in memory, by row: those of its elements and scales, then those of its zero
points. Neighbouring rows may share a byte of zero points, each of them its own nibble there. -/
def Job.spans (j : Job) : List (Nat × Nat) × List (Nat × Nat) :=
  let e := j.dst.e
  let g := e.group
  let c := nth j.dO 0
  let n := nth j.ext 0
  let rows := (List.range j.rows).map fun i =>
    let (row, _, _) := j.at (i * j.perRow)
    let r := rowIdx j.dO row
    (r, rowScale e r + c / g, rowScale e r + (c + n + g - 1) / g)
  (rows.flatMap fun (r, q0, q1) =>
      let (lo, hi) := spanOf (fmtBits e.fmt) c (inside j e r c n)
      (rowAddr e r + lo, rowAddr e r + hi)
        :: (if e.kind = 1 then [(e.sbase + q0, e.sbase + q1)] else if e.kind = 2 then [(e.sbase + 2 * q0, e.sbase + 2 * q1)] else []),
    if e.kind = 2 then rows.map fun (_, q0, q1) =>
      let p := spanOf (fmtBits e.fmt) q0 (q1 - q0)
      (e.zbase + p.1, e.zbase + p.2)
    else [])

/-- Whether a command reaches a byte of memory twice (R137). -/
def reachedTwice (spans : List (Nat × Nat) × List (Nat × Nat)) (x : Nat) : Bool :=
  let on := fun (p : Nat × Nat) => p.1 ≤ x && x < p.2
  (spans.1.filter on).length + (spans.2.any on).toNat ≥ 2

def touches (xs : List (Nat × Nat)) (lo hi : Nat) : Bool := lo < hi && xs.any fun p => p.1 < hi && lo < p.2

/-- Whether an element of a block has source bytes that the command writes. -/
def Job.tainted (j : Job) (spans : List (Nat × Nat)) (row : List Nat) (c : Nat) : Bool :=
  let (x, n) := j.srcRun c
  let (a, b, z) := j.srcBytes row x n
  touches spans a.1 a.2 || (j.src.e.kind != 0 && touches spans b.1 b.2) || (j.src.e.kind == 2 && touches spans z.1 z.2)

/-- Bytes replaced by free values where a test holds of their address. -/
def freeBytes (s : State) (va : Nat) (bad : Nat → Bool) (bs : List Byte) : List Byte :=
  bs.zipIdx.map fun p => if bad (va + p.2) then (s.free (2 ^ 39 + va + p.2)).truncate 8 else p.1

/-! ### Writes (R114, R133, R134) -/

/-- The bytes from b that an aligned 8-byte unit has of a range of n bytes at a, as a mask. -/
def unitMask (unit a n : Nat) : BitVec 8 :=
  BitVec.ofNat 8 (((List.range 8).map fun i => if a ≤ 8 * unit + i && 8 * unit + i < a + n then 2 ^ i else 0).sum)

/-- A command writes bytes of a unit (R137): where others have written there and reached it later, their bytes stand. The
claims, and the mask of the bytes that are not written. -/
def claimUnit (cs : List Claim) (no : Nat) (m : BitVec 8) : List Claim × BitVec 8 :=
  if cs.any fun k => k.cmd == no then
    let newer := cs.takeWhile fun k => k.cmd != no
    (cs.map fun k => if k.cmd == no then { k with bytes := k.bytes ||| m } else k, newer.foldl (fun x k => x ||| k.bytes) 0)
  else if cs.isEmpty && m == BitVec.allOnes 8 then ([], 0)
  else ({ cmd := no, bytes := m } :: cs, 0)

/-- The claims on the units of a range, and the addresses there that a command's write leaves alone (R137). -/
def claimRange (s : State) (no a n : Nat) : State × List Nat :=
  (List.range ((a + n + 7) / 8 - a / 8)).foldl (fun (r : State × List Nat) i =>
    let u := a / 8 + i
    let (cs, gone) := claimUnit (r.1.claims.getD u []) no (unitMask u a n)
    ({ r.1 with claims := if cs.isEmpty then r.1.claims.del u else r.1.claims.set u cs },
      r.2 ++ ((List.range 8).filter fun b => gone.getLsbD b).map (8 * u + ·))) (s, [])

/-- A byte as a write that covers a part of it finds it. -/
def oldByte (s : State) (pa : Nat) : Byte :=
  match place pa with
  | .win c o => winByte s c o
  | _ => homeByte s pa

/-- Bits of a row of memory written: n bits from bit `off` past an address, the other bits of its first and last bytes
kept; elements, or their scale or zero point. -/
structure BitWrite where
  lo : Nat
  hi : Nat
  va : Nat
  off : Nat
  n : Nat
  x : Nat
  elem : Bool := true

/-- The writes of a block, each translated before any is made. -/
def engXls (s : State) (d ctx : Nat) (lost : List Nat) :
    List BitWrite → State × Except EFail (List (BitWrite × Nat × Nat × Nat))
  | [] => (s, .ok [])
  | b :: bs =>
    match engXl s d ctx .write b.lo b.hi (b.va + b.off / 8) ((b.off % 8 + b.n + 7) / 8) lost with
    | (s, .error e) => (s, .error e)
    | (s, .ok ps) =>
      match engXls s d ctx lost bs with
      | (s, .ok qs) => (s, .ok ((ps.map fun p => (b, p)) ++ qs))
      | e => e

/-- The bytes that a write leaves in a part of its range. -/
def BitWrite.bytes (s : State) (b : BitWrite) (va pa n : Nat) : List Byte :=
  let start := 8 * (va - b.va)
  let lo := max start b.off
  let hi := min (start + 8 * n) (b.off + b.n)
  let edge := lo != start || hi != start + 8 * n
  let old := if edge then ofBytes ((List.range n).map fun i => oldByte s (pa + i)) else 0
  let k := lo - start
  bytesOf (old - old / 2 ^ k % 2 ^ (hi - lo) * 2 ^ k + b.x / 2 ^ (lo - b.off) % 2 ^ (hi - lo) * 2 ^ k) n

/-- The codes of a block as one number. -/
def packed (b : Nat) : List Nat → Nat
  | [] => 0
  | x :: xs => x % 2 ^ b + 2 ^ b * packed b xs

/-- The codes to write, as numbers of elements from one: all in one run, or one by one where some depend on a failed
read. -/
def codeRuns (b : Nat) (lost : Nat → Bool) (out : List Nat) : List (Nat × Nat × Nat) :=
  if (List.range out.length).any lost then
    out.zipIdx.filterMap fun p => if lost p.2 then none else some (p.2, 1, p.1)
  else [(0, out.length, packed b out)]

/-- What a block writes in memory: its elements, its scale and its zero point, but for what depends on a failed read. -/
def Job.writes (j : Job) (u : Nat) (out : List Nat) (gone : List Nat) : List BitWrite :=
  let e := j.dst.e
  let b := fmtBits e.fmt
  let g := e.group
  let (row, c, m) := j.at u
  let r := rowIdx j.dO row
  let col := nth j.dO 0 + c
  let k := inside j e r col m
  let a := rowAddr e r
  let first := nth j.dO 0
  let (rlo, rhi) := spanOf b first (inside j e r first (nth j.ext 0))
  let q := rowScale e r + col / g
  let q0 := rowScale e r + first / g
  let q1 := rowScale e r + (first + nth j.ext 0 + g - 1) / g
  let (le, ls, lz) := j.lost u gone
  let elems : List BitWrite := (codeRuns b le (out.take k)).map fun p =>
    { lo := a + rlo, hi := a + rhi, va := a, off := (col + p.1) * b, n := p.2.1 * b, x := p.2.2 }
  let w := if e.kind = 2 then 2 else 1
  let scale : List BitWrite := if ls then [] else
    [{ lo := e.sbase + w * q0, hi := e.sbase + w * q1, va := e.sbase + w * q, off := 0, n := 8 * w, x := nth out m, elem := false }]
  let p := spanOf b q0 (q1 - q0)
  let zero : List BitWrite := if lz then [] else
    [{ lo := e.zbase + p.1, hi := e.zbase + p.2, va := e.zbase, off := q * b, n := b, x := nth out (m + 1), elem := false }]
  if k = 0 then [] else elems ++ (if e.kind = 0 then [] else if e.kind = 1 then scale else scale ++ zero)

/-- A block written in memory, or the part that fails. -/
def writeMem (s : State) (d ctx no : Nat) (j : Job) (u : Nat) (out gone lost : List Nat) : State × Option EFail :=
  match engXls s d ctx lost (j.writes u out gone) with
  | (s, .error e) => (s, some e)
  | (s, .ok ws) =>
    match List.find? (fun (p : BitWrite × Nat × Nat × Nat) => unmapped s p.2.2.1) ws with
    | some p => (logFail s d p.2.2.1 p.2.2.2 .unmapped, some { err := .unmapped, va := p.2.1, n := p.2.2.2 })
    | none =>
      match List.find? (fun (p : BitWrite × Nat × Nat × Nat) => forwardWaits s d p.2.2.1) ws with
      | some p => (s, some { err := .gated, va := p.2.1, n := p.2.2.2 })
      | none =>
      let spans := j.spans
      let (row, c, m) := j.at u
      let b := fmtBits j.dst.e.fmt
      let bad := if j.src.tile.isSome then [] else ((List.range m).filter fun i => j.tainted (spans.1 ++ spans.2) row (c + i))
      let a := rowAddr j.dst.e (rowIdx j.dO row)
      let badAt := fun (isElem : Bool) (x : Nat) =>
        reachedTwice spans x
          || (if isElem then bad.any fun i => let p := spanOf b (nth j.dO 0 + c + i) 1; a + p.1 ≤ x && x < a + p.2
              else !bad.isEmpty)
      (ws.foldl (fun s p =>
        let (w, va, pa, n) := p
        let bs := freeBytes s va (badAt w.elem) (w.bytes s va pa n)
        let (s, kept) := if isCached pa then claimRange s no pa n else (s, [])
        let bs := if kept.isEmpty then bs else bs.zipIdx.map fun q => if kept.contains (pa + q.2) then oldByte s (pa + q.2) else q.1
        (physWrites (arriveLines s d pa n) d ctx [(pa, n)] bs).1) s, none)

/-- A block written to a tile's buffer (R134, R146), but for what depends on a failed read. -/
def writeTile (s : State) (core base : Nat) (j : Job) (u : Nat) (out gone : List Nat) : State :=
  let e := j.dst.e
  let b := fmtBits e.fmt
  let (row, c, m) := j.at u
  let i := nth row 0
  let (le, ls, lz) := j.lost u gone
  let s := (codeRuns b le (out.take m)).foldl
    (fun s p => putBits s core (base + i * e.rowBytes) ((c + p.1) * b) (p.2.1 * b) p.2.2) s
  if e.kind = 0 then
    if e.prune = 0 then s
    else
      let l := log2n (pruneOf e.prune).1
      (codeRuns l le (out.drop m)).foldl
        (fun s p => putBits s core (base + e.metaOff + i * e.metaRow) ((c + p.1) * l) (p.2.1 * l) p.2.2) s
  else
    let g := i * (e.tc / e.group) + c / e.group
    let w := if e.kind = 2 then 2 else 1
    let s := if ls then s else putBits s core (base + e.scaleOff + w * g) 0 (8 * w) (nth out m)
    if e.kind = 1 || lz then s else putBits s core (base + e.zeroOff) (g * b) b (nth out (m + 1))

/-- A block written. -/
def writeBlock (s : State) (d ctx no : Nat) (j : Job) (u : Nat) (out gone lost : List Nat) : State × Option EFail :=
  match j.dst.tile with
  | some (core, base) => (writeTile s core base j u out gone, none)
  | none => writeMem s d ctx no j u out gone lost

/-! ### Legality (R136) -/

/-- Whether a region leaves a side, or does not fit its rank or blocks; n0 is its extent along d0 on that side. -/
def badRegion (x : Side) (o ext : List Nat) (n0 : Nat) : Bool :=
  let e := x.e
  let n := fun (i : Nat) => if i = 0 then n0 else nth ext i
  let odd := e.kind != 0 && (nth o 0 % e.group != 0 || n0 % e.group != 0)
  odd || (match x.tile with
    | some _ => o.any (· != 0) || n0 :: ext.drop 1 != [e.tc, e.tr, 0, 0]
    | none => (List.range 4).any fun i =>
        if i ≤ e.rank then n i == 0 || nth o i + n i > e.ext i else n i != 0 || nth o i != 0)

/-- Whether two formats cannot be paired (R131, R136). -/
def badPair (e f : TEnt) : Bool :=
  (f.kind == 2 && (e.fmt != f.fmt || e.kind != f.kind || e.gsz != f.gsz))
    || (isRaw e.fmt != isRaw f.fmt) || (isRaw e.fmt && fmtBits e.fmt != fmtBits f.fmt)

end Sys2Proof.Machine
end

