-- ==== Sys2Proof/Machine/Rings.lean ====
section
/-! DEFINITION. The rings of stall samples and memory request samples (20_debug_replay.md R394, R400, R402 to R404):
one write of a record, dropped when the ring is full or frozen. -/

namespace Sys2Proof.Machine

namespace State

/-- A record for the ring whose base, tail, head and lost registers start at `base`, under the control register `ctl`;
2^(n + small) records. The answer says whether it was written (R402). -/
def ringPut (s : State) (d base ctl small : Nat) (code : Nat) (rec_ : List Byte) : State × Bool :=
  let b := s.reg d base
  let size := 2 ^ (bits b 4 0 + small)
  let tail := (s.reg d (base + 8)).toNat % 2 ^ 32
  let head := (s.reg d (base + 16)).toNat % 2 ^ 32
  if bit (s.reg d ctl) 61 || (tail + 2 ^ 32 - head) % 2 ^ 32 ≥ size then
    ((s.count d (base + 24)).note d 16, false)
  else
    let s := s.ringWrite d (bits b 51 12 * 4096 + rec_.length * (tail % size)) rec_
    ((s.updReg d (base + 8) (BitVec.ofNat 64 ((tail + 1) % 2 ^ 32))).note d code, true)

/-- A memory request sample (R404): its words, with the hop fields that no rule fixes left free. -/
def samplePut (s : State) (t : Tx) (a : Acc) (served : Nat) (since : Nat) (place : Word) : State :=
  let d := dieOf t.wave
  let kind := match t.kind with
    | .load => 0 | .store => 1 | .atomic _ | .exch | .cas => 2 | .reduce _ | .badd => 3 | .bread => 4
  let sc := match t.scope with | .w => 0 | .t => 1 | .d => 2 | .k => 3 | .s => 4
  let total := min (s.now (clockOf t.wave) - since) (2 ^ 32 - 1)
  let hops := s.free 0x404
  let ws := [kind * 2 ^ 60 + sc * 2 ^ 57 + t.pc.toNat % 2 ^ 56,
    t.seq.toNat * 2 ^ 32 + a.lane * 2 ^ 26 + served * 2 ^ 23 + t.ctx % 2 ^ 12,
    a.pa % 2 ^ 52, place.toNat, hops.toNat, (s.free 0x405).toNat % 2 ^ 32 * 2 ^ 32 + total, 0, 0]
  (s.ringPut d 0x51D0 0x51C0 4 17 (ws.flatMap fun x => bytesOf x 8)).1

end State

end Sys2Proof.Machine
end

