-- ==== Sys2Proof/Machine/Sched.lean ====
section
/-! DEFINITION. What moves next: the lane groups of a wave, the choice of a slice cycle (18_scheduling.md R370 to
R373), the control cores, and the device's events. Every function that runs an instruction takes `run`, which `Step`
gives as `exec`. -/

namespace Sys2Proof.Machine

abbrev Runner := Instr → State → Host.Outcome State Fault Refusal

/-- What trying a lane group comes to. -/
inductive Try
  /-- nothing issued: held, waiting for a walk, parked -/
  | no (s : State)
  /-- a clause header was passed, which takes no issue cycle (R159) -/
  | pass (s : State)
  /-- a word issued; none where it trapped before execution -/
  | did (s : State) (i : Option Instr)
  /-- the machine stops -/
  | stop (o : Host.Outcome State Fault Refusal)

def isHeader : Instr → Bool
  | .clauseHeaderPass _ => true
  | _ => false

/-- The vector-ALU words of R373. -/
def vecAlu (i : Instr) : Bool :=
  match i with
  | .pairedWord _ _ => true
  | i =>
    match i.parts with
    | some p =>
      0x080 ≤ p.op && p.op ≤ 0x0CD && !p.scalarForm
        && !([p.ops.d, p.ops.a, p.ops.b, p.ops.c].contains .accdrain || (p.ops.pfx.bind Pfx.e) == some .accdrain)
    | none => false

/-- The state in which a lane group's word runs, and the state after it. -/
def issuing (s : State) (c : Cur) : State :=
  { s.updWave c.wave fun w => w.uncount c.mask with cur := some c, issued := false }
def settled (s : State) : State := { s with cur := none, issued := false }

/-- Tries a lane group of a wave: fetches, decodes and runs its word. Undefined behaviour leaves its context with nothing
that issues, and touches no other (R5, R346; log entry 15). -/
def tryGroup (run : Runner) (s : State) (key : Nat) (g : Mask) : Try :=
  match s.wave? key with
  | none => .no s
  | some w =>
    if w.stopped || (!isCtl key && s.halts (dieOf key) w.ctx) || s.lost.contains w.ctx then .no s
    else
      match peek s key w g with
      | .undef => .no { s with lost := w.ctx :: s.lost }
      | .not s' => if s'.issued then .did (settled s') none else .no s'
      | .instr s' c i =>
        match run i (issuing s' c) with
        | .next t => if t.issued then (if isHeader i then .pass (settled t) else .did (settled t) (some i)) else .no (settled t)
        | o => .stop o

/-- The lane groups of a wave that a turn may move. -/
def openGroups (w : Wave) : List Mask :=
  (w.groups.map fun g => g &&& w.lanesWhere fun l => !(Wave.blocked l)).filter fun g => g != 0

/-- A group that has been passed over in 64 issues of its wave (R373). -/
def passedOver (w : Wave) (g : Mask) : Bool := (lanesOf g).any fun l => (w.lane l).passes ≥ 64

/-- Whether a group is taken before another: passed over, then more populous, then the lower-numbered lane. -/
def before (w : Wave) (g h : Mask) : Bool :=
  if passedOver w g != passedOver w h then passedOver w g
  else if popc g != popc h then popc h < popc g
  else lowest g < lowest h

/-- The first group in the order of R373 among those that a test admits. -/
def bestGroup (w : Wave) (f : Mask → Bool) : Option Mask :=
  ((openGroups w).filter f).foldl (fun b g => match b with | none => some g | some h => if before w g h then some g else some h) none

/-- A group that waits at a clause header, whose flags are tested once in a cycle (R162). -/
def heldAtHeader (w : Wave) (g : Mask) : Bool :=
  let l := w.lane (lowest g)
  l.cl == .header && (match l.wait with | .held _ _ => true | _ => false)

/-- The secondary of a cycle whose primary is g (R373): the group, or a state in which its header has been passed. -/
inductive Second
  | none
  | group (g : Mask)
  | pass (s : State)

def secondOf (run : Runner) (s : State) (key : Nat) (tried : Mask) : Nat → Second
  | 0 => .none
  | n + 1 =>
    match s.wave? key with
    | none => .none
    | some w =>
      match bestGroup { w with lanes := w.lanes.map fun l => { l with passes := 0 } } fun g => g &&& tried == 0 && !heldAtHeader w g with
      | none => .none
      | some g =>
        match tryGroup run s key g with
        | .did _ (some i) => if vecAlu i then .group g else .none
        | .did _ none | .stop _ => .none
        | .no _ => secondOf run s key (tried ||| g) n
        | .pass s' =>
          match tryGroup run s' key g with
          | .did _ (some i) => if vecAlu i then .pass s' else .none
          | .did _ none | .stop _ | .pass _ => .none
          | .no _ => secondOf run s key (tried ||| g) n

/-- The pass-over counts of a dual issue, which is one issue of the wave. -/
def dualOver (s mid : State) (key : Nat) (both : Mask) : State :=
  let w' := mid.wave key
  s.updWave key fun w => w.mapLanes (BitVec.allOnes 64) fun i l =>
    { l with passes := if both.getLsbD i then 0 else (w'.lane i).passes }

/-- A slice notes its issue: the cycle and the primary's word. -/
def noteIssue (s : State) (key : Nat) (pc : Word) : State :=
  if isCtl key then s
  else s.updCore (coreOf key) fun c =>
    { c with slices := c.slices.modify (sliceOf key) fun x => { x with issuedAt := some (s.now (coreOf key), pc) } }

/-- Tries a wave: its primary, and with it the secondary where both words are vector-ALU (R373). Of two that issue in
one cycle the group with the lower-numbered lane comes first (R216), and both take their traps (R379). -/
def tryWave (run : Runner) (s : State) (key : Nat) (tried : Mask) : Nat → Try
  | 0 => .no s
  | n + 1 =>
    match s.wave? key with
    | none => .no s
    | some w =>
      match bestGroup w fun g => g &&& tried == 0 && !w.isHeld g && !heldAtHeader w g with
      | none => .no s
      | some g =>
        let pc := (w.lane (lowest g)).pc
        match tryGroup run s key g with
        | .no s' => tryWave run s' key (tried ||| g) n
        | .pass s' => .pass s'
        | .stop o => .stop o
        | .did s' none => .did (noteIssue s' key pc) none
        | .did s' (some i) =>
          if !vecAlu i || (openGroups w).length < 2 then .did (noteIssue s' key pc) (some i)
          else
            match secondOf run s key g 64 with
            | .none => .did (noteIssue s' key pc) (some i)
            | .pass s'' => .pass s''
            | .group h =>
              let (g1, g2) := if lowest h < lowest g then (h, g) else (g, h)
              let mid := match tryGroup run s key g1 with | .did t _ => t | _ => s
              let hit := (mid.wave key).stopped
              match tryGroup run (mid.updWave key fun w => { w with stopped := false }) key g2 with
              | .did t _ => .did (noteIssue (dualOver (t.updWave key fun w => { w with stopped := w.stopped || hit }) mid key (g ||| h)) key pc) (some i)
              | _ => .did (noteIssue mid key pc) (some i)

/-- Lane groups that yielded in the last cycle are free again (R350). -/
def unyield (w : Wave) : Wave :=
  w.mapLanes (w.lanesWhere fun l => l.wait == Wait.yield) fun _ l => { l with wait := Wait.none }

/-- The waves of a slice changed. -/
def onSlice (s : State) (core sl : Nat) (f : Wave → Wave) : State :=
  { s with waves := s.waves.map fun p => if p.1 / 32 == 8 * core + sl then (p.1, f p.2) else p }

/-- The groups of a wave that stand where a clause header must, in the order of their lowest lanes. -/
def headerGroups (w : Wave) : List Mask :=
  (openGroups w).filter fun g => !w.isHeld g && (w.lane (lowest g)).cl == .header

/-- Every clause header whose flags read clear at the end of the last cycle is passed, whichever group issues in this one
(R162); whether any was. -/
def passHeaders (run : Runner) (s : State) (keys : List Nat) : State × Bool :=
  keys.foldl (fun r key =>
    (headerGroups (r.1.wave key)).foldl (fun r g =>
      match tryGroup run r.1 key g with
      | .pass t => (t, true)
      | .no t => (t, r.2)
      | _ => r) r) (s, false)

/-- Tries the waves of a slice in the order of R371, from a list of wave slots. -/
def trySlots (run : Runner) (s : State) (core sl : Nat) : List Nat → Try
  | [] => .no s
  | slot :: rest =>
    match s.waves.find? (waveNo core sl slot) with
    | none => trySlots run s core sl rest
    | some _ =>
      match tryWave run s (waveNo core sl slot) 0 64 with
      | .no s' => trySlots run s' core sl rest
      | .did s' i => .did (s'.updCore core fun c => { c with last := c.last.set sl slot }) i
      | t => t

/-- The issue of a slice cycle (R371). -/
def sliceOn (run : Runner) (s : State) (core sl : Nat) : Try :=
  if coreOn s core then
    let first := ((s.core core).last[sl]?).getD 31 + 1
    trySlots run s core sl ((List.range 32).map fun i => (first + i) % 32)
  else .no s

/-- One slice cycle (R371): clause headers are passed on the flags of the last cycle's end (R162), what falls due in the
cycle does, and a wave issues. -/
def sliceCycle (run : Runner) (s : State) (core sl : Nat) : Try :=
  let keys := if coreOn s core then (s.waves.filter fun p => p.1 / 32 == 8 * core + sl).map Prod.fst else []
  let (s, passed) := passHeaders run (onSlice s core sl unyield) keys
  let s := onSlice s core sl Wave.beginCycle
  if passed then .pass s else sliceOn run s core sl

/-- The issue of a control core's cycle (R355). -/
def controlOn (run : Runner) (s : State) (die k : Nat) : Try := tryWave run s (ctlNo die k) 0 4

/-- One cycle of a control core. -/
def controlCycle (run : Runner) (s : State) (die k : Nat) : Try :=
  let key := ctlNo die k
  let (s, passed) := passHeaders run (s.updWave key unyield) [key]
  let s := s.updWave key Wave.beginCycle
  if passed then .pass s else controlOn run s die k

/-- What a cycle's outcome makes of the step: a passed header leaves the cycle to go on. -/
def fromTry (a : Act) : Try → Host.Outcome State Fault Refusal
  | .no s => .next s
  | .pass s => .next { s with agenda := a :: s.agenda }
  | .did s _ => .next s
  | .stop o => o

/-- An event that the agenda names; one that is not enabled is dropped. -/
def runEvent (run : Runner) (s : State) (i : Instr) (u : Subj) : Host.Outcome State Fault Refusal :=
  match run i { s with subj := u } with
  | .next t => .next { t with subj := {} }
  | .refused (.notEnabled _) => .next s
  | o => o

/-- Cycles that pass on one core, or for number 2^13 and above on every core (R345, R351). -/
def passTime (s : State) (core n : Nat) : State :=
  if core < 2 ^ 13 then s.updCore core fun c => { c with clock := c.clock + n } else { s with time := s.time + n }

/-- One entry of the agenda. -/
def runAct (run : Runner) (s : State) (a : Act) : Host.Outcome State Fault Refusal :=
  match a with
  | .slice core sl => fromTry (.sliceOn core sl) (sliceCycle run s core sl)
  | .control die k => fromTry (.controlOn die k) (controlCycle run s die k)
  | .sliceOn core sl => fromTry a (sliceOn run s core sl)
  | .controlOn die k => fromTry a (controlOn run s die k)
  | .event i u => runEvent run s i u
  | .tick core n => .next (passTime s core n)

/-- What a turn of the slices and control cores comes to. -/
inductive Turn
  /-- none issues; walks and wakes that they asked for are under way -/
  | idle (s : State)
  | ends (o : Host.Outcome State Fault Refusal)

/-- The first slice or control core that issues, from a list of wave numbers divided by 32. -/
def firstIssue (run : Runner) (s : State) : List Nat → Turn
  | [] => .idle s
  | q :: qs =>
    let d := (q - 2 ^ 15) / 2 % 4
    let k := (q - 2 ^ 15) % 2
    let t := if 2 ^ 15 ≤ q then controlCycle run s d k else sliceCycle run s (q / 8) (q % 8)
    match t with
    | .no s' => firstIssue run s' qs
    | .pass s' => .ends (.next { s' with agenda := (if 2 ^ 15 ≤ q then .controlOn d k else .sliceOn (q / 8) (q % 8)) :: s'.agenda })
    | .did s' _ => .ends (.next s')
    | .stop o => .ends o

/-- The slices and control cores that have a wave: slices by wave number / 32, control core k of die d by
2^15 + 2 d + k. -/
def issuers (s : State) : List Nat :=
  (s.waves.map fun p => if isCtl p.1 then 2 ^ 15 + (p.1 - 2 ^ 20) else p.1 / 32).eraseDups

/-- The first event of a list that is enabled. -/
def firstEvent (run : Runner) (s : State) : List (Instr × Subj) → Option (Host.Outcome State Fault Refusal)
  | [] => none
  | (i, u) :: rest =>
    match run i { s with subj := u } with
    | .next t => some (.next { t with subj := {} })
    | .refused _ => firstEvent run s rest
    | .fault f => some (.fault f)

/-- A list begun at another place, so that no entry is passed over for ever. -/
def rotate {α : Type} (l : List α) (n : Nat) : List α := l.drop (n % l.length) ++ l.take (n % l.length)

/-- What moves when the agenda names nothing: bring-up (R435), else in turn an issue before an event that work in flight
waits for, or the event before the issue, and else a cycle that passes. The order is the model's own choice (log
entry 1). -/
def byItself (run : Runner) (s : State) (events : List (Instr × Subj)) : Host.Outcome State Fault Refusal :=
  match s.dev with
  | .resetting => runEvent run s .reset {}
  | .training => runEvent run s .monitorReady {}
  | .failed _ => .next (passTime s (2 ^ 13) 1)
  | .ready | .running =>
    let t := passTime s (2 ^ 13) 1
    let issue := fun (s : State) => firstIssue run s (rotate (issuers s) (s.epoch / 2))
    let event := fun (s : State) => firstEvent run s (rotate events (s.epoch / 2))
    if s.epoch % 2 = 0 then
      match issue t with
      | .ends o => o
      | .idle t => (event t).getD (.next t)
    else
      match event t with
      | some o => o
      | none =>
        match issue t with
        | .ends o => o
        | .idle t => .next t

/-- One step of the machine: the counter of free values advances, and the first entry of the agenda moves. -/
def stepWith (run : Runner) (duties : State → List (Instr × Subj)) (s : State) : Host.Outcome State Fault Refusal :=
  let s := { s with epoch := s.epoch + 1 }
  match s.agenda with
  | [] => byItself run s (duties s)
  | a :: rest => runAct run { s with agenda := rest } a

end Sys2Proof.Machine
end

