-- ==== Sys2Proof/Machine/MemEvents.lean ====
section
/-! DEFINITION. What follows a memory instruction after it has issued (04_home_slices.md R61 to R73; 11_isa_memory.md
R190 to R192; 16_consistency.md R310 to R318; 19_faults_preemption.md R378): loads, stores on their way from the store
queue through the L1 and the die slice to the home slice, atomics, reductions and binned cells at the home slice, and
their acknowledgements. -/

namespace Sys2Proof.Machine

/-! ### Order among the accesses of one lane (R191, R315) -/

def overlaps (x y : Acc) : Bool := x.pa < y.pa + y.n && y.pa < x.pa + x.n

/-- How far an access has come: 3 where it has been performed for good. -/
def reached (t : Tx) (a : Acc) : Nat :=
  if a.failed.isSome then 3
  else
    match t.kind with
    | .load => if a.done then 3 else 0
    | .store | .reduce _ | .badd => a.stage
    | .atomic _ | .exch | .cas | .bread => if a.old.isSome then 3 else a.stage

/-- Whether an earlier access of the lane to the same bytes at the same scope has not come to a point yet (R315), or an
earlier access of the same instruction to the same bytes (R191). Stores in a private buffer are passed over (R407). -/
def behind (s : State) (no : Nat) (t : Tx) (i : Nat) (a : Acc) (stage : Nat) : Bool :=
  (s.txs.any fun p =>
    let u := p.2
    p.1 < no && u.wave == t.wave && u.serial == t.serial && u.scope == t.scope && !u.held
      && u.accs.any fun b => b.lane == a.lane && overlaps a b && reached u b < stage)
  || ((t.accs.take i).any fun b => overlaps a b && reached t b < stage
      && (match t.kind with | .store => true | _ => false))

/-- Whether an earlier store of a wave's lanes at .k to n bytes at an address has not been performed yet, for a request that
its slice performs at .k (R315). -/
def laneBehind (s : State) (wave serial : Nat) (lanes : Mask) (before pa n : Nat) : Bool :=
  s.txs.any fun p => p.1 < before && p.2.wave == wave && p.2.serial == serial && p.2.scope == .k && !p.2.held
    && p.2.accs.any fun b => lanes.getLsbD b.lane && pa < b.pa + b.n && b.pa < pa + n && reached p.2 b < 3

/-! ### Changing one access -/

def setAcc (s : State) (no i : Nat) (f : Acc → Acc) : State :=
  { s with txs := s.txs.upd no fun t => { t with accs := t.accs.zipIdx.map fun p => if p.2 == i then f p.1 else p.1 } }

/-- The access that an event names. -/
def accAt (s : State) (no i : Nat) : Option (Tx × Acc) :=
  match s.txs.find? no with
  | some t => (t.accs[i]?).map fun a => (t, a)
  | none => none

/-! ### Failing accesses (R378) -/

/-- The deferred trap of an instruction whose accesses have all been made: one record for it, with the lanes that
failed. It names the lowest failing lane's address; where lanes failed in two ways the trap is that lane's. -/
def strike (s : State) (no : Nat) : State :=
  match s.txs.find? no with
  | none => s
  | some t =>
    let bad := t.accs.filter fun a => a.failed.isSome
    match bad.foldl (fun (b : Option Acc) a => match b with | some x => if a.lane < x.lane then some a else b | none => some a) none with
    | none => s
    | some a =>
      let s := { s with txs := s.txs.upd no fun t => { t with struck := true } }
      if t.struck || (s.waveAt t.wave t.serial).isNone then s
      else
        let id := s.fresh
        let s := s.takeTrap t.wave (a.failed.getD .unmappedPhys) 0
          [(if t.scalar then t.sel else maskOf (bad.map fun x => x.lane), 0, t.pc, a.va)]
        s.updDie (dieOf t.wave) fun d =>
          { d with traps := d.traps.map fun r => if r.id == id then { r with seq := t.seq } else r }

/-- An access fails: it performs nothing, and the failure is logged (R28, R34, R43). -/
def failAcc (s : State) (no i : Nat) (t : Tx) (a : Acc) (tr : Trap) : State :=
  let s := if tr == .memUncorr then s.logBad a.pa a.n else s.logUnmapped a.pa (dieOf t.wave)
  setAcc s no i fun a => { a with failed := some tr, stage := 3 }

/-! ### The end of a transaction -/

/-- A transaction with nothing left to do is forgotten. -/
def sweepTx (s : State) (no : Nat) : State :=
  match s.txs.find? no with
  | none => s
  | some t =>
    if t.ldc || !t.owed.isEmpty || t.sample.isSome || t.held || (t.accs.any fun a => reached t a < 3)
        || (t.tasks.any fun k => k.old.isNone) then s
    else { s with txs := s.txs.del no }

/-- A value arrives for a register that an access writes (R192): an undefined one where it was written since. -/
def giveOut (epoch : Nat) (no : Nat) (w : Wave) (k : Nat) (x : Word) : Wave :=
  match w.outs.find? fun o => o.tx == no && o.reg == k with
  | none => w
  | some o =>
    let w := { w with outs := w.outs.erase o }
    let x := if o.hit then Config.freeWord epoch k else x
    w.putReg k x

/-- A register that no value arrives for keeps what it holds (R378). -/
def dropOut (no : Nat) (w : Wave) (k : Nat) : Wave :=
  match w.outs.find? fun o => o.tx == no && o.reg == k with
  | none => w
  | some o =>
    let w := { w with outs := w.outs.erase o }
    w

/-- The point that served an access, for its sample; where it is a slice or what lies behind it the choice is the
part's (R404). -/
def servedBy (s : State) (t : Tx) (a : Acc) : Nat :=
  match place a.pa with
  | .win _ _ | .ctl _ _ => 7
  | .peer _ _ => 6
  | .host => if t.scope == .s then 5 else 2
  | _ =>
    match t.scope with
    | .w | .t => (s.free 0x406).toNat % 5
    | .d => if homeDie a.pa 0 == dieOf t.wave then 2 + (s.free 0x406).toNat % 3 else 1
    | _ => 2 + (s.free 0x406).toNat % 3

/-- The sampled access of a transaction completes (R403). -/
def sampled (s : State) (no : Nat) : State :=
  match s.txs.find? no with
  | none => s
  | some t =>
    match t.sample, t.accs.head? with
    | some (since, at_), some a =>
      let s := { s with txs := s.txs.upd no fun t => { t with sample := none } }
      if a.failed.isSome then s else s.samplePut t a (servedBy s t a) since at_
    | _, _ => s

/-! ### Loads (R64, R188, R192, R310) -/

/-- The scope that a load's point is that of: with a team on a core pair .t is served as .d, and on a control core so
are .w and .t; a recorded launch reads at the home slice (R64, R310, R407). -/
def pointOf (s : State) (t : Tx) : Scope :=
  if !isCtl t.wave && (s.launch t.launch).rec_ != 0 then .k
  else
    let pair := match s.waveAt t.wave t.serial with
      | some w => (s.team w.team).pair
      | none => false
    match t.scope with
    | .w | .t => if isCtl t.wave || pair then .d else t.scope
    | x => x

/-- A wave's own earlier stores that still stand in its store queue, or in its private buffer (R64, R407), laid over
the bytes of a load. -/
def ownStores (s : State) (no : Nat) (t : Tx) (a : Acc) (x : Nat) : Nat :=
  let bs := bytesOf x a.n
  let bs := s.txs.foldl (fun bs p =>
    let u := p.2
    if p.1 < no && u.wave == t.wave && u.serial == t.serial && u.kind == .store && (u.held || t.scope == .w) then
      u.accs.foldl (fun bs b =>
        if (b.stage == 0 || u.held) && b.failed.isNone && overlaps a b then
          bs.zipIdx.map fun q =>
            if b.pa ≤ a.pa + q.2 && a.pa + q.2 < b.pa + b.n then
              BitVec.ofNat 8 (b.data.toNat / 2 ^ (8 * (a.pa + q.2 - b.pa)))
            else q.1
        else bs) bs
    else bs) bs
  let bs := s.replay.buffer.foldl (fun (bs : List Byte) e =>
    if e.wave == t.wave && e.op.isNone then
      bs.zipIdx.map fun q =>
        let at_ := a.pa + q.2
        if e.pa ≤ at_ && at_ < e.pa + e.bytes.length then (e.bytes[at_ - e.pa]?).getD q.1 else q.1
    else bs) bs
  ofBytes bs

/-- A load at .k or .s that passes through a die slice replaces the visitor copies of its bytes (R63). -/
def refreshVisitor (s : State) (d a n x : Nat) : State :=
  if homeDie a d == d then s
  else s.updDie d fun k =>
    { k with visitor := (bytesOf x n).zipIdx.foldl (fun (m : Map Byte) p =>
        let y := match List.find? (fun (q : Nat × Byte × Nat) => q.1 == a + p.2) k.held with
          | some q => q.2.1
          | none => p.1
        m.upd (a + p.2) fun _ => y) k.visitor }

/-- The destinations of one access are written, or keep what they hold; when the last one is, LDC and the flags fall
(R190, R192). -/
def finishAcc (s : State) (no i : Nat) (vals : List Word) : State :=
  match accAt s no i with
  | none => s
  | some (t, a) =>
    let keys := accKeys t t.dst i a.lane ++ accKeys t t.dst2 i a.lane
    let s := s.updWaveOld t.wave t.serial (fun w => decide (no < w.quantum.start)) fun w =>
      if a.failed.isSome then keys.foldl (dropOut no) w
      else (keys.zip vals).foldl (fun w p => giveOut s.epoch no w p.1 p.2) w
    let s := setAcc s no i fun a => { a with done := true }
    let s := if i == 0 then sampled s no else s
    match s.txs.find? no with
    | none => s
    | some t =>
      if t.accs.all fun a => a.done then
        let fl := t.accs.foldl (fun f a => f ||| a.fl) 0
        let s := s.updWaveOld t.wave t.serial (fun w => decide (no < w.quantum.start)) fun w =>
          ({ w with ldc := w.ldc - 1 }.lower t.seta t.setb).setFl (BitVec.ofNat 8 fl)
        sweepTx (strike { s with txs := s.txs.upd no fun t => { t with ldc := false } } no) no
      else s

/-- A load of one lane performed at a point, and its destination written. -/
def loadAcc (s : State) (no : Nat) (t : Tx) (sc : Scope) (i : Nat) (a : Acc) : State :=
  let d := dieOf t.wave
  match readAt s t.core d sc a.pa a.n with
  | .unmapped => finishAcc (failAcc s no i t a .unmappedPhys) no i []
  | .bad => finishAcc (failAcc s no i t a .memUncorr) no i []
  | .ok x =>
    let s := readLeaves s t.core d sc a.pa a.n
    let s := if isCached a.pa && (sc == .k || sc == .s) then refreshVisitor s d a.pa a.n x else s
    finishAcc s no i [extend t.ty (ownStores s no t a x)]

/-- LOAD_COMPLETE (R64, R188, R190, R191, R310): a load is performed at the point of its scope and its destination is
written, for every lane that names the same aligned unit of 8 bytes at the same moment; an atomic or a binned read that the home slice has performed, and a load that its target has served, gives its
destinations what it found. -/
def execLoadComplete (s : State) : Host.Outcome State Fault Refusal :=
  let name := "LOAD_COMPLETE"
  let no := s.subj.a
  let i := s.subj.b
  match accAt s no i with
  | none => notNow name
  | some (t, a) =>
    if a.done || !t.ldc then notNow name
    else
      match t.kind with
      | .store | .reduce _ | .badd => notNow name
      | .load =>
        if isMap a.pa && (match place a.pa with | .win _ _ => true | _ => false) then
          match a.old with
          | some x => .next (finishAcc s no i [extend t.ty x.toNat])
          | none => notNow name
        else
          let sc := pointOf s t
          let stage := match sc with | .w => 1 | .t => 1 | .d => 2 | _ => 3
          let waits := fun (i : Nat) (a : Acc) =>
            if t.scope == .w then behind { s with txs := s.txs.filter fun p => p.2.kind != .store } no t i a 1
            else behind s no t i a stage
          let unit := (t.accs.zipIdx.filter fun p => !p.1.done && p.1.pa / 8 == a.pa / 8)
          if unit.any fun p => waits p.2 p.1 then notNow name
          else
            let home := goesHome s t.core (dieOf t.wave) sc a.pa a.n
            let s := if home then s.arrive (slicePort t.wave a.pa) a.pa else s
            onTime name (.next (unit.foldl (fun s p => loadAcc s no t sc p.2 p.1) s))
      | .bread =>
        match a.old, a.failed with
        | none, none => notNow name
        | x, _ => .next (finishAcc s no i [x.getD 0])
      | .cas =>
        match a.old, a.failed with
        | none, none => notNow name
        | x, _ =>
          let win := ((casWins t.ty.bytes t.accs)[i]?).getD false
          .next (finishAcc s no i ((match t.dst with | .zero => [] | _ => [if win then 1 else 0]) ++ [extend t.ty (x.getD 0).toNat]))
      | .atomic _ | .exch =>
        match a.old, a.failed with
        | none, none => notNow name
        | x, _ => .next (finishAcc s no i [extend t.ty (x.getD 0).toNat])

/-! ### Stores on their way out (R64, R65, R311) -/

/-- The bytes of a store. -/
def accBytes (a : Acc) : List (Nat × Byte) := (bytesOf a.data.toNat a.n).zipIdx.map fun p => (a.pa + p.2, p.1)

/-- The bytes of a store held for the next point outward; they stand for older ones of the same addresses (R311, R314). -/
def holdBytes (no : Nat) (a : Acc) (h : List (Nat × Byte × Nat)) : List (Nat × Byte × Nat) :=
  (accBytes a).map (fun p => (p.1, p.2, no)) ++ h.filter fun p => !(a.pa ≤ p.1 && p.1 < a.pa + a.n)

/-- A store performed at the L1 of its core: a copy takes its bytes, and the L1 holds it for the die slice (R311). A
control core has no L1 point. -/
def atL1 (s : State) (no : Nat) (t : Tx) (a : Acc) : State :=
  if isCtl t.wave || !isCached a.pa then s
  else s.updCore t.core fun c =>
    { c with l1 := (accBytes a).foldl (fun (m : Map Byte) p => m.upd p.1 fun _ => p.2) c.l1,
             l1Held := holdBytes no a c.l1Held }

/-- Held bytes of an access are let go. -/
def release (no : Nat) (a : Acc) (h : List (Nat × Byte × Nat)) : List (Nat × Byte × Nat) :=
  h.filter fun p => !(p.2.2 == no && a.pa ≤ p.1 && p.1 < a.pa + a.n)

/-- A store that has not reached the L1 does so. -/
def throughL1 (s : State) (no i : Nat) (t : Tx) (a : Acc) : State :=
  if a.stage == 0 then setAcc (atL1 s no t a) no i fun a => { a with stage := 1 } else s

/-- DIE_SLICE_STORE (R65, R311): a store whose home is on another die is performed at its die slice, which holds it and
sends it on. -/
def execDieSliceStore (s : State) : Host.Outcome State Fault Refusal :=
  let name := "DIE_SLICE_STORE"
  let no := s.subj.a
  let i := s.subj.b
  match accAt s no i with
  | none => notNow name
  | some (t, a) =>
    let d := dieOf t.wave
    if t.kind != .store || t.held || a.stage ≥ 2 || !isCached a.pa || homeDie a.pa d == d || behind s no t i a 2 then
      notNow name
    else
      let s := throughL1 s no i t a
      let s := s.updCore t.core fun c => { c with l1Held := release no a c.l1Held }
      let s := s.updDie d fun k =>
        { k with visitor := (accBytes a).foldl (fun (m : Map Byte) p => m.upd p.1 fun _ => p.2) k.visitor,
                 held := holdBytes no a k.held,
                 fwd := k.fwd ++ [(no, i)] }
      .next (setAcc s no i fun a => { a with stage := 2 })

/-- Whether a forwarded store is the oldest that its die slice sends to its home slice (R65). -/
def oldestForward (s : State) (d no i pa : Nat) : Bool :=
  match (s.die d).fwd.find? fun p =>
      match accAt s p.1 p.2 with
      | some (_, b) => homeDie b.pa d == homeDie pa d && homeSlice b.pa == homeSlice pa
      | none => false with
  | some p => p == (no, i)
  | none => true

/-- A plain store at its home slice (R67, R36): one lane's bytes that cover a part of a failing sector are lost, and
logged (log entry 51). A store to host memory at a scope narrower than .s stays in the slice (R63, R64). -/
def storeHome (s : State) (sc : Scope) (a : Acc) : State :=
  match place a.pa with
  | .dev _ => s.homeWrite a.pa (bytesOf a.data.toNat a.n)
  | .host => if sc == .s then s.homeWrite a.pa (bytesOf a.data.toNat a.n) else s.hostKeep a.pa (bytesOf a.data.toNat a.n)
  | _ => s

/-- A store or reduction whose accesses have all been made takes its deferred trap (R378). -/
def settleStore (s : State) (no : Nat) : State :=
  match s.txs.find? no with
  | some t => if !t.ldc && t.accs.all fun a => reached t a ≥ 3 then sweepTx (strike s no) no else s
  | none => s

/-- HOME_STORE (R67, R77, R311): a store takes its place at its home slice, and registrations on its bytes are looked
at. -/
def execHomeStore (s : State) : Host.Outcome State Fault Refusal :=
  let name := "HOME_STORE"
  let no := s.subj.a
  let i := s.subj.b
  match accAt s no i with
  | none => notNow name
  | some (t, a) =>
    let d := dieOf t.wave
    let far := isCached a.pa && homeDie a.pa d != d
    if t.kind != .store || t.held || a.stage ≥ 3 || isMap a.pa || (far && a.stage < 2) || behind s no t i a 3
        || (far && !oldestForward s d no i a.pa) then notNow name
    else
      let s := throughL1 s no i t a
      let s := s.updCore t.core fun c => { c with l1Held := release no a c.l1Held }
      let s := s.updDie d fun k => { k with held := release no a k.held, fwd := k.fwd.filter fun p => p != (no, i) }
      let s := s.arrive (slicePort t.wave a.pa) a.pa
      let s := if unmapped s a.pa then failAcc s no i t a .unmappedPhys
        else setAcc (storeHome s t.scope a) no i fun a => { a with stage := 3 }
      onTime name (.next (settleStore s no))

/-- The stage at which the point of a scope has acknowledged an access (R64, R311). -/
def ackStage (s : State) (t : Tx) (a : Acc) (sc : Scope) : Nat :=
  let near := homeDie a.pa (dieOf t.wave) == dieOf t.wave || !isCached a.pa
  if isMap a.pa then 3
  else
    match sc with
    | .w => 0
    | .t => if pointOf s { t with scope := .t } == .t then 1 else if near then 3 else 2
    | .d => if near then 3 else 2
    | .k | .s => 3

/-- Task records whose stores have completed at .k: a TASKNEW with count 0 makes its task ready, and a SUSPEND sends its
decrements (R341). -/
def tasksGo (s : State) (no : Nat) : State :=
  match s.txs.find? no with
  | none => s
  | some t =>
    if t.suspend then (List.range t.tasks.length).foldl (fun s i => s.post (.taskDec no i)) s
    else
      let s := t.tasks.foldl (fun s k => s.makeReady { pa := k.pa, va := some k.va, ctx := t.ctx }) s
      { s with txs := s.txs.upd no fun t => { t with tasks := t.tasks.map fun k => { k with old := some 0 } } }

/-- STORE_ACK (R64, R190, R311, R315): the point of a scope has acknowledged every access of the instruction, and the
counter of that scope falls, those of narrower scopes having fallen; an atomic or reduction is acknowledged once it is
performed. The L1 performs a store as it acknowledges it. -/
def execStoreAck (s : State) : Host.Outcome State Fault Refusal :=
  let name := "STORE_ACK"
  let no := s.subj.a
  let sc := s.subj.scope
  match s.txs.find? no with
  | none => notNow name
  | some t =>
    let plain := t.kind == .store
    if t.held || (sc != .w && t.owed.head? != some sc)
        || (sc == .w && !(t.scope == .w && plain && t.sample.isSome)) then notNow name
    else
      let s' := if plain && sc == .t then
          t.accs.zipIdx.foldl (fun s p =>
            match accAt s no p.2 with
            | some (t, a) => if ackStage s t a .t == 1 && a.stage == 0 && !behind s no t p.2 a 1 then throughL1 s no p.2 t a else s
            | none => s) s
        else s
      match s'.txs.find? no with
      | none => notNow name
      | some t =>
        let ok := if t.accs.isEmpty then t.tasks.all fun k => k.old.isSome
          else if plain then t.accs.all fun a => reached t a ≥ ackStage s' t a sc
          else t.accs.all fun a => reached t a ≥ 3
        if !ok then notNow name
        else
          let s := s'.updWaveOld t.wave t.serial (fun w => decide (no < w.quantum.start)) fun w => if sc == .w then w else w.lowerStc sc
          let s := { s with txs := s.txs.upd no fun t => { t with owed := t.owed.erase sc } }
          let s := if sc == t.scope && !t.ldc then sampled s no else s
          let s := if sc == .k && !t.tasks.isEmpty && !t.accs.isEmpty then tasksGo s no else s
          .next (sweepTx s no)

/-! ### Atomics, reductions and binned cells (R66 to R73) -/

/-- The accesses of an instruction on the same address, with their places, in ascending lane order (R69). -/
def sameAddr (t : Tx) (pa : Nat) : List (Nat × Acc) :=
  (t.accs.zipIdx.filter fun p => p.1.pa == pa).map fun p => (p.2, p.1)

/-- Whether an access waits for its home slice as the first of its address in its instruction. -/
def firstThere (s : State) (no : Nat) (t : Tx) (i : Nat) (a : Acc) : Bool :=
  reached t a < 3 && !t.held && !behind s no t i a 3
    && (match (sameAddr t a.pa).head? with | some p => p.1 == i | none => false)

/-- One atomic or reduction at its home slice (R67): the old value is kept for its reply. Where the host has written the
same host memory since it issued, the location receives an undefined value. Peer memory is another
module's, and its value is free. -/
def homeAtomic (s : State) (no i : Nat) : State :=
  match accAt s no i with
  | none => s
  | some (t, a) =>
    if unmapped s a.pa then failAcc s no i t a .unmappedPhys
    else if anyBad s a.pa a.n then failAcc s no i t a .memUncorr
    else
      match place a.pa with
      | .peer _ _ => setAcc s no i fun a => { a with old := some (s.free (2 ^ 37 + i)), stage := 3 }
      | _ =>
        let old := kRead s a.pa a.n
        let prev := (t.accs.take i).filter fun b => b.pa == a.pa
        let new := if a.clash then (s.free (2 ^ 37 + a.pa)).toNat else atomicResult t.kind t.ty prev a old
        let s := (s.layerRead a.pa a.n).homeWrite a.pa (bytesOf new a.n)
        setAcc s no i fun a => { a with old := some (BitVec.ofNat 64 old), stage := 3 }

/-- An atomic or reduction drops the visitor copy of its line on the issuing die (R63). -/
def dropVisitorLine (s : State) (d a : Nat) : State :=
  s.updDie d fun k => { k with visitor := k.visitor.filter fun p => p.1 / 128 != a / 128 }

/-- HOME_ATOMIC (R66 to R70): the home slice applies the requests of one instruction on one address, lane by lane, as
one indivisible step. -/
def execHomeAtomic (s : State) : Host.Outcome State Fault Refusal :=
  let name := "HOME_ATOMIC"
  let no := s.subj.a
  let i := s.subj.b
  match accAt s no i with
  | none => notNow name
  | some (t, a) =>
    let is := match t.kind with | .atomic _ | .exch | .cas | .reduce _ => true | _ => false
    if !is || !firstThere s no t i a then notNow name
    else
      let s := (dropVisitorLine s (dieOf t.wave) a.pa).arrive (slicePort t.wave a.pa) a.pa
      onTime name (.next (settleStore ((sameAddr t a.pa).foldl (fun s p => homeAtomic s no p.1) s) no))

/-- The fields of a cell's header (R71). -/
def cellEmax (h : Nat) : Int := sext (h / 2 ^ 44) 12
def setHead (h n : Nat) : Nat := if h / 2 ^ n % 2 = 1 then h else h + 2 ^ n

/-- The integer nearest |x| × 2^(119 − emax), ties to even (R72). -/
def binUnits (x : Ex) (emax : Int) : Nat :=
  let (n, r, sh) := x.split (emax - 119)
  n + (roundUp .rne 0 false n r sh false).toNat

/-- One contribution to a cell: header and bins (R72). -/
def cellAdd (c : Nat × Nat × Nat × Nat) (x : Val) : Nat × Nat × Nat × Nat :=
  let (h, b0, b1, b2) := c
  if h % 2 ^ 23 = 0x7FFFFF then (setHead h 39, b0, b1, b2)
  else
    let h := h + 1
    let emax := cellEmax h
    if emax < -1022 || 1023 < emax then (setHead h 38, b0, b1, b2)
    else
      match x with
      | .nan _ _ => (setHead h 37, b0, b1, b2)
      | .inf neg => (setHead h (if neg then 36 else 35), b0, b1, b2)
      | .num x =>
        if x.q != 0 && x.log2 > emax then (setHead h 38, b0, b1, b2)
        else
          let m := binUnits x emax
          let put := fun (b part : Nat) => ((if x.neg then b + 2 ^ 64 - part else b + part) % 2 ^ 64)
          (h, put b0 (m % 2 ^ 40), put b1 (m / 2 ^ 40 % 2 ^ 40), put b2 (m / 2 ^ 80))

/-- A cell's total in a format, with OF where it is beyond its range (R73). -/
def cellTotal (c : Nat × Nat × Nat × Nat) (f : Fmt) : Nat × Nat :=
  let (h, b0, b1, b2) := c
  let on := fun (n : Nat) => h / 2 ^ n % 2 = 1
  if on 39 || on 38 || on 37 || (on 35 && on 36) then (f.nanCode false, 0)
  else if on 35 then (f.infCode false, 0)
  else if on 36 then (f.infCode true, 0)
  else
    let total := sext b2 64 * 2 ^ 80 + sext b1 64 * 2 ^ 40 + sext b0 64
    let (x, fl) := roundTo f false .rne 0 (.ofInt total (cellEmax h - 119))
    (x, (fl &&& Fl.of).toNat)

def cellRead (s : State) (a : Nat) : Nat × Nat × Nat × Nat :=
  (kRead s a 8, kRead s (a + 8) 8, kRead s (a + 16) 8, kRead s (a + 24) 8)
def cellBytes (c : Nat × Nat × Nat × Nat) : List Byte :=
  bytesOf c.1 8 ++ bytesOf c.2.1 8 ++ bytesOf c.2.2.1 8 ++ bytesOf c.2.2.2 8

/-- A contribution applied to the cell at an address. -/
def binAdd (s : State) (a : Nat) (ty : MTy) (data : Word) : State :=
  match fmtOf ty.ety with
  | some f => (s.layerRead a 32).homeWrite a (cellBytes (cellAdd (cellRead s a) (f.decode (data.toNat % 2 ^ f.width))))
  | none => s

/-- BINNED_CONTRIBUTION (R69, R72, R200): the home slice adds the contributions of one instruction to one cell. -/
def execBinnedContribution (s : State) : Host.Outcome State Fault Refusal :=
  let name := "BINNED_CONTRIBUTION"
  let no := s.subj.a
  let i := s.subj.b
  match accAt s no i with
  | none => notNow name
  | some (t, a) =>
    if t.kind != .badd || !firstThere s no t i a then notNow name
    else
      let s := (sameAddr t a.pa).foldl (fun s p =>
        if unmapped s a.pa then failAcc s no p.1 t p.2 .unmappedPhys
        else if anyBad s a.pa 32 then failAcc s no p.1 t p.2 .memUncorr
        else
          let s := match place a.pa with
            | .peer _ _ => s
            | _ => binAdd s a.pa t.ty p.2.data
          setAcc s no p.1 fun a => { a with stage := 3 })
        ((dropVisitorLine s (dieOf t.wave) a.pa).arrive (slicePort t.wave a.pa) a.pa)
      onTime name (.next (settleStore s no))

/-- BINNED_READ (R73, R200): the home slice returns a cell's total. -/
def execBinnedRead (s : State) : Host.Outcome State Fault Refusal :=
  let name := "BINNED_READ"
  let no := s.subj.a
  let i := s.subj.b
  match accAt s no i with
  | none => notNow name
  | some (t, a) =>
    if t.kind != .bread || reached t a ≥ 3 || behind s no t i a 3 then notNow name
    else if unmapped s a.pa then .next (failAcc s no i t a .unmappedPhys)
    else if anyBad s a.pa 32 then .next (failAcc s no i t a .memUncorr)
    else
      match place a.pa, fmtOf t.ty.ety with
      | .peer _ _, _ | _, none => .next (setAcc s no i fun a => { a with old := some (s.free (2 ^ 37 + i)), stage := 3 })
      | _, some f =>
        let (x, fl) := cellTotal (cellRead s a.pa) f
        onTime name (.next (setAcc ((s.layerRead a.pa 32).arrive (slicePort t.wave a.pa) a.pa) no i fun a => { a with old := some (BitVec.ofNat 64 x), fl, stage := 3 }))

/-! ### Copies, DRAM and refresh (R30 to R39, R63, R102, R103, R314) -/

/-- The lines that a slice of a die holds: of other dies' memory, of its own, and of the host's. -/
def sliceLines (s : State) (d sl : Nat) : List Nat :=
  let here := fun (a : Nat) => homeSlice a == sl
  ((((s.die d).visitor.filter fun (p : Nat × Byte) => here p.1).map fun (p : Nat × Byte) => p.1 / 128)
    ++ ((s.die d).l2.keys.filter fun k => here (2 ^ 36 * d + 128 * k)).map (2 ^ 29 * d + ·)
    ++ ((s.hostL2.filter fun (p : Nat × Byte × Bool) => homeDie p.1 0 == d && here p.1).map fun (p : Nat × Byte × Bool) => p.1 / 128)).eraseDups

/-- Whether a slice has room for the line of an address: it has 32,768, by 16 ways of sets whose indexing is not architected
(R63). -/
def sliceRoom (s : State) (d a : Nat) : Bool :=
  let ls := sliceLines s d (homeSlice a)
  ls.contains (a / 128) || ls.length < 32768

/-- Whether an L1 has room for the line of an address: a set has 12 ways less those that are pinned (R102; log entry 9). -/
def l1Room (s : State) (core a : Nat) : Bool :=
  let set := a / 128 % 1024
  let ls := (((s.core core).l1.keys.map (· / 128)).filter fun l => l % 1024 == set).eraseDups
  ls.contains (a / 128) || ls.length + ((pinsOf s core).map fun r => waysOf r.1 r.2 set).sum < 12

/-- A home slice writes a line out, and holds it no more (R31, R63). -/
def evictLine (s : State) (a : Nat) : State :=
  if isDev a then
    let d := homeDie a 0
    let line := secLine (a / 32)
    match (s.die d).l2.find? line with
    | some x =>
      let s := s.updDie d fun k => { k with l2 := k.l2.del line }
      ((List.range 4).filter fun i => x.dirty.getLsbD i).foldl (fun s i => s.storeSector (a / 128 * 128 + 32 * i) 32 (a / 128 * 4 + i)) s
    | none => s
  else
    let s := s.hostFlush fun b => b / 128 == a / 128
    { s with hostL2 := s.hostL2.filter fun p => p.1 / 128 != a / 128 }

/-- A home slice takes in a sector of memory, unless it cannot be read (R34, R63). -/
def fillHome (s : State) (a : Nat) : State :=
  if isDev a then
    let k := a / 32
    let s := s.layerUse k true
    s.updDie (secDie k) fun d =>
      let x : L2Line := d.l2.getD (secLine k) { valid := 0, dirty := 0 }
      { d with l2 := d.l2.set (secLine k) { x with valid := x.valid ||| secBit k } }
  else
    { s with hostL2 := (List.range 32).foldl (fun (m : Map (Byte × Bool)) i =>
        if (m.find? (a + i)).isSome then m else m.set (a + i) (Memory.byte s.mem (a + i), false)) s.hostL2 }

/-- CACHE_COPY_DROP (R63, R64, R102, R314): an L1 or a die slice fills or drops its copy of a 32-byte sector, while it has
room; a fill takes what the next point outward holds, and a store that is held stays over it (R311). A home slice takes a
sector of its memory in, or writes its line out. -/
def execCacheCopyDrop (s : State) : Host.Outcome State Fault Refusal :=
  let name := "CACHE_COPY_DROP"
  let a := s.subj.a / 32 * 32
  let is := (List.range 32).map (a + ·)
  let drop := fun (m : Map Byte) => m.filter fun (p : Nat × Byte) => !(a ≤ p.1 && p.1 < a + 32)
  if !isCached a || unmapped s a then notNow name
  else
    match s.subj.copy with
    | .l1 core =>
      if core ≥ 256 || !coreWorks (core / 64) (core % 64) then notNow name
      else if !s.subj.flag then .next (s.updCore core fun c => { c with l1 := drop c.l1 })
      else if failsThere s core (core / 64) .d a 32 || !l1Room s core a then notNow name
      else
        let s := readLeaves s core (core / 64) .d a 32
        .next (s.updCore core fun c => { c with l1 := is.foldl (fun (m : Map Byte) b => m.set b (dieByte s (core / 64) b)) c.l1 })
    | .die d =>
      if d ≥ 4 || homeDie a d == d then notNow name
      else if !s.subj.flag then .next (s.updDie d fun k => { k with visitor := drop k.visitor })
      else if failsThere s 0 d .k a 32 || !sliceRoom s d a then notNow name
      else
        let s := s.layerRead a 32
        .next (s.updDie d fun k => { k with visitor := is.foldl (fun (m : Map Byte) b => m.set b (homeByte s b)) k.visitor })
    | .home =>
      if !s.subj.flag then .next (evictLine s a)
      else if badSector s (a / 32) || !sliceRoom s (homeDie a 0) a then notNow name
      else .next (fillHome s a)

/-- Corrected errors counted on a die (R42). -/
def countCorr (s : State) (d n : Nat) : State := (List.range (min n 4)).foldl (fun s _ => s.count d Off.msCorr) s

/-- An uncorrectable sector: it fails from now on, the stacked layer does not hold it, and it is logged with its kind (R33,
R34, R42). The first request that it fails for is the one whose read this was. -/
def sectorFails (s : State) (k kind : Nat) : State :=
  let a := 32 * k
  let s := { s.layerDrop k with bad := s.bad.set k { kind, fresh := true } }
  s.logMem (secDie k) kind (State.channelOf a) a

/-- A burst of a sector's channel, with up to 4 CRC retries: a success after retries counts once, and so does a correction
(R33, R42; log entry 52). A read of a failing sector is not clean; a write has no severity, and one whose retries are
exhausted leaves the sector failing. -/
def burst (name : String) (s : State) (k : Nat) (write : Bool) (o : DramOutcome) : Host.Outcome State Fault Refusal :=
  let d := secDie k
  let sound := write || (s.bad.find? k).isNone
  match o with
  | .clean r => whenever name (r ≤ 4 && sound) (.next (countCorr s d (min r 1)))
  | .corrected r => whenever name (r ≤ 4 && sound && !write) (.next (countCorr s d (min r 1 + 1)))
  | .uncorrectable r => whenever name (r ≤ 4 && !write) (.next (sectorFails (countCorr s d (min r 1)) k 1))
  | .crcExhausted => .next (sectorFails s k 2)
  | _ => notNow name

/-- DRAM_READ_COMPLETE (R33 to R35, R42): a GDDR 7 burst of a sector of device memory ends, a read or, with the flag, a
write; or the stacked layer's code finds an error in a sector it holds, which it corrects, or fetches again: what a
fetch that fails finds is only logged. -/
def execDramReadComplete (s : State) : Host.Outcome State Fault Refusal :=
  let name := "DRAM_READ_COMPLETE"
  let k := s.subj.a
  if !s.dev.up || !isDev (32 * k) then notNow name
  else
    match s.subj.outcome with
    | .layerCorrected => whenever name (layerHas s k) (.next (countCorr s (secDie k) 1))
    | .layerRefetch =>
      let t := (countCorr s (secDie k) 1).layerDrop k
      whenever name (layerHas s k) (.next (match s.bad.find? k with
        | some b => t.logMem (secDie k) b.kind (State.channelOf (32 * k)) (32 * k)
        | none => t.layerUse k true))
    | o => burst name s k s.subj.flag o

/-- PARTIAL_WRITE_MERGE (R36): the read that a partial write of a sector needs returns. Where it fails the write is
lost and the sector fails; else the sector holds the bytes written, which the home slice already gives. -/
def execPartialWriteMerge (s : State) : Host.Outcome State Fault Refusal :=
  let name := "PARTIAL_WRITE_MERGE"
  let k := s.subj.a
  let put := s.subj.nums.zip s.subj.bytes
  let held := put.all fun p => p.1 < 32 && Memory.byte s.mem (32 * k + p.1) == p.2
  if !s.dev.up || !isDev (32 * k) || l2Has s k || put.isEmpty || put.length ≥ 32 || !held then notNow name
  else burst name s k false s.subj.outcome

/-- BANK_REFRESH (R38, R39): a bank of a die's stacked layer is refreshed. It delays requests and changes nothing that
any of them returns. -/
def execBankRefresh (s : State) : Host.Outcome State Fault Refusal :=
  whenever "BANK_REFRESH" (s.dev.up && s.subj.a < 4) (.next s)

end Sys2Proof.Machine
end

