-- ==== Sys2Proof/Machine/Engines.lean ====
section
/-! DEFINITION. Copy engines, stream engines and tensor-table commands at work (08_tensor_streams.md R129 to R147;
06_onchip_map.md R105, R106; 11_isa_memory.md R205 to R208), and the completion of every engine command (R138, R139). -/

namespace Sys2Proof.Machine

/-! ### Commands -/

def updCmd (s : State) (no : Nat) (f : Cmd → Cmd) : State := { s with cmds := s.cmds.upd no f }

/-- The die whose engine serves a command. -/
def cmdDie (x : Cmd) : Nat := dieOf x.wave

/-- The first nonzero status of a command stands (R139). -/
def Cmd.failWith (x : Cmd) (status : Nat) : Cmd := if x.status = 0 then { x with status } else x

/-- A command that ends with a status, with nothing more to do. -/
def endCmd (s : State) (no status : Nat) : State :=
  updCmd s no fun x => { x.failWith status with st := .finished }

/-- A fault request of a command (R55, R141). -/
def cmdFault (x : Cmd) (no unit va : Nat) (need : Need) (t : Trap) (requester : Nat) : FaultReq :=
  { ctx := x.ctx, va, access := need.code, fault := faultCode t, requester, origin := originOf x.wave, lanes := 1,
    pc := x.pc, seq := x.seq, who := .cmd no unit }

/-- The launch's copy of the entry that a bound tile names (R134). -/
def tileWords (s : State) (core tb : Nat) : Option (List Word) :=
  (List.find? (fun (p : Nat × Team) => p.2.core == core && p.2.tiles.any fun x => x.tb == tb) s.teams).bind fun p =>
    (p.2.tiles.find? fun x => x.tb == tb).map Tile.entry

/-- A tile as a side of a command; a screen tile is 32 by 32 (R107). -/
def tileSide (s : State) (core tb : Nat) (ws : List Word) : Side :=
  match tileAt s core tb with
  | some t => { e := if t.scr then { tent ws with tr := 32, tc := 32 } else tent ws, tile := some (core, t.base * 128) }
  | none => { e := tent ws }

/-- Whether an operation in flight names a tile; a drain waits for it (R105). -/
def tileUsed (s : State) (core tb : Nat) : Bool :=
  [core, core + 1].any fun c => (s.core c).mq.any fun q =>
    (s.team q.team).core == core && (match mform q.instr with
      | some f => (mtiles f (actWord q.factor)).contains tb
      | none => false)

/-! ### Copy commands (R135, R136) -/

def rndCode (n : Nat) : Rnd := if n = 0 then .rne else .rz
def four (w : Word) : List Nat := [bits w 15 0, bits w 31 16, bits w 47 32, bits w 63 48]

/-- The tiles of a copy command: source and destination. -/
def copyTiles (x : Cmd) : Option Nat × Option Nat :=
  let w := wordAt x.words 0
  (if bits w 47 46 = 1 then some (bits w 43 38) else none, if bits w 45 44 = 1 then some (bits w 37 32) else none)

/-- The job of an accepted copy. -/
def copyJob (s : State) (x : Cmd) : Job :=
  let core := tileHome s x.core
  let side := fun (tb : Option Nat) (ws : List Word) =>
    match tb with | some tb => tileSide s core tb ws | none => ({ e := tent ws } : Side)
  let (st, dt) := copyTiles x
  { src := side st x.src, dst := side dt x.dstE, so := four (wordAt x.words 1), dO := four (wordAt x.words 2),
    ext := four (wordAt x.words 3), mode := rndCode (bits (wordAt x.words 0) 30 29) }

/-- Whether a copy command's codes are invalid. -/
def badCopyWord (w : Word) : Bool :=
  bits w 47 46 ≥ 2 || bits w 45 44 ≥ 2 || bits w 30 29 ≥ 2 || (bits w 28 27 == 0 && bits w 45 44 == 0)

/-- Tensor entries read one after another, each as one read and once (R129): `got` are those that a command has read
before it parked. -/
def readEntries (s : State) (d ctx base : Nat) (got : List (List Word)) :
    List Nat → State × List (List Word) × Option (EErr × Nat)
  | [] => (s, got, none)
  | tid :: rest =>
    let va := base + 64 * tid
    match unitRead s d ctx va 64 with
    | (s, .error e) => (s, got, some (e, match e with | .xl _ a => a | _ => va))
    | (s, .ok bs) => readEntries s d ctx base (got ++ [wordsOf bs]) rest

/-- The entries that a command names, but for those that it has read. -/
def cmdEntries (s : State) (no : Nat) (x : Cmd) (tids : List Nat) : State × List (List Word) × Option (EErr × Nat) :=
  match readEntries s (cmdDie x) x.ctx x.tnbase x.entries (tids.drop x.entries.length) with
  | (s, es, e) => (updCmd s no fun x => { x with entries := es }, es, e)

/-- What an entry read that failed does to a command (R141): it parks, or ends the command. -/
def entryFail (s : State) (no : Nat) (x : Cmd) (requester : Nat) (e : EErr) (va : Nat) : State :=
  if e == .gated then s
  else if parksUnit s (cmdDie x) x.ctx e then
    match e with
    | .xl t _ => queueFault (updCmd s no fun x => { x with st := .parked }) (cmdDie x) (cmdFault x no 0 va .read t requester)
    | _ => s
  else endCmd s no (statusOf e)

/-- The copy commands at the heads of queues, the streams between tiles and the beam walks next to start that wait for a
tile, by number. -/
def waitsFor (s : State) (core tb : Nat) : List Nat :=
  let heads := (List.range 4).flatMap fun d => ((s.die d).copyq.vals).filterMap List.head?
  let copies := heads.filter fun no =>
    match s.cmds.find? no with
    | some x => !isCtl x.wave && tileHome s x.core == core && !x.held
        && ((copyTiles x).1 == some tb || (copyTiles x).2 == some tb)
    | none => false
  let streams := [core, core + 1].flatMap fun c => [false, true].filterMap fun e =>
    match (streamQueue s c e).head? with
    | some no =>
      match s.cmds.find? no with
      | some x =>
        let w := wordAt x.words 1
        if x.st == .running && x.phase == 0 && tileHome s c == core
            && bits w 55 50 + x.pos % (bits w 49 45 + 1) == tb then some no else none
      | none => none
    | none => none
  let walks := [core, core + 1].filterMap fun c =>
    match (if tileHome s c == core then nextStart s c else none) with
    | some (_, b) => if bit b.w0 61 && !b.filling && !b.held && bits b.w0 60 55 == tb then some b.order else none
    | none => none
  copies ++ streams ++ walks

/-- Commands that wait on one tile are accepted in command order (R105). -/
def firstFor (s : State) (core tb no : Nat) : Bool := (waitsFor s core tb).all fun n => no ≤ n

/-- A command leaves its copy engine's queue. -/
def popCopy (s : State) (d e : Nat) : State := s.updDie d fun k => { k with copyq := k.copyq.set e ((k.copyq.getD e []).drop 1) }

/-- The place of an acceptance among the changes of a tile table in one core cycle: behind every instruction's (R208). -/
def acceptPlace (core : Nat) : Nat := placeOf 2 (256 * core)

/-- Tile sides that a copy names: whether any is unbound, and whether they are in the states it needs. -/
def copyNeeds (s : State) (no : Nat) (x : Cmd) : Bool × Bool :=
  let core := tileHome s x.core
  let (st, dt) := copyTiles x
  let at_ := fun (tb : Option Nat) (want : TileSt) =>
    match tb with
    | none => (false, true)
    | some tb =>
      match (if isCtl x.wave then none else tileAt s core tb) with
      | none => (true, true)
      | some t => (false, t.st == want && firstFor s core tb no && s.inTurn core (s.core core).tableAt (acceptPlace core))
  let a := at_ st .ready
  let b := at_ dt .empty
  (a.1 || b.1, a.2 && b.2)

/-- The tiles of an accepted copy change state (R105). -/
def acceptTiles (s : State) (x : Cmd) : State :=
  let core := tileHome s x.core
  let (st, dt) := copyTiles x
  let put := fun (s : State) (tb : Option Nat) (f : State → Nat → Nat → TileEnt → State) =>
    match tb.bind fun tb => (tileAt s core tb).map fun t => (tb, t) with
    | some (tb, t) => f s core tb t
    | none => s
  put s st (fun s core tb t => startDrain s core tb t) |> fun s =>
    put s dt fun s core tb t => setTile s core tb { t with st := .filling, err := false }

/-- COPY_ACCEPT (R105, R129, R132, R135, R136): the command at the head of a copy engine's queue. -/
def execCopyAccept (s : State) : Host.Outcome State Fault Refusal :=
  let name := "COPY_ACCEPT"
  let d := s.subj.a
  let en := s.subj.b
  match ((s.die d).copyq.getD en []).head? with
  | none => notNow name
  | some no =>
    match s.cmds.find? no with
    | none => .next (popCopy s d en)
    | some x =>
      let (unbound, ready) := copyNeeds s no x
      if x.held || x.st != .queued then notNow name
      else if unbound then .next (popCopy (endCmd s no 5) d en)
      else if !ready then notNow name
      else
        let w := wordAt x.words 0
        if badCopyWord w then .next (popCopy (endCmd s no 5) d en)
        else
          let core := tileHome s x.core
          let (st, dt) := copyTiles x
          let tid := fun (tb : Option Nat) (own : Nat) => match tb.bind (tileAt s core) with | some t => t.tid | none => own
          match cmdEntries s no x [tid st (bits w 63 56), tid dt (bits w 55 48)] with
          | (s, _, some (e, va)) =>
            let s := entryFail s no x 2 e va
            .next (if ((s.cmds.find? no).map Cmd.st) == some .finished then popCopy s d en else s)
          | (s, es, none) =>
            let es0 := (es[0]?).getD []
            let es1 := (es[1]?).getD []
            let e0 := tent es0
            let e1 := tent es1
            if e0.illegal || e1.illegal || (st.isNone && e0.tileOnly) || (dt.isNone && e1.tileOnly)
                || (st.isSome && e0.prune != 0) then .next (popCopy (endCmd s no 4) d en)
            else
              let x := { x with st := .running, src := (st.bind (tileWords s core)).getD es0,
                                dstE := (dt.bind (tileWords s core)).getD es1,
                                scope := (match bits w 28 27 with | 0 => .t | 1 => .d | 2 => .k | _ => .s) }
              let j := copyJob s x
              if badRegion j.src j.so j.ext (j.src0 (nth j.ext 0)) || badRegion j.dst j.dO j.ext (nth j.ext 0)
                  || badPair j.src.e j.dst.e then .next (popCopy (endCmd s no 5) d en)
              else
                let s := if st.isSome || dt.isSome then s.tableTurn core (acceptPlace core) else s
                .next (popCopy (acceptTiles { s with cmds := s.cmds.set no x } x) d en)

/-! ### Streams (R142 to R147) -/

/-- The fields of a running stream: its address and the four words of its record. -/
structure StreamRec where
  mtid : Nat
  tb0 : Nat
  slots : Nat
  drain : Bool
  mode : Rnd
  reps : Nat
  o : List Nat
  n : List Nat
  bad : Bool
deriving DecidableEq, Repr

def streamRec (ws : List Word) : StreamRec :=
  let w := wordAt ws 0
  let n := four (wordAt ws 2)
  { mtid := bits w 63 56, tb0 := bits w 55 50, slots := bits w 49 45 + 1, drain := bit w 44,
    mode := rndCode (bits w 42 42), reps := bits w 15 0, o := four (wordAt ws 1), n,
    bad := bits w 39 16 != 0 || wordAt ws 3 != 0 || bits w 41 40 == 3 || bits w 15 0 == 0 || n.any (· == 0)
      || bits w 55 50 + bits w 49 45 > 63 }

def StreamRec.tiles (r : StreamRec) : Nat := nth r.n 0 * nth r.n 1 * nth r.n 2 * nth r.n 3
def cmdRec (x : Cmd) : StreamRec := streamRec (x.words.drop 1)

/-- The slot of a stream's present tile (R143). -/
def slotNow (x : Cmd) : Nat := (cmdRec x).tb0 + x.pos % (cmdRec x).slots

/-- The job of a stream's present tile (R143); the tile entry stands in `dstE` for a fill and in `src` for a drain. -/
def streamJob (s : State) (x : Cmd) : Job :=
  let r := cmdRec x
  let core := tileHome s x.core
  let tile := tileSide s core (slotNow x) (if r.drain then x.src else x.dstE)
  let mem : Side := { e := tent (if r.drain then x.dstE else x.src) }
  let (n, k) := pruneOf tile.e.prune
  let j := x.pos % r.tiles
  let t0 := j % nth r.n 0
  let t1 := j / nth r.n 0 % nth r.n 1
  let t2 := j / (nth r.n 0 * nth r.n 1) % nth r.n 2
  let t3 := j / (nth r.n 0 * nth r.n 1 * nth r.n 2)
  let o := [nth r.o 0 + t0 * (tile.e.tc / k * n), nth r.o 1 + t1 * tile.e.tr, nth r.o 2 + t2, nth r.o 3 + t3]
  let ext := [tile.e.tc, tile.e.tr, 0, 0]
  if r.drain then { src := tile, dst := mem, so := [0, 0, 0, 0], dO := o, ext, mode := r.mode, outside := true }
  else { src := mem, dst := tile, so := o, dO := [0, 0, 0, 0], ext, mode := r.mode, outside := true }

/-- The job of a command that runs. -/
def cmdJob (s : State) (x : Cmd) : Job := if x.kind == .stream then streamJob s x else copyJob s x

/-- The stream at the head of an engine's queue. -/
def headStream (s : State) (core : Nat) (eng : Bool) : Option (Nat × Cmd) :=
  match (streamQueue s core eng).head? with
  | some no => (s.cmds.find? no).map fun x => (no, x)
  | none => none

/-- A stream that ends at its start with a status: it visits no tile, and completes like any other. -/
def badStream (s : State) (no status : Nat) : State :=
  updCmd s no fun x => { x.failWith status with st := .running, words := x.words.take 1 }

/-- The read of a stream's layout record, made once (R142). -/
def recordRead (s : State) (no : Nat) (x : Cmd) (va : Nat) : State × Except EErr (List Word) :=
  match unitRead s (cmdDie x) x.ctx va 32 with
  | (s, .error e) => (s, .error e)
  | (s, .ok bs) => (updCmd s no fun x => { x with words := x.words.take 1 ++ wordsOf bs }, .ok (wordsOf bs))

/-- STREAM_START (R142, R205): the record and the entries are read, and checked. -/
def execStreamStart (s : State) : Host.Outcome State Fault Refusal :=
  let name := "STREAM_START"
  let issuer := s.subj.a
  match headStream s issuer s.subj.flag with
  | none => notNow name
  | some (no, x) =>
    let core := tileHome s x.core
    let va := (wordAt x.words 0).toNat
    if x.held || x.st != .queued then notNow name
    else if va % 32 != 0 then .next (badStream s no 5)
    else
      let lost := fun (s : State) (e : EErr) (va : Nat) =>
        let s := entryFail s no x 3 e va
        if ((s.cmds.find? no).map Cmd.st) == some .finished then badStream s no 0 else s
      match (if x.words.length ≥ 5 then (s, .ok (x.words.drop 1)) else recordRead s no x va) with
      | (s, .error e) => .next (lost s e (match e with | .xl _ a => a | _ => va))
      | (s, .ok ws) =>
        let r := streamRec ws
        let slots := (List.range r.slots).map fun i => tileAt s core (r.tb0 + i)
        match slots.head? with
        | some (some t0) =>
          if isCtl x.wave || r.bad || slots.any fun t => match t with | some t => t.tid != t0.tid || t.lines != t0.lines | none => true then
            .next (badStream s no 5)
          else
            match cmdEntries s no x [r.mtid, t0.tid] with
            | (s, _, some (e, va)) => .next (lost s e va)
            | (s, es, none) =>
              let mem := (es[0]?).getD []
              let e0 := tent mem
              let e1 := tent ((es[1]?).getD [])
              if e0.illegal || e1.illegal || e0.tileOnly || (r.drain && e1.prune != 0) then .next (badStream s no 4)
              else
                let tile := (tileWords s core r.tb0).getD ((es[1]?).getD [])
                let x := { x with st := .running, words := x.words.take 1 ++ ws, pos := 0, phase := 0, units := [],
                                  scope := (match bits (wordAt ws 0) 41 40 with | 0 => .d | 1 => .k | _ => .s),
                                  src := if r.drain then tile else mem, dstE := if r.drain then mem else tile }
                let j := streamJob s x
                let c := if r.drain then nth j.ext 0 else j.src0 (nth j.ext 0)
                -- blocks of a scaled tensor that no tile can hold or give whole
                let odd := e0.kind != 0 && (r.drain || j.same) && (nth r.o 0 % e0.group != 0 || c % e0.group != 0)
                if !e1.tileOnly || badPair j.src.e j.dst.e || odd then .next (badStream s no 5)
                else .next { s with cmds := s.cmds.set no x }
        | _ => .next (badStream s no 5)

/-- Whether a running stream may visit its next tile (R144, R147). -/
def visits (x : Cmd) : Bool :=
  x.st == .running && x.phase == 0 && x.status == 0 && !x.stopped && x.pos < (cmdRec x).reps * (cmdRec x).tiles

/-- Whether every wave of a launch has ended its quantum: none has a lane that can go on before a round (R406, R408). -/
def wavesQuiet (s : State) (no : Nat) : Bool :=
  s.waves.all fun p =>
    p.2.launch != no || isCtl p.1 || p.2.quantum.routine
      || (!p.2.stopped && !s.halts (dieOf p.1) p.2.ctx && p.2.quantum.grant == 0
          && (p.2.quantum.ended || (lanesOf p.2.live).all fun l => Wave.blocked (p.2.lane l) && (p.2.lane l).wait != .inRound)
          && (lanesOf p.2.live).all fun l => (p.2.lane l).st != .parked)

/-- The tile at which the log says that a replayed wave's stream pauses in this round (R408, R409): the first record of
that kind among those that are still to be taken. -/
def pauseAt (s : State) (key : Nat) : Option Nat :=
  let d := dieOf key
  let tail := (s.reg d 0x6010).toNat
  let n := ((s.reg d 0x6018).toNat + 2 ^ 32 - tail) % 2 ^ 32
  let me := s.logHead key logPause 0
  (List.range (min n (s.rpSize d))).findSome? fun i =>
    let a := bits (s.reg d 0x6008) 51 12 * 4096 + 32 * ((tail + i) % s.rpSize d)
    if ringRead s a 8 == me then some (ringRead s (a + 8) 4) else none

/-- Whether a stream between tiles stays there until the commit round (R408). -/
def streamPaused (s : State) (x : Cmd) : Bool :=
  if isCtl x.wave then false
  else
    match (s.launch x.launch).rec_ with
    | 0 => false
    | 1 => s.replay.phase != 0 || wavesQuiet s x.launch
    | _ => s.replay.phase != 0 || pauseAt s x.wave == some x.pos

/-- STREAM_TILE_FILL (R144): the next tile's slot is EMPTY, and its fill is accepted. -/
def execStreamTileFill (s : State) : Host.Outcome State Fault Refusal :=
  let name := "STREAM_TILE_FILL"
  match headStream s s.subj.a s.subj.flag with
  | none => notNow name
  | some (no, x) =>
    let core := tileHome s x.core
    let tb := slotNow x
    match tileAt s core tb with
    | some t =>
      if streamPaused s x || !visits x || (cmdRec x).drain || t.st != .empty || !firstFor s core tb no
          || !s.inTurn core (s.core core).tableAt (acceptPlace core) then notNow name
      else
        .next (setTile (updCmd (s.tableTurn core (acceptPlace core)) no fun x => { x with phase := 2, units := [] }) core tb
          { t with st := .filling, err := false })
    | none => notNow name

/-- STREAM_DRAIN_SLOT (R145, R208): the next slot is marked READY; once it has been submitted its drain is accepted, and
one that was released instead is passed over. -/
def execStreamDrainSlot (s : State) : Host.Outcome State Fault Refusal :=
  let name := "STREAM_DRAIN_SLOT"
  match headStream s s.subj.a s.subj.flag with
  | none => notNow name
  | some (no, x) =>
    let core := tileHome s x.core
    let tb := slotNow x
    match tileAt s core tb with
    | none => notNow name
    | some t =>
      if !(cmdRec x).drain || x.st != .running || !s.inTurn core (s.core core).tableAt (acceptPlace core) then notNow name
      else if x.phase == 1 then
        if x.submits.contains (64 + tb) then
          .next (updCmd s no fun x => { x with phase := 0, pos := x.pos + 1, submits := x.submits.filter (· != 64 + tb) })
        else if x.submits.contains tb && t.st == .ready then
          .next (startDrain (updCmd (s.tableTurn core (acceptPlace core)) no fun x =>
            { x with phase := 2, units := [], submits := x.submits.erase tb }) core tb t)
        else notNow name
      else if visits x && !streamPaused s x && t.st == .empty && firstFor s core tb no then
        .next (setTile (updCmd (s.tableTurn core (acceptPlace core)) no fun x => { x with phase := 1 }) core tb
          { t with st := .ready, gen := t.gen + 1 })
      else notNow name

/-- STREAM_COMPLETE (R147): the last tile is done, or the stream ended early or was stopped; the engine goes on to the
next stream. -/
def execStreamComplete (s : State) : Host.Outcome State Fault Refusal :=
  let name := "STREAM_COMPLETE"
  match headStream s s.subj.a s.subj.flag with
  | none => notNow name
  | some (no, x) =>
    if x.st != .running || x.phase != 0 || visits x then notNow name
    else
      let s := setStreamQueue s s.subj.a s.subj.flag ((streamQueue s s.subj.a s.subj.flag).drop 1)
      .next (endCmd s no (if x.stopped && x.status = 0 then 7 else x.status))

/-! ### Accesses (R137, R141) -/

/-- An access of a command that failed: it parks, it waits for a gated cluster, or its command will end with a status. -/
def unitFail (s : State) (no u : Nat) (x : Cmd) (need : Need) (e : EErr) (requester : Nat) : State :=
  let un := x.units.getD u {}
  let put := fun (s : State) (un : EUnit) (f : Cmd → Cmd) => updCmd s no fun x => f { x with units := x.units.set u un }
  if e == .gated then s
  else if parksUnit s (cmdDie x) x.ctx e then
    match e with
    | .xl t va => queueFault (put s { un with parked := true } id) (cmdDie x) (cmdFault x no u va need t requester)
    | _ => s
  else put s { un with failed := some (statusOf e) } fun x => x.failWith (statusOf e)

/-- A part of a block that failed: it parks, it waits for a gated cluster, or the block goes on without it (R141). -/
def blockFail (s : State) (no u : Nat) (x : Cmd) (need : Need) (f : EFail) (requester : Nat) : State :=
  let un := x.units.getD u {}
  let put := fun (s : State) (un : EUnit) (f : Cmd → Cmd) => updCmd s no fun x => f { x with units := x.units.set u un }
  if f.err == .gated then s
  else if parksUnit s (cmdDie x) x.ctx f.err then
    match f.err with
    | .xl t va => queueFault (put s { un with parked := true, part := (f.va, f.n) } id) (cmdDie x) (cmdFault x no u va need t requester)
    | _ => s
  else put s (un.without (f.va, f.n)) fun x => x.failWith (statusOf f.err)

/-- Whether an access has ended. -/
def EUnit.over (u : EUnit) : Bool := u.done || u.failed.isSome

/-- Whether a tile side is bound no more: its team has ended, and there is nothing left to move. -/
def sideGone (s : State) (x : Cmd) : Bool :=
  let core := tileHome s x.core
  let gone := fun (tb : Option Nat) => match tb with | some tb => (tileAt s core tb).isNone | none => false
  if x.kind == .stream then gone (some (slotNow x)) else gone (copyTiles x).1 || gone (copyTiles x).2

/-- One access of a copy or a stream: its read, then its write. -/
def blockAccess (s : State) (no u : Nat) (x : Cmd) : Host.Outcome State Fault Refusal :=
  let name := "ENGINE_ACCESS"
  let d := cmdDie x
  let un := x.units.getD u {}
  let rq := if x.kind == .stream then 3 else 2
  let put := fun (s : State) (un : EUnit) (f : Cmd → Cmd) => updCmd s no fun x => f { x with units := x.units.set u un }
  if sideGone s x then .next (put s { un with done := true } id)
  else
    let j := cmdJob s x
    let source := if x.kind == .stream then (if (cmdRec x).drain then some (slotNow x) else none) else (copyTiles x).1
    let core := tileHome s x.core
    if u ≥ j.units || (source.any fun tb => tileUsed s core tb || drainNew s core tb) then notNow name
    else
      match un.got with
      | none =>
        match readBlock s d x.ctx j u un.lostR with
        | (s, .error e) => .next (blockFail s no u x .read e rq)
        | (s, .ok xs) =>
          let (out, fl) := blockOut s j u xs
          .next (put s { un with got := some out } fun x => { x with fpflags := x.fpflags ||| fl.toNat % 16 })
      | some out =>
        match writeBlock s d x.ctx no j u out un.lostR un.lostW with
        | (s, some e) => .next (blockFail s no u x .write e rq)
        | (s, none) =>
          let whole := un.lostR.isEmpty && un.lostW.isEmpty
          .next (put s { un with done := true, failed := if whole then none else some x.status } id)

/-- The entry of a tensor-table command (R206). -/
def tableAccess (s : State) (no : Nat) (x : Cmd) : Host.Outcome State Fault Refusal :=
  let d := cmdDie x
  let va := x.tnbase + 64 * x.tid
  let done := fun (s : State) (got : Option (List Nat)) =>
    updCmd s no fun x => { x with st := .running, units := x.units.set 0 { done := true, got } }
  if x.kind == .tnset then
    match unitWrite s d x.ctx va (x.words.flatMap fun w => bytesOf w.toNat 8) with
    | (s, some e) => .next (unitFail s no 0 x .write e 2)
    | (s, none) => .next (done s none)
  else
    match unitRead s d x.ctx va 64 with
    | (s, .error e) => .next (unitFail s no 0 x .read e 2)
    | (s, .ok bs) => .next (done s (some ((wordsOf bs).map BitVec.toNat)))

/-- One read or write of a command. -/
def engineAccess (s : State) : Host.Outcome State Fault Refusal :=
  let name := "ENGINE_ACCESS"
  let no := s.subj.a
  let u := s.subj.b
  match s.cmds.find? no with
  | none => notNow name
  | some x =>
    let un := x.units.getD u {}
    if x.held || un.over || un.parked then notNow name
    else
      match x.kind with
      | .copy => if x.st == .running then blockAccess s no u x else notNow name
      | .stream => if x.st == .running && x.phase == 2 then blockAccess s no u x else notNow name
      | .tnset | .tnget => if u = 0 then tableAccess s no x else notNow name
      | _ => notNow name

/-- ENGINE_ACCESS (R137, R141, R206): one read or write of a command. -/
def execEngineAccess (s : State) : Host.Outcome State Fault Refusal :=
  buffered "ENGINE_ACCESS" s (s.cmds.find? s.subj.a) engineAccess

/-- Whether every access of the present fill or drain of a command has ended (R105). -/
def allOver (s : State) (x : Cmd) : Bool :=
  (x.units.filter fun p => p.2.over).length ≥ (cmdJob s x).units || (sideGone s x && x.units.all fun p => p.2.over || !p.2.parked)

def anyFailed (x : Cmd) : Bool := x.units.any fun p => p.2.failed.isSome

/-- A tile takes its transition at the end of a fill or a drain (R105). A failed drain keeps the tile READY, and of a
stream the slot is EMPTY (R147). -/
def tileEnds (s : State) (core tb : Nat) (failed fill : Bool) (stream : Bool := false) : State :=
  match tileAt s core tb with
  | none => s
  | some t =>
    if fill then
      if t.st != .filling then s
      else if failed then
        setTile (s.updCore core fun k => { k with sram := dropBytes k.sram (128 * t.base) (128 * t.lines) }) core tb
          { t with st := .empty, err := true }
      else setTile s core tb { t with st := .ready, gen := t.gen + 1 }
    else if t.st != .draining then s
    else if failed then setTile s core tb { t with st := if stream then .empty else .ready, err := true }
    else setTile s core tb { t with st := .empty }

/-- The shared meaning of FILL_DONE and DRAIN_DONE; a copy notes each in a bit of its phase, and a stream goes on to its
next tile. -/
def tileDone (s : State) (fill : Bool) (name : String) : Host.Outcome State Fault Refusal :=
  let no := s.subj.a
  match s.cmds.find? no with
  | none => notNow name
  | some x =>
    let core := tileHome s x.core
    if x.st != .running || !allOver s x then notNow name
    else
      match x.kind with
      | .copy =>
        let bit_ := if fill then 1 else 2
        match if fill then (copyTiles x).2 else (copyTiles x).1 with
        | some tb =>
          if x.phase / bit_ % 2 = 1 then notNow name
          else .next (updCmd (tileEnds s core tb (anyFailed x) fill) no fun x => { x with phase := x.phase + bit_ })
        | none => notNow name
      | .stream =>
        if x.phase != 2 || (cmdRec x).drain == fill then notNow name
        else .next (updCmd (tileEnds s core (slotNow x) (anyFailed x) fill true) no fun x =>
          { x with phase := 0, pos := x.pos + 1, units := [] })
      | _ => notNow name

/-- FILL_DONE (R105). -/
def execFillDone (s : State) : Host.Outcome State Fault Refusal := tileDone s true "FILL_DONE"
/-- DRAIN_DONE (R105). -/
def execDrainDone (s : State) : Host.Outcome State Fault Refusal := tileDone s false "DRAIN_DONE"

/-! ### Completion (R138, R139) -/

/-- Whether a command has nothing left to do. -/
def cmdOver (s : State) (x : Cmd) : Bool :=
  x.st == .finished || (match x.kind with
    | .copy =>
      let want := (if (copyTiles x).2.isSome then 1 else 0) + (if (copyTiles x).1.isSome then 2 else 0)
      x.st == .running && allOver s x && x.phase == want
    | .stream => false
    | .tnset | .tnget => (x.units.getD 0 {}).over
    | .gath | .scat | .scatr => x.st == .running && (x.units.filter fun p => p.2.over).length ≥ x.count
    | .trav => x.walks == 0)

/-- A control register has still to take a store of a context's units. -/
def ctlWaits (s : State) (ctx : Nat) : Bool :=
  s.msgs.any fun p => match p.2 with | .ctlWrite _ _ _ c => c == ctx | _ => false

/-- A store that a TNGET waits for arrives in its registers; one that failed leaves them (R141). -/
def tnGive (s : State) (no : Nat) (x : Cmd) (w : Wave) : Wave :=
  match (x.units.getD 0 {}).got with
  | some ws => ws.zipIdx.foldl (fun w p => giveOut s.epoch no w (Wave.skey (firstOf x.dst + p.2)) (BitVec.ofNat 64 p.1)) w
  | none => (List.range 8).foldl (fun w i => dropOut no w (Wave.skey (firstOf x.dst + i))) w

/-- COMMAND_COMPLETE (R138, R139, R193): ENGC falls, the flags count down, FSTn takes the status, and a credit returns. -/
def execCommandComplete (s : State) : Host.Outcome State Fault Refusal :=
  let name := "COMMAND_COMPLETE"
  let no := s.subj.a
  match s.cmds.find? no with
  | none => notNow name
  | some x =>
    if x.held || !cmdOver s x || ctlWaits s x.ctx then notNow name
    else
      let status := if x.status = 0 && x.range then 1 else x.status
      let s := { s with cmds := s.cmds.del no, claims := s.claims.filterMap fun (p : Nat × List Claim) =>
        let cs := p.2.filter fun (k : Claim) => k.cmd != no
        if cs.isEmpty then none else some (p.1, cs) }
      let s := match x.kind with
        | .gath | .scat | .scatr => s.updCore x.core fun k => { k with credits := k.credits - 1 }
        | _ => s
      .next (s.updWaveOld x.wave x.serial (fun w => decide (x.seq.toNat ≤ w.seq.toNat)) fun w =>
        let w := if x.kind == .tnget then tnGive s no x w else w
        finishIn { w with engc := w.engc - 1 } x.seta x.setb status x.fpflags x.seq)

end Sys2Proof.Machine
end

