-- ==== Sys2Proof/Machine/BeamRun.lean ====
section
/-! DEFINITION. What the beam engine does (15_beam_engine.md R283 to R296): the events BEAM_WALK_START, BEAM_STEP,
FRAGMENT_APPEND and BEAM_WALK_COMPLETE, each on a core. -/

namespace Sys2Proof.Machine

open Geo (V3 Frame Line P2)

/-! ### Walks that stop (R292, R295) -/

def setWalk (s : State) (core i : Nat) (b : BWalk) : State := updBeam s core fun e => { e with walks := e.walks.set i b }

/-- The core whose tile table holds a team's tiles. -/
def tileCore (s : State) (core : Nat) : Nat := match kennelOf s core with | some p => p.2.core | none => core

/-- A walk that ends early: its queued slots are freed, and nothing more of it is delivered (R295). -/
def failWalk (s : State) (core i : Nat) (b : BWalk) (status : Nat) : State :=
  let mine := (s.core core).beam.cur.any fun n => (slotAt s core n).walk == i
  let s := if bit b.w0 0 then
      (List.range (kslots s core)).foldl (fun s n =>
        let x := slotAt s core n
        if x.state == slotQueued && x.walk == i then setSlot s core n { x with state := slotFree } else s) s
    else s
  updBeam (setWalk s core i { b with status, ended := true, live := 0, parked := false }) core fun e =>
    { e with cur := if mine then none else e.cur }

/-- A scene read that failed: it parks the engine, or ends the walk; at a gated cluster it is made again later. -/
def sceneFail (s : State) (core i : Nat) (b : BWalk) (ctx : Nat) (x : EErr) : State :=
  let d := dieOfCore core
  if parksUnit s d ctx x then
    match x with
    | .xl t va =>
      queueFault (updBeam (setWalk s core i { b with parked := true }) core fun e => { e with parked := true }) d
        { ctx, va, access := Need.read.code, fault := faultCode t, requester := 6, origin := core, lanes := 1, pc := b.pc,
          seq := b.seq, who := .beam core }
    | _ => s
  else if x == .gated then setWalk s core i b
  else failWalk s core i b (statusOf x)

/-- The context of the team that an engine serves. -/
def beamCtx (s : State) (core : Nat) : Nat :=
  match kennelOf s core with | some p => (s.launch p.2.launch).ctx | none => 0

/-! ### Starting a walk (R294) -/

/-- The kept samples of a bundle: index and point; the centroid alone where none is kept (R288). -/
def bundle (x : Slot) : Nat × List (Nat × P2) :=
  let vs := Geo.points x.edges
  let n := 2 * 2 ^ x.bsize
  let kept := ((Geo.samples vs n).zipIdx.map fun p => (p.2, p.1)).filter fun p => Geo.inside x.edges p.2
  if kept.isEmpty then
    let m := Geo.moments vs
    (0, [(0, m.cs, m.ct)])
  else (kept.length, kept)

/-- P becomes a bundle of rays (R287, R288). -/
def convertSlot (x : Slot) (bsize root : Nat) : Slot :=
  let x := { x with ovf := true, bsize, ray := 0, hitv := false, cursor := root, lpos := 0 }
  let m := (bundle x).1
  { x with cov := if m = 0 then x.cov else Geo.div x.cov (Geo.num m) }

def bumpConversions (s : State) (core n : Nat) : State := updBeam s core fun e => { e with conversions := e.conversions + n }

/-- A slot of a walk that starts (R294): QUEUED at the root; one that BOVF marked is converted, with the bsize that BOVF
wrote (R287, R303; log entry 49). -/
def queuedSlot (x : Slot) (root : Nat) : Slot :=
  let x := { x with state := slotQueued, cursor := root, lpos := 0 }
  if x.ovf then convertSlot x x.bsize root else x

/-- BEAM_WALK_START (R280, R292, R294, R295): the fill of the screen tile is accepted, the scene descriptor is read, and
the walk's slots become QUEUED. Subject: `a` the core. -/
def execBeamWalkStart (s : State) : Host.Outcome State Fault Refusal :=
  let core := s.subj.a
  let e := (s.core core).beam
  match nextStart s core with
  | none => notNow "BEAM_WALK_START"
  | some (i, b) =>
    let tc := tileCore s core
    let tb := bits b.w0 60 55
    let tile := tileAt s tc tb
    let scr := bit b.w0 61 && !b.filling
    let turn := placeOf 2 (256 * tc)
    if e.stopped || e.parked || b.held
        || (scr && !(tile.any fun t => t.st == .empty && firstFor s tc tb b.order && s.inTurn tc (s.core tc).tableAt turn)) then
      notNow "BEAM_WALK_START"
    else
      let s := match scr, tile with
        | true, some t =>
          sramWrite (setTile (s.tableTurn tc turn) tc tb { t with st := .filling, err := false }) tc (t.base * 128)
            (List.replicate (t.lines * 128) 0)
        | _, _ => s
      let b := { b with filling := b.filling || scr }
      let ctx := beamCtx s core
      match unitRead s (dieOfCore core) ctx b.scene.toNat 32 with
      | (s, .error x) => .next (sceneFail s core i b ctx x)
      | (s, .ok bs) =>
        match sceneOf b.scene.toNat (wordsOf bs) with
        | none => .next (failWalk s core i b 5)
        | some sc =>
          if bit b.w0 0 then .next (setWalk s core i { b with desc := some (wordsOf bs) })
          else
            let mine := b.slots.filter fun n => slotState s core n == slotHeld && (slotAt s core n).walk == i
            let mine := if b.slots.isEmpty then
                (List.range (kslots s core)).filter fun n => slotState s core n == slotHeld && (slotAt s core n).walk == i
              else mine
            let marked := mine.filter fun n => (slotAt s core n).ovf
            let s := mine.foldl (fun s n => setSlot s core n (queuedSlot (slotAt s core n) sc.root)) s
            let s := bumpConversions s core marked.length
            .next (setWalk s core i { b with w0 := b.w0 ||| 1, desc := some (wordsOf bs), live := mine.length,
                                             ended := mine.isEmpty })

/-! ### One step of a beam (R283 to R288) -/

def endCursor : Nat := 0xFFFFFFFF

/-- A primitive as it is read (R282). -/
structure Prim where
  vs : List V3
  user : Nat
deriving DecidableEq, Repr

def primOf (bs : List Byte) : Prim :=
  { vs := (List.range (if codeAt bs 0x34 % 2 == 1 then 4 else 3)).map (vertexAt bs), user := codeAt bs 0x30 }

/-- The sample that a bundle traces, and the one after it. -/
def rayOf (x : Slot) : Nat × Option (Nat × P2) × Option Nat :=
  let (m, ps) := bundle x
  let rest := ps.filter fun p => x.ray ≤ p.1
  (m, rest.head?, ((rest.drop 1).head?).map Prod.fst)

/-- A child of a split: its edges, and the hit it carries. -/
structure Child where
  edges : List Line
  hitv : Bool
  hit : Nat
  key : Line
deriving DecidableEq, Repr

/-- The children that a primitive makes of a beam (R285); none where the beam is unchanged. -/
def childrenOf (x : Slot) (q : Geo.Prep) (idx : Nat) : Option (List Child) :=
  let old := fun (es : List Line) => ({ edges := es, hitv := x.hitv, hit := x.hit, key := x.key } : Child)
  let new := fun (es : List Line) => ({ edges := es, hitv := true, hit := idx, key := q.key } : Child)
  let step := fun (a : List Child × Option (List Line)) (l : Line) =>
    match a.2.bind fun r => (Geo.vertices r).map fun vs => (r, vs) with
    | none => (a.1, none)
    | some (r, vs) =>
      let xs := vs.map (Geo.at_ l)
      if xs.any Geo.pos && xs.any Geo.isNeg then
        (a.1 ++ ((Geo.cut r (Geo.flip l)).map old).toList, Geo.cut r l)
      else a
  let (pieces, r) := q.edges.foldl step ([], some x.edges)
  match r.bind fun r => (Geo.vertices r).map fun vs => (r, vs) with
  | none => none
  | some (r, vs) =>
    let (more, near) :=
      if !x.hitv then ([], some (new r))
      else
        let g := vs.map fun v => Geo.sub (Geo.at_ q.key v) (Geo.at_ x.key v)
        if g.all fun y => Geo.le y 0 then ([], some (old r))
        else if g.all Geo.pos then ([], some (new r))
        else
          let l : Line := (Geo.sub q.key.1 x.key.1, Geo.sub q.key.2.1 x.key.2.1, Geo.sub q.key.2.2 x.key.2.2)
          (((Geo.cut r (Geo.flip l)).map old).toList, some (new ((Geo.cut r l).getD [l])))
    some (((pieces ++ more).filter fun c => (Geo.vertices c.edges).isSome) ++ near.toList)

/-- A primitive processed against the beam of a slot (R285 to R288). -/
def processPrim (s : State) (core n i : Nat) (b : BWalk) (sc : Scene) (x : Slot) (mirror : Option Geo.Mirror) (idx : Nat)
    (p : Prim) : State :=
  match Geo.prepare x.frame x.area x.hn x.hf mirror p.vs with
  | none => setSlot s core n x
  | some q =>
    if (Geo.vertices x.edges).any fun vs => Geo.apart vs x.edges q then setSlot s core n x
    else if x.ovf then
      match (rayOf x).2.1 with
      | none => setSlot s core n x
      | some (_, pt) =>
        let k := Geo.at_ q.key pt
        if Geo.inside q.edges pt && (!x.hitv || Geo.lt x.key.2.2 k) then
          setSlot s core n { x with hitv := true, hit := idx, key := (0, 0, k) }
        else setSlot s core n x
    else
      match Geo.vertices x.edges with
      | none => setSlot s core n x
      | some vs =>
        match childrenOf x q idx with
        | none => setSlot s core n x
        | some [] => setSlot s core n x
        | some [c] => setSlot s core n { x with hitv := c.hitv, hit := c.hit, key := c.key }
        | some cs =>
          let free := freeSlots s core
          if cs.any (fun c => c.edges.length > 8) || x.depth + 1 > min (bits b.w0 52 48) 24 || free.length + 1 < cs.length
              || bit b.w0 47 then
            bumpConversions (setSlot s core n (convertSlot x (bits b.w0 54 53) sc.root)) core 1
          else
            let pa := Geo.areaOf vs
            let mk := fun (c : Child) =>
              { x with depth := x.depth + 1, edges := c.edges, hitv := c.hitv, hit := c.hit, key := c.key,
                       cov := Geo.mul x.cov (Geo.div (Geo.areaOf (Geo.points c.edges)) pa) }
            let places := free.take (cs.length - 1) ++ [n]
            let s := (cs.zip places).foldl (fun s p => setSlot s core p.2 (mk p.1)) s
            setWalk s core i { b with live := b.live + (cs.length - 1) }

/-- The geometry that a fragment reports: area, centroid, moments, sample number, and its coverage. -/
def footprint (x : Slot) : Geo.Moments × Nat :=
  let vs := Geo.points x.edges
  if x.ovf then
    let (m, ray, _) := rayOf x
    match ray with
    | none => (Geo.moments vs, 0)
    | some (j, pt) =>
      let (ws, wt) := Geo.cellWidths vs (2 * 2 ^ x.bsize)
      let sq := fun (w : Nat) => Geo.div (Geo.mul w w) (Geo.num 12)
      ({ area := if m = 0 then Geo.areaOf vs else Geo.div (Geo.areaOf vs) (Geo.num m), cs := pt.1, ct := pt.2,
         mss := sq ws, mtt := sq wt, mst := 0 }, j)
  else (Geo.moments vs, 0)

/-- The eight words of a fragment (R289); `hit` is the hit primitive as it is read. -/
def fragmentOf (x : Slot) (n : Nat) (hit : Option Prim) : List Word :=
  let (g, j) := footprint x
  let pair := fun (hi lo : Nat) => BitVec.ofNat 64 (hi * 2 ^ 32 + lo)
  let flags := fun (miss : Nat) => miss * 2 ^ 31 + x.ovf.toNat * 2 ^ 30 + x.refl.toNat * 2 ^ 29 + x.area.toNat * 2 ^ 28
    + x.depth * 2 ^ 23 + x.walk * 2 ^ 19 + n * 2 ^ 8 + j
  let k := Geo.at_ x.key (g.cs, g.ct)
  let (prim, w1, hc, b1, b2) := match hit with
    | none => (0xFFFFFFFF, flags 1, x.hf, 0, 0)
    | some p =>
      let b := match p.vs with | v0 :: v1 :: v2 :: _ => Geo.bary x.frame x.area v0 v1 v2 (g.cs, g.ct) | _ => (0, 0)
      (x.hit, p.user * 2 ^ 32 + flags 0, if x.area then Geo.neg k else Geo.div Geo.one k, b.1, b.2)
  [pair x.tag prim, BitVec.ofNat 64 w1, pair x.cov g.area, pair g.ct g.cs, pair g.mst g.mss, pair hc g.mtt, pair b2 b1, 0]

/-- A primitive read through a scene. -/
def readPrim (s : State) (core ctx : Nat) (sc : Scene) (idx : Nat) : State × Except EErr Prim :=
  match unitReadAt s (dieOfCore core) ctx (sc.prims + 64 * idx) 64 sc.scope with
  | (s, .ok bs) => (s, .ok (primOf bs))
  | (s, .error e) => (s, .error e)

/-- The mirror of a reflected beam, read through its scene (R284). -/
def readMirror (s : State) (core ctx : Nat) (sc : Scene) (x : Slot) : State × Except EErr (Option Geo.Mirror) :=
  if !x.refl then (s, .ok none)
  else
    match readPrim s core ctx sc x.mirror with
    | (s, .error e) => (s, .error e)
    | (s, .ok p) => (s, .ok (match p.vs with | v0 :: v1 :: v2 :: _ => some (Geo.mirrorOf x.frame v0 v1 v2) | _ => none))

/-- A beam or ray that has reached END: its fragment is formed, to be appended (R289). -/
def endBeam (s : State) (core n i : Nat) (b : BWalk) (sc : Scene) (ctx : Nat) (x : Slot) : State :=
  let queue := fun (s : State) (hit : Option Prim) =>
    updBeam s core fun e => { e with cur := some n, pending := some (n, fragmentOf x n hit) }
  if x.hitv && x.hit ≥ sc.pcount then failWalk s core i b 1
  else if x.hitv then
    match readPrim s core ctx sc x.hit with
    | (s, .ok p) => queue s (some p)
    | (s, .error e) => sceneFail s core i b ctx e
  else queue s none

/-- One step of R283. -/
def beamAdvance (s : State) (core n i : Nat) (b : BWalk) (sc : Scene) : State :=
  let ctx := beamCtx s core
  let d := dieOfCore core
  let x := slotAt s core n
  let nd := x.cursor / 4
  let c := x.cursor % 4
  if x.cursor == endCursor then endBeam s core n i b sc ctx x
  else if nd ≥ sc.ncount then failWalk s core i b 1
  else
    match unitReadAt s d ctx (sc.nodes + 128 * nd) 128 sc.scope with
    | (s, .error e) => sceneFail s core i b ctx e
    | (s, .ok bs) =>
      let child := codeAt bs (0x60 + 4 * c)
      let kind := child / 2 ^ 30
      let ref := child % 2 ^ 30
      let next := if c < 3 then x.cursor + 1 else codeAt bs 0x70
      if kind == 3 then failWalk s core i b 1
      else if kind == 0 then setSlot s core n { x with cursor := next }
      else if x.refl && x.mirror ≥ sc.pcount then failWalk s core i b 1
      else
        match readMirror s core ctx sc x with
        | (s, .error e) => sceneFail s core i b ctx e
        | (s, .ok mirror) =>
          let box := (List.range 6).map fun k => codeAt bs (24 * c + 4 * k)
          if x.lpos == 0 && Geo.boxFails x.frame x.area x.hn x.hf mirror x.edges box then
            setSlot s core n { x with cursor := next }
          else if kind == 1 then setSlot s core n { x with cursor := ref * 4 % 2 ^ 32 }
          else
            let idx := ref / 16 + x.lpos
            if idx ≥ sc.pcount then failWalk s core i b 1
            else
              match readPrim s core ctx sc idx with
              | (s, .error e) => sceneFail s core i b ctx e
              | (s, .ok p) =>
                let x := if x.lpos + 1 > ref % 16 then { x with lpos := 0, cursor := next } else { x with lpos := x.lpos + 1 }
                processPrim s core n i b sc x mirror idx p

/-- BEAM_STEP (R283, R294). Subject: `a` the core. -/
def execBeamStep (s : State) : Host.Outcome State Fault Refusal :=
  let core := s.subj.a
  let e := (s.core core).beam
  let ready := readySlots s core
  let slot := match e.cur with | some n => if ready.contains n then some n else ready.head? | none => ready.head?
  let turn := placeOf 1 (256 * core)
  if e.stopped || e.parked || e.pending.isSome || !s.inTurn core (s.core core).kennelAt turn then notNow "BEAM_STEP"
  else
    match slot with
    | none => notNow "BEAM_STEP"
    | some n =>
      let i := (slotAt s core n).walk
      match e.walks.find? i with
      | none => notNow "BEAM_STEP"
      | some b =>
        match b.desc.bind fun ws => sceneOf b.scene.toNat ws with
        | none => notNow "BEAM_STEP"
        | some sc =>
          .next (beamAdvance (updBeam (s.kennelTurn core turn) core fun e => { e with cur := some n }) core n i b sc)

/-! ### Fragments (R289, R292) -/

/-- A fragment adds to its element of the screen tile (R292): a count, and its coverage in units of 2^-24. -/
def countFragment (s : State) (core tb : Nat) (f : List Word) : State :=
  match tileAt s core tb with
  | none => s
  | some t =>
    let tag := bits (wordAt f 0) 63 32
    let a := t.base * 128 + 8 * (tag % 1024)
    let old := sramRead s core a 8
    let top : Nat := 2 ^ 32 - 1
    let cov := bits (wordAt f 2) 63 32
    let miss := bit (wordAt f 1) 31
    let add : Int := match Geo.val cov with
      | .num x => roundInt {} (x.scale 24)
      | .inf n => if n then 0 else (top : Int)
      | .nan _ _ => ((s.free (2 ^ 38 + tag)).toNat % 2 ^ 32 : Nat)
    let c := if miss then old / 2 ^ 32 else (min (max (Int.ofNat (old / 2 ^ 32) + add) 0) (Int.ofNat top)).toNat
    sramWrite s core a (bytesOf (c * 2 ^ 32 + Nat.min (old % 2 ^ 32 + 1) top) 8)

/-- FRAGMENT_APPEND (R289). Subject: `a` the core. -/
def execFragmentAppend (s : State) : Host.Outcome State Fault Refusal :=
  let core := s.subj.a
  let e := (s.core core).beam
  match e.pending with
  | none => notNow "FRAGMENT_APPEND"
  | some (n, f) =>
    if e.stopped || e.frags.length ≥ 256 then notNow "FRAGMENT_APPEND"
    else
      let x := slotAt s core n
      let i := x.walk
      let b := (e.walks.getD i { w0 := 0, scene := 0, seq := 0, live := 0, pc := 0, order := 0, serial := 0, wave := 0 })
      let s := updBeam s core fun e => { e with frags := e.frags ++ [f], pending := none }
      let s := if bit b.w0 61 then countFragment s (tileCore s core) (bits b.w0 60 55) f else s
      let root := match b.desc.bind fun ws => sceneOf b.scene.toNat ws with | some sc => sc.root | none => endCursor
      let s := match (if x.ovf then (rayOf x).2.2 else none) with
        | some j => setSlot s core n { x with ray := j, hitv := false, cursor := root, lpos := 0 }
        | none =>
          let s := setSlot s core n { x with state := if !x.ovf && bit b.w0 62 then slotEnded else slotFree }
          updBeam s core fun e =>
            { e with cur := none, walks := e.walks.upd i fun b => { b with live := b.live - 1, ended := b.live ≤ 1 } }
      .next (serve s core)

/-! ### Completion (R296) -/

/-- BEAM_WALK_COMPLETE (R292, R296). Subject: `a` the core, `b` the entry. -/
def execBeamWalkComplete (s : State) : Host.Outcome State Fault Refusal :=
  let core := s.subj.a
  let i := s.subj.b
  match (s.core core).beam.walks.find? i with
  | none => notNow "BEAM_WALK_COMPLETE"
  | some b =>
    whenever "BEAM_WALK_COMPLETE" b.ended
      (let tc := tileCore s core
       let tb := bits b.w0 60 55
       let s := if bit b.w0 61 && b.filling then tileEnds s tc tb (b.status != 0) true else s
       let s := updBeam s core fun e => { e with walks := e.walks.del i }
       let key := match kennelOf s core with | some p => (p.2.waves.find? (bits b.w0 46 38)) | none => none
       let s := match key with
         | none => s
         | some key => s.updWaveOld key (s.wave key).serial (fun w => decide (b.seq.toNat ≤ w.seq.toNat)) fun w =>
             { finishIn w (flagOf (bits b.w0 37 34)) (flagOf (bits b.w0 33 30)) b.status 0 b.seq with engc := w.engc - 1 }
       .next (serve s core))

end Sys2Proof.Machine
end

