-- ==== Sys2Proof/Machine/CrossLane.lean ====
section
/-! DEFINITION. The meanings of the cross-lane group (13_isa_crosslane.md; 07_number_formats.md R126). An instruction reads
its sources as it issues and raises XLC; its destinations are written in a later cycle of its slice, which is left to a
free value and lowers XLC (R243; log entry 13). -/

namespace Sys2Proof.Machine

/-! ### The driver -/

/-- What an instruction writes: registers by their numbers of `Out`, later ones over earlier ones. -/
abbrev Writes := List (Nat × Word)

/-- One lane's destination; ZERO discards the result. -/
def dstWord (d : Opd) (l : Nat) (x : Word) : Writes :=
  match d with
  | .v n => [(Wave.vkey n.val l, x)]
  | .s n => [(Wave.skey n.val, x)]
  | .p n => [(Wave.pkey n.val l, x)]
  | _ => []

/-- One lane's bit of a predicate destination; a scalar receives 1 or 0 (R225). -/
def dstBit (d : Opd) (l : Nat) (b : Bool) : Writes :=
  match d with
  | .p _ | .s _ => dstWord d l (if b then 1 else 0)
  | _ => []

/-- Z = 1: the destination of the lanes that are not selected (R168, R215); a scalar has no lanes. -/
def dstZero (d : Opd) (m : Mask) : Writes :=
  match d with
  | .v _ | .p _ => (lanesOf m).flatMap fun l => dstWord d l 0
  | _ => []

/-- A cross-lane instruction as it issues: XLC and SRCNT rise, the flags are set, and its results are on their way. -/
def crossEnd (s : State) (c : Iss) (o : Ops) (sel : Mask) (r : Writes × Fl) : State :=
  let w := (stepSr o c.w).setFl r.2
  s.setWave c.key
    { w with xlc := w.xlc + 1,
             xl := w.xl ++ [{ left := (s.free (2 ^ 38)).toNat % 64, writes := r.1 ++ dstZero o.d (zeroed o c.mask sel) }] }

/-- A cross-lane instruction: held while its group has pending members (R242) and while XLC stands at its largest value
(R190), else performed by `f`, which is given its participants (R241). -/
def crossOp (i : Instr) (o : Ops) (f : State → Iss → Mask → Writes × Fl) (s : State) : Host.Outcome State Fault Refusal :=
  s.issue i fun s c =>
    let sel := selOf s c o
    if c.w.pending c.mask != 0 then .hang s
    else if c.w.xlc ≥ 15 then .hold s false 7
    else .done (crossEnd s c o sel (f s c sel))

/-- Each participant writes a word of its own. -/
def eachLane (o : Ops) (sel : Mask) (f : Nat → Word) : Writes := (lanesOf sel).flatMap fun l => dstWord o.d l (f l)

/-- One result for the wave: once to a scalar, whether or not anything takes part, else to each participant (R240). -/
def sameWord (o : Ops) (sel : Mask) (x : Word) : Writes :=
  match o.d with
  | .s _ => dstWord o.d 0 x
  | _ => eachLane o sel fun _ => x

/-- One condition for the wave (R246, R225). -/
def sameBit (o : Ops) (sel : Mask) (b : Bool) : Writes :=
  match o.d with
  | .s _ => dstBit o.d 0 b
  | _ => (lanesOf sel).flatMap fun l => dstBit o.d l b

/-- An element as a move writes it: the unused bits of a byte container are zero (R114). -/
def moved (t : ETy) (x : Nat) : Nat :=
  match t with
  | .e3m2 | .e2m3 => x % 64
  | .e2m1 | .q4 => x % 16
  | _ => x

/-- Elements of a type joined. -/
def joinMoved (t : VTy) (xs : List Nat) : Word := packElems t.ty.width (xs.map (moved t.ty))

/-- The unsigned integer type of a width, by which selectors and targets are read. -/
def uintTy (t : VTy) : VTy :=
  { t with ty := match t.ty.width with | 64 => .n64 | 32 => .n32 | 16 => .n16 | _ => .n8 }

/-! ### Shuffles (R244) -/

/-- Lane s of the source, whatever lane it is (R241). -/
def srcLane (s : State) (c : Iss) (o : Ops) (t : VTy) (l : Nat) : Word := readSrc s c.w o .a t l

/-- A shuffle whose lane l takes element (i + rotation) of lane `from`. -/
def shuffle (i : Instr) (o : Ops) (t : VTy) (f : State → Iss → Nat → Nat × Nat) (s : State) :
    Host.Outcome State Fault Refusal :=
  crossOp i o (fun s c sel => (eachLane o sel fun l =>
    let (q, rot) := f s c l
    let a := srcLane s c o t q
    joinMoved t ((List.range t.cnt.n).map fun j => elem t.ty.width a ((j + rot) % t.cnt.n)), 0)) s

/-- SHFL (R244). -/
def execShfl (o : Ops) (t : VTy) (s : State) : Host.Outcome State Fault Refusal :=
  shuffle (.shfl o t) o t (fun s c l =>
    let b := readSrc s c.w o .b b64 l
    (bits b 5 0 % c.w.width, bits b 10 8)) s

/-- SHFLX (R244). -/
def execShflx (o : Ops) (t : VTy) (s : State) : Host.Outcome State Fault Refusal :=
  shuffle (.shflx o t) o t (fun s c l => (l ^^^ (bits (readSrc s c.w o .b b64 l) 5 0 % c.w.width), 0)) s

/-- SHFLU (R244). -/
def execShflu (o : Ops) (t : VTy) (s : State) : Host.Outcome State Fault Refusal :=
  shuffle (.shflu o t) o t (fun s c l =>
    let b := (readSrc s c.w o .b b64 l).toNat
    (if b ≤ l then l - b else l, 0)) s

/-- SHFLD (R244). -/
def execShfld (o : Ops) (t : VTy) (s : State) : Host.Outcome State Fault Refusal :=
  shuffle (.shfld o t) o t (fun s c l =>
    let b := (readSrc s c.w o .b b64 l).toNat
    (if l + b < c.w.width then l + b else l, 0)) s

/-- SHFLS (R244): a is a flat array of elements. -/
def execShfls (o : Ops) (t : VTy) (s : State) : Host.Outcome State Fault Refusal :=
  crossOp (.shfls o t) o (fun s c sel => (eachLane o sel fun l =>
    let n := t.ty.width
    let k := t.cnt.n
    let b := readSrc s c.w o .b (uintTy t) l
    joinMoved t ((List.range k).map fun i =>
      let f := elem n b i % (c.w.width * k)
      elem n (srcLane s c o t (f / k)) (f % k)), 0)) s

/-- BCAST (R244): a scalar receives the whole 64 bits of the lane. -/
def execBcast (o : Ops) (t : VTy) (s : State) : Host.Outcome State Fault Refusal :=
  crossOp (.bcast o t) o (fun s c sel =>
    let q := fun l => bits (readSrc s c.w o .b b64 l) 5 0 % c.w.width
    match o.d with
    | .s _ => (dstWord o.d 0 (srcLane s c o t (q 0)), 0)
    | _ => (eachLane o sel fun l =>
        joinMoved t ((List.range t.cnt.n).map fun j => elem t.ty.width (srcLane s c o t (q l)) j), 0)) s

/-! ### Push writes (R245) -/

/-- PUSH (R245): every source is read before any destination is written, and the highest source lane wins. -/
def execPush (o : Ops) (t : VTy) (s : State) : Host.Outcome State Fault Refusal :=
  crossOp (.push o t) o (fun s c sel =>
    ((lanesOf sel).flatMap fun l =>
      let q := bits (readSrc s c.w o .b b64 l) 5 0 % c.w.width
      if sel.getLsbD q then dstWord o.d q (srcLane s c o t l) else [], 0)) s

/-- PUSHS (R245): each sub-element goes to a flat destination element; the highest flat source wins. -/
def execPushs (o : Ops) (t : VTy) (s : State) : Host.Outcome State Fault Refusal :=
  crossOp (.pushs o t) o (fun s c sel =>
    let n := t.ty.width
    let k := t.cnt.n
    let sent := (lanesOf sel).flatMap fun l => (List.range k).map fun i =>
      (elem n (readSrc s c.w o .b (uintTy t) l) i % (c.w.width * k), elem n (srcLane s c o t l) i)
    ((lanesOf sel).flatMap fun q =>
      let mine := sent.filter fun p => p.1 / k == q
      if mine.isEmpty then []
      else
        let old := readOpd s c.w o.d t q
        dstWord o.d q (packElems n ((List.range k).map fun i =>
          match (mine.reverse.find? fun p => p.1 % k == i) with
          | some p => moved t.ty p.2
          | none => elem n old i)), 0)) s

/-! ### Votes, ballots and matches (R246) -/

/-- Bits n − 1 : 0 of each participant's source. -/
def voteVals (s : State) (c : Iss) (o : Ops) (t : VTy) (sel : Mask) : List Nat :=
  (lanesOf sel).map fun l => elem t.ty.width (srcLane s c o t l) 0

/-- VOTEANY (R246). -/
def execVoteany (o : Ops) (t : VTy) (s : State) : Host.Outcome State Fault Refusal :=
  crossOp (.voteany o t) o (fun s c sel => (sameBit o sel ((voteVals s c o t sel).any fun x => x != 0), 0)) s

/-- VOTEALL (R246). -/
def execVoteall (o : Ops) (t : VTy) (s : State) : Host.Outcome State Fault Refusal :=
  crossOp (.voteall o t) o (fun s c sel => (sameBit o sel ((voteVals s c o t sel).all fun x => x != 0), 0)) s

/-- VOTEEQ (R246): 64 / k × k bits are compared, that is, the whole lane. -/
def execVoteeq (o : Ops) (t : VTy) (s : State) : Host.Outcome State Fault Refusal :=
  crossOp (.voteeq o t) o (fun s c sel =>
    let xs := (lanesOf sel).map (srcLane s c o t)
    (sameBit o sel (xs.all fun x => some x == xs.head?), 0)) s

/-- The mask of the participants whose bit of predicate a is 1. -/
def ballotOf (s : State) (c : Iss) (o : Ops) (sel : Mask) : Mask := readSrc s c.w o .a b64 0 &&& sel

/-- BALLOT (R246). -/
def execBallot (o : Ops) (s : State) : Host.Outcome State Fault Refusal :=
  crossOp (.ballot o) o (fun s c sel => (sameWord o sel (ballotOf s c o sel), 0)) s

/-- PCOUNT (R246). -/
def execPcount (o : Ops) (s : State) : Host.Outcome State Fault Refusal :=
  crossOp (.pcount o) o (fun s c sel => (sameWord o sel (BitVec.ofNat 64 (popc (ballotOf s c o sel))), 0)) s

/-- FIRSTL (R246). -/
def execFirstl (o : Ops) (s : State) : Host.Outcome State Fault Refusal :=
  crossOp (.firstl o) o (fun s c sel => (sameWord o sel (BitVec.ofNat 64 (lowest (ballotOf s c o sel))), 0)) s

/-- MATCH (R246). -/
def execMatchv (o : Ops) (t : VTy) (s : State) : Host.Outcome State Fault Refusal :=
  crossOp (.matchv o t) o (fun s c sel =>
    let v := fun l => elem t.ty.width (srcLane s c o t l) 0
    (eachLane o sel fun l => maskOf ((lanesOf sel).filter fun q => v q == v l), 0)) s

/-! ### Scans and reductions (R126, R247 to R250) -/

/-- The operation of a scan or reduction on two elements. -/
def redElem (t : ETy) (op : ROp) (r : Rc) (a b : Nat) : Nat × Fl :=
  match op with
  | .add => if t.isFp then El.fadd t r a b else (El.add t a b, 0)
  | .min => if t.isFp then El.fmin t r a b else (El.min t a b, 0)
  | .max => if t.isFp then El.fmax t r a b else (El.max t a b, 0)
  | .and => (El.and t a b, 0)
  | .or => (El.or t a b, 0)
  | .xor => (El.xor t a b, 0)

/-- The empty value (R247). -/
def redEmpty (t : ETy) (op : ROp) : Nat :=
  match op with
  | .add | .or | .xor => 0
  | .and => 2 ^ t.width - 1
  | .min => match fmtOf t with | some f => f.infCode false | none => toBits t.width (tyRange t).2
  | .max => match fmtOf t with | some f => f.infCode true | none => toBits t.width (tyRange t).1

/-- The pairwise tree of R126: `f` is given the number of a node that combines two present values. -/
def treeUp (f : Nat → Nat → Nat → Nat × Fl) : Nat → List (Option Nat) → Option Nat × Fl
  | 0, xs => ((xs.head?).getD none, 0)
  | j + 1, xs =>
    let n := xs.length / 2
    let ys := (List.range n).map fun i =>
      match (xs[2 * i]?).getD none, (xs[2 * i + 1]?).getD none with
      | some a, some b => let (x, fl) := f (n + i) a b; (some x, fl)
      | some a, none => (some a, 0)
      | none, b => (b, 0)
    let (r, fl) := treeUp f j (ys.map Prod.fst)
    (r, ys.foldl (fun g y => g ||| y.2) fl)

/-- How a node rounds: node number and sub-element position (R126). -/
def nodeRc (c : Iss) (o : Ops) (node sub : Nat) : Rc :=
  { fz := c.w.fz, mode := rndOf o, rand := if rndOf o == .sr then srBits c.w.srseed c.fpc c.w.srcnt node sub else 0 }

/-- An element as an operand of a scan or reduction: under FZ a subnormal one is a zero of its sign, also where it meets
no partner (R121). -/
def redOperand (t : ETy) (fz : Bool) (x : Nat) : Nat :=
  match fmtOf t with
  | some f => El.flush f fz (x % 2 ^ f.width)
  | none => x

/-- The tree of position i over the participants from lane lo to lane hi. -/
def laneTree (s : State) (c : Iss) (o : Ops) (t : VTy) (op : ROp) (sel : Mask) (i lo hi : Nat) : Option Nat × Fl :=
  treeUp (fun node => redElem t.ty op (nodeRc c o node i)) c.w.width.log2
    ((List.range c.w.width).map fun l =>
      if sel.getLsbD l && lo ≤ l && l ≤ hi then some (redOperand t.ty c.w.fz (elem t.ty.width (srcLane s c o t l) i))
      else none)

/-- The elements of a lane whose trees run over lanes lo to hi, or, where the range is `none`, the empty values. -/
def scanLane (s : State) (c : Iss) (o : Ops) (t : VTy) (op : ROp) (sel : Mask) (range : Option (Nat × Nat)) : Word × Fl :=
  joinElems t.ty.width ((List.range t.cnt.n).map fun i =>
    match range with
    | none => (redEmpty t.ty op, 0)
    | some (lo, hi) => let (x, fl) := laneTree s c o t op sel i lo hi; (x.getD (redEmpty t.ty op), fl))

/-- A scan whose lane l takes the trees over the lanes that `f` names. Only participants are written; the flags are those of
the trees of every lane of the wave, selected or not (R247; log entry 13). -/
def scan (i : Instr) (o : Ops) (t : VTy) (op : ROp) (f : State → Iss → Mask → Nat → Option (Nat × Nat)) (s : State) :
    Host.Outcome State Fault Refusal :=
  crossOp i o (fun s c sel =>
    (eachLane o sel fun l => (scanLane s c o t op sel (f s c sel l)).1,
      (List.range c.w.width).foldl (fun g l => g ||| (scanLane s c o t op sel (f s c sel l)).2) 0)) s

/-- SCANI (R247). -/
def execScani (o : Ops) (t : VTy) (op : ROp) (s : State) : Host.Outcome State Fault Refusal :=
  scan (.scani o t op) o t op (fun _ _ _ l => some (0, l)) s

/-- SCANX (R247). -/
def execScanx (o : Ops) (t : VTy) (op : ROp) (s : State) : Host.Outcome State Fault Refusal :=
  scan (.scanx o t op) o t op (fun _ _ _ l => if l = 0 then none else some (0, l - 1)) s

/-- SEGSCAN (R249): the nearest head at or below a lane, the lowest participant being one. -/
def execSegscan (o : Ops) (t : VTy) (op : ROp) (s : State) : Host.Outcome State Fault Refusal :=
  scan (.segscan o t op) o t op (fun s c sel l =>
    let heads := readSrc s c.w o .b b64 0 &&& sel
    some (((lanesOf heads).filter (· ≤ l)).getLast?.getD (lowest sel), l)) s

/-- WRED (R247). -/
def execWred (o : Ops) (t : VTy) (op : ROp) (s : State) : Host.Outcome State Fault Refusal :=
  crossOp (.wred o t op) o (fun s c sel =>
    let (x, fl) := scanLane s c o t op sel (some (0, 63))
    (sameWord o sel x, fl)) s

/-- WREDV (R248): the positions are then combined in the same tree by index. -/
def execWredv (o : Ops) (t : VTy) (op : ROp) (s : State) : Host.Outcome State Fault Refusal :=
  crossOp (.wredv o t op) o (fun s c sel =>
    let rs := (List.range t.cnt.n).map fun i => laneTree s c o t op sel i 0 63
    let (r, fl) := treeUp (fun node => redElem t.ty op (nodeRc c o 0 node)) t.cnt.n.log2 (rs.map Prod.fst)
    (sameWord o sel (packElems t.ty.width [r.getD (redEmpty t.ty op)]), rs.foldl (fun g y => g ||| y.2) fl)) s

/-- COMPACT (R250). -/
def execCompact (o : Ops) (t : VTy) (s : State) : Host.Outcome State Fault Refusal :=
  crossOp (.compact o t) o (fun s c sel =>
    let keep := lanesOf (readSrc s c.w o .b b64 0 &&& sel)
    (((lanesOf sel).zip keep).flatMap fun p =>
      dstWord o.d p.1 (joinMoved t ((List.range t.cnt.n).map fun i => elem t.ty.width (srcLane s c o t p.2) i)), 0)) s

end Sys2Proof.Machine
end

