-- ==== Sys2Proof/Machine/Leash.lean ====
section
/-! DEFINITION. The Leash at its home slices (04_home_slices.md R76 to R80): registrations, spilling and holding,
cancels, wakes and their acknowledgements, and the detach and attach of save and restore routines
(17_isa_control.md R348, R349). -/

namespace Sys2Proof.Machine

/-! ### Room for an entry (R76, R79) -/

/-- The bucket of an address in its slice's spill area. -/
def bucketOf (m pa : Nat) : Nat := ((pa / 2 ^ 5 % 2 ^ 20) ^^^ (pa / 2 ^ 25 % 2 ^ 20)) % 2 ^ m

/-- Places an entry in the table of its slice, or in a bucket of the spill area; none where neither has room. -/
def addEntry (s : State) (d : Nat) (e : LeashEntry) : Option State :=
  let sl := homeSlice e.pa
  let mine := (s.die d).leash.filter fun p => p.1 == sl
  let base := s.reg d Off.lsSpillbase
  let b := bucketOf (bits base 4 1) e.pa
  let add := fun (s : State) (spilled : Bool) => s.updDie d fun x => { x with leash := x.leash ++ [(sl, { e with spilled })] }
  if (mine.filter fun p => !p.2.spilled).length < 1024 then some (add s false)
  else if bit base 0 && (mine.filter fun p => p.2.spilled && bucketOf (bits base 4 1) p.2.pa == b).length < 8 then
    some ((add s true).count d Off.lsSpills)
  else none

/-- Whether a registration or an attach of a token is still on its way, which a later message about it stays behind. -/
def tokenInFlight (s : State) (wave serial token : Nat) : Bool :=
  s.msgs.any fun p => match p.2 with
    | .register w k e => w == wave && k == serial && e.token == token
    | .attach w k _ _ e => w == wave && k == serial && e.token == token
    | _ => false

/-- The message that an event names. -/
def msgAt (s : State) (n : Nat) : Option Msg := s.msgs.find? n
def dropMsg (s : State) (n : Nat) : State := { s with msgs := s.msgs.del n }

/-- Whether a registration's condition holds now; its watched word cannot be read where its sector fails (R34). -/
def holdsNow (s : State) (e : LeashEntry) : Bool := leashHolds e.cmp e.wide (watched s e.pa e.wide) e.operand

/-- A waiter whose WAITU cannot read its word: a deferred failure, which ends the wait with nothing written (R34,
R378). -/
def failWait (s : State) (wave serial token : Nat) (pa : Nat) : State :=
  let s := s.logBad pa 8
  match s.waveAt wave serial with
  | some w =>
    match w.leash with
    | some r =>
      if r.token != token then s
      else
        let pc := (w.lane (lowest r.lanes)).pc
        let s := s.updWave wave fun w => { (w.stepLanes r.lanes r.k) with leash := none }
        s.takeTrap wave .memUncorr 0 [(r.sel, 0, pc, 0)]
    | none => s
  | none => s

/-- A registration at its slice (R77, R79): answered at once, entered, spilled or held; it is held too while an older one
waits that a freed place would take. -/
def registerAt (s : State) (d : Nat) (e : LeashEntry) : State :=
  if anyBad s e.pa (if e.wide then 8 else 4) && isDev e.pa then failWait s e.wave e.serial e.token e.pa
  else if holdsNow s e then s.post (.reply e.wave e.serial e.token e.pa (some (watched s e.pa e.wide)) false)
  else
    let older := (s.die d).leashHeld.any fun p => p.1 == homeSlice e.pa && (addEntry s d p.2).isSome
    match if older then none else addEntry s d e with
    | some s => s
    | none => s.updDie d fun x => { x with leashHeld := x.leashHeld ++ [(homeSlice e.pa, e)] }

/-- LEASH_REGISTER (R77, R79): the registration and the look at the word are one step in the word's order. Those of a
recorded launch are made at its commit rounds (R408). -/
def execLeashRegister (s : State) : Host.Outcome State Fault Refusal :=
  match msgAt s s.subj.a with
  | some (.register wave serial e) =>
    let d := homeDie e.pa 0
    let mode := match s.waveAt wave serial with | some w => recMode s w | none => 0
    if mode != 0 && s.replay.phase != 2 then notNow "LEASH_REGISTER"
    else
      onTime "LEASH_REGISTER"
        (.next (registerAt (((dropMsg s s.subj.a).arrive (slicePort wave e.pa) e.pa).count d Off.lsRegs) d e))
  | _ => notNow "LEASH_REGISTER"

/-- HELD_REGISTRATION_ADMIT (R79): the oldest held registration of a slice for which there is room is looked at again. -/
def execHeldRegistrationAdmit (s : State) : Host.Outcome State Fault Refusal :=
  let name := "HELD_REGISTRATION_ADMIT"
  let d := s.subj.a
  match (s.die d).leashHeld.find? fun p => p.1 == s.subj.b && (addEntry s d p.2).isSome with
  | none => notNow name
  | some p =>
    match addEntry s d p.2 with
    | none => notNow name
    | some s' =>
      let drop := fun (s : State) => s.updDie d fun x => { x with leashHeld := x.leashHeld.filter fun q => q.2.order != p.2.order }
      match p.2.st with
      | .waiting =>
        if holdsNow s p.2 || (anyBad s p.2.pa (if p.2.wide then 8 else 4) && isDev p.2.pa) then .next (registerAt (drop s) d p.2)
        else .next (drop s')
      | _ => .next ((drop s').reeval 0 p.2.pa (if p.2.wide then 8 else 4))

/-- Whether the count of a registration's units has ended and its cancel has still to be sent. -/
def timedOut (r : Reg) (now : Nat) : Bool := r.units != 0 && !r.cancelled && r.since + 1024 * r.units ≤ now

/-- LEASH_TIMEOUT (R77, R204, R349): the registering core's count of 1,024-cycle units ends, and it sends one cancel. An
attached entry's count ends so too, whether or not a WAITU has adopted it. -/
def execLeashTimeout (s : State) : Host.Outcome State Fault Refusal :=
  let name := "LEASH_TIMEOUT"
  let k := s.subj.a
  match s.wave? k with
  | none => notNow name
  | some w =>
    let due := fun (r : Reg) => timedOut r (s.now (clockOf k))
    match w.leash.filter due, w.adopted.filter due with
    | some r, _ =>
      .next ((s.post (.cancel k w.serial r.token r.pa)).updWave k fun w => { w with leash := some { r with cancelled := true } })
    | none, some r =>
      .next ((s.post (.cancel k w.serial r.token r.pa)).updWave k fun w => { w with adopted := some { r with cancelled := true } })
    | none, none => notNow name

/-- Where an entry of a token stands: in the table or a bucket, or held. -/
def entryOfToken (s : State) (d wave serial token : Nat) : Option (Bool × LeashEntry) :=
  let is := fun (p : Nat × LeashEntry) => p.2.token == token && p.2.st != .detached && p.2.wave == wave && p.2.serial == serial
  match (s.die d).leash.find? is with
  | some p => some (false, p.2)
  | none => ((s.die d).leashHeld.find? is).map fun p => (true, p.2)

/-- One entry removed, wherever it stands. -/
def freeEntry (s : State) (d order : Nat) : State :=
  s.updDie d fun x => { x with leash := x.leash.filter fun p => p.2.order != order,
                               leashHeld := x.leashHeld.filter fun p => p.2.order != order }
def changeEntry (s : State) (d order : Nat) (f : LeashEntry → LeashEntry) : State :=
  s.updDie d fun x => { x with leash := x.leash.map fun p => if p.2.order == order then (p.1, f p.2) else p,
                               leashHeld := x.leashHeld.map fun p => if p.2.order == order then (p.1, f p.2) else p }

/-- LEASH_CANCEL (R78): a WAITING or held entry is freed and replies TIMEOUT; a WAKING one stands. -/
def execLeashCancel (s : State) : Host.Outcome State Fault Refusal :=
  let name := "LEASH_CANCEL"
  match msgAt s s.subj.a with
  | some (.cancel wave serial token pa) =>
    if tokenInFlight s wave serial token then notNow name
    else
      let d := homeDie pa 0
      let s := dropMsg s s.subj.a
      match entryOfToken s d wave serial token with
      | some (_, e) =>
        if e.st == .waiting then .next ((freeEntry s d e.order).post (.reply wave serial token pa none false)) else .next s
      | none => .next s
  | _ => notNow name

/-- A reply delivered to a wave whose registration has its token; any other wave discards it (R204, R349, R382). That of
an adopted registration stands until a WAITU adopts it. -/
def deliver (s : State) (wave serial token : Nat) (value : Option Word) : State :=
  match s.waveAt wave serial with
  | none => s
  | some w =>
    let mine := fun (r : Reg) => r.token == token
    match w.leash.filter mine, w.adopted.filter mine with
    | some r, _ => wakeLeashed s wave r value
    | none, some r =>
      s.updWave wave fun w => { w with adopted := some { r with woken := value, expired := value.isNone } }
    | none, none => s

/-- WAITU_REPLY (R204, R407, R408): a wake, an immediate reply or a TIMEOUT reaches the core; a wake is acknowledged.
For a recorded launch it is decided and logged at a commit round; under replay the log alone gives wakes and timeouts. -/
def execWaituReply (s : State) : Host.Outcome State Fault Refusal :=
  let name := "WAITU_REPLY"
  match msgAt s s.subj.a with
  | some (.reply wave serial token pa value wake) =>
    let s' := dropMsg s s.subj.a
    let ack := fun (s : State) => if wake then s.post (.wakeAck pa token 0) else s
    let kind := if value.isSome then logWake else logTimeout
    match s.waveAt wave serial with
    | none => .next (ack s')
    | some w =>
      if w.leash.isNone || w.save != .none then .next (deliver (ack s') wave serial token value)
      else
        match recMode s w with
        | 0 => .next (deliver (ack s') wave serial token value)
        | 1 =>
          if s.replay.phase != 3 || s.logStalls (dieOf wave) 1 then notNow name
          else .next (deliver ((ack s').logPut wave kind 0 0 (value.getD 0) pa) wave serial token value)
        | _ => .next (ack s')
  | _ => notNow name

/-- WAKE_ACK (R78): the entry of an acknowledged wake becomes FREE. -/
def execWakeAck (s : State) : Host.Outcome State Fault Refusal :=
  match msgAt s s.subj.a with
  | some (.wakeAck pa token _) =>
    .next ((dropMsg s s.subj.a).updDie (homeDie pa 0) fun x =>
      { x with leash := x.leash.filter fun p => !(p.2.token == token && p.2.pa == pa && p.2.st == .waking) })
  | _ => notNow "WAKE_ACK"

/-- DECREMENT_ACK (R78): so does the entry of a detached wake once its decrement is acknowledged. -/
def execDecrementAck (s : State) : Host.Outcome State Fault Refusal :=
  match msgAt s s.subj.a with
  | some (.decrement pa counter token _ none) =>
    .next ((dropMsg s s.subj.a).updDie (homeDie pa 0) fun x =>
      { x with leash := x.leash.filter fun p =>
          !(p.2.token == token && p.2.pa == pa && p.2.counter == counter && p.2.st == .waking) })
  | _ => notNow "DECREMENT_ACK"

/-! ### Detach and attach (R348, R349) -/

/-- Lanes that wait for a message go on at the next word. -/
def replied (w : Wave) (n : Nat) : Wave := w.stepLanes (w.lanesWhere fun l => l.wait == .reply n) 1

/-- Units of a timeout that remain: those not wholly passed. -/
def unitsLeft (r : Reg) (now : Nat) : Nat := if r.units == 0 then 0 else max 1 (r.units - (now - r.since) / 1024)

/-- The four words of LSDET. -/
def detachWords (r : Reg) (result now : Nat) : List Word :=
  [BitVec.ofNat 64 (result * 2 ^ 62 + r.cmp.code * 2 ^ 58 + (if r.wide then 2 ^ 57 else 0) + r.pa), r.operand,
    BitVec.ofNat 64 (r.token * 2 ^ 32), BitVec.ofNat 64 (unitsLeft r now)]

/-- The wave holds no registration any more; a leashed lane group stops waiting and stays at its WAITU. -/
def unleash (w : Wave) : Wave :=
  { (w.mapLanes (BitVec.allOnes 64) fun _ l =>
      { l with wait := if l.wait == .leash then .none else l.wait, was := if l.was == .leash then .none else l.was }) with
    leash := none, adopted := none }

/-- LEASH_DETACH (R78, R348): the registration is looked for at its slice, and LSDET receives its reply in the same
step. -/
def execLeashDetach (s : State) : Host.Outcome State Fault Refusal :=
  let name := "LEASH_DETACH"
  let n := s.subj.a
  match msgAt s n with
  | some (.detach wave serial token pa counter dst) =>
    if tokenInFlight s wave serial token then notNow name
    else
      let d := homeDie pa 0
      let s := dropMsg s n
      match s.waveAt wave serial with
      | none => .next s
      | some w =>
        let give := fun (s : State) (ws : List Word) => s.updWave wave fun w => replied (writeRun w dst ws) n
        match w.leash <|> w.adopted with
        | none => .next (give s [0, 0, 0, 0])
        | some r =>
          let now := s.now (clockOf wave)
          match (entryOfToken s d wave serial token).filter fun p => p.2.st == .waiting with
          | some (_, e) =>
            let s := changeEntry s d e.order fun e => { e with st := .detached, counter }
            .next (give (s.updWave wave unleash) (detachWords r 1 now))
          | none =>
            -- a reply on its way is delivered; it is a wake, or the answer of a timeout
            let r? := List.find? (fun (p : Nat × Msg) => match p.2 with
              | .reply w' k' t' _ _ _ => w' == wave && k' == serial && t' == token
              | _ => false) s.msgs
            match r? with
            | some (m, .reply _ _ _ _ value wake) =>
              let s := deliver (dropMsg s m) wave serial token value
              let s := if wake then s.post (.wakeAck pa token 0) else s
              .next (give (s.updWave wave unleash) (if value.isSome then detachWords r 2 now else [0, 0, 0, 0]))
            | _ => .next (give (s.updWave wave unleash) [0, 0, 0, 0])
  | _ => notNow name

/-- LEASH_ATTACH (R78, R349): a DETACHED entry takes the wave as its waiter and becomes its adopted registration. -/
def execLeashAttach (s : State) : Host.Outcome State Fault Refusal :=
  let n := s.subj.a
  match msgAt s n with
  | some (.attach wave serial dst units e) =>
    let d := homeDie e.pa 0
    let s := dropMsg s n
    let is := fun (p : Nat × LeashEntry) => p.2.st == .detached && p.2.token == e.token && p.2.ctx == e.ctx && p.2.pa == e.pa
    let give := fun (s : State) (x : Word) => s.updWaveAt wave serial fun w => replied (if dst < 256 then w.swrite dst x else w) n
    match (s.die d).leash.find? is <|> (s.die d).leashHeld.find? is with
    | none => .next (give s 1)
    | some (_, x) =>
      if (s.waveAt wave serial).isNone then .next s
      else
        let s := changeEntry s d x.order fun x => { x with st := .waiting, wave, serial, counter := 0 }
        let r : Reg := { token := x.token, cmp := x.cmp, wide := x.wide, pa := x.pa, operand := x.operand, lanes := 0,
                         dst := .zero, status := none, sel := 0, units, since := s.now (clockOf wave), adopted := true }
        .next (give (s.updWave wave fun w => { w with adopted := some r }) 0)
  | _ => notNow "LEASH_ATTACH"

/-! ### The control block (R80) -/

/-- Every entry and held request of a context is freed on all dies, without wake or reply (R78, R80). -/
def purge (s : State) (ctx : Nat) : State :=
  { s with dies := s.dies.map fun p =>
      (p.1, { p.2 with leash := p.2.leash.filter fun q => q.2.ctx != ctx,
                       leashHeld := p.2.leashHeld.filter fun q => q.2.ctx != ctx }) }

/-- A write of LS_SPILLBASE: before the first launch, and with m of 14 or less (R80, R99). -/
def spillbaseWrite (s : State) (d : Nat) (x : Word) : State :=
  if s.launched || bits x 4 1 > 14 then s
  else s.setReg d Off.lsSpillbase (BitVec.ofNat 64 (bits x 51 12 * 4096 + bits x 4 0))

end Sys2Proof.Machine
end

