-- ==== Sys2Proof/Machine/TransEvents.lean ====
section
/-! DEFINITION. Events of address translation (03_translation.md R52 to R60): walks that end, fault entries written to
the ring, invalidations and the context table base. -/

namespace Sys2Proof.Machine

/-- PAGE_WALK_COMPLETE (R47 to R53): a walk, one of the oldest 128 of its die, reads its tables. Its leaf is cached on the
die and at the cores whose lanes wait for it, or each waiting lane's next issue finds the fault it ended in. -/
def execPageWalkComplete (s : State) : Host.Outcome State Fault Refusal :=
  let n := s.subj.a
  match s.walking.find? n with
  | none => notNow "PAGE_WALK_COMPLETE"
  | some w =>
    if (s.walking.filter fun p => p.1 < n && p.2.die == w.die).length ≥ 128 then notNow "PAGE_WALK_COMPLETE" else
    let va := w.vpn * 4096
    let s := { s with walking := s.walking.del n }
    match walkLeaf s w.die w.ctx va with
    | (ws, .ok l) =>
      .next (((w.waiting.map fun q => q.1).filter fun k => !isCtl k).foldl (fun s k => fillCore s (coreOf k) l)
        (fillTlb (fillWalk s w.die w.ctx ws) w.die l))
    | (ws, .error t) =>
      .next (w.waiting.foldl (fun s q => s.updWaveAt q.1 q.2.1 fun x =>
        { x with xfault := x.xfault ++ (lanesOf q.2.2).map fun l => (xkey l (BitVec.ofNat 64 va), t) }) (fillWalk s w.die w.ctx ws))

/-! ### The fault ring (R55) -/

def fqSize (s : State) (d : Nat) : Nat := 2 ^ (bits (s.reg d Off.xlFqbase) 3 0 + 4)

/-- Whether a request's key is that of an unresolved entry. -/
def sameKey (f : FaultReq) (e : FaultEntry) : Bool := e.ctx == f.ctx && e.vpn == f.va / 4096 && e.access == f.access

/-- The 32 bytes of an entry. -/
def faultBytes (f : FaultReq) : List Byte :=
  bytesOf (f.va % 2 ^ 56) 8
    ++ bytesOf (f.origin % 256 * 2 ^ 32 + f.lanes * 2 ^ 24 + f.requester * 2 ^ 20 + f.access * 2 ^ 16 + f.fault * 2 ^ 12
        + f.ctx % 2 ^ 12) 8
    ++ bytesOf f.pc.toNat 8 ++ bytesOf f.seq.toNat 8

/-- Whether a waiting request can proceed. -/
def canWrite (s : State) (d : Nat) (f : FaultReq) : Bool :=
  ((s.die d).faults.any (sameKey f))
    || ((s.reg d Off.xlFqtail).toNat + 2 ^ 32 - (s.reg d Off.xlFqhead).toNat % 2 ^ 32) % 2 ^ 32 < fqSize s d

/-- FAULT_ENTRY_WRITE (R55): the oldest request that can is attached to the unresolved entry of its key, or written at
XL_FQTAIL when the ring has room. -/
def execFaultEntryWrite (s : State) : Host.Outcome State Fault Refusal :=
  let d := s.subj.a
  match ((s.die d).faultWait.zipIdx.find? fun p => canWrite s d p.1) with
  | none => notNow "FAULT_ENTRY_WRITE"
  | some (f, i) =>
    let s := s.updDie d fun x => { x with faultWait := x.faultWait.eraseIdx i }
    if (s.die d).faults.any (sameKey f) then
      .next (s.updDie d fun x =>
        { x with faults := x.faults.map fun e => if sameKey f e then { e with who := e.who ++ [f.who] } else e })
    else
      let tail := (s.reg d Off.xlFqtail).toNat % 2 ^ 32
      let a := bits (s.reg d Off.xlFqbase) 51 12 * 4096 + 32 * (tail % fqSize s d)
      let s := s.ringWrite d a (faultBytes f)
      let s := s.updDie d fun x =>
        { x with faults := x.faults ++ [{ idx := BitVec.ofNat 32 tail, ctx := f.ctx, vpn := f.va / 4096, access := f.access, who := [f.who] }] }
      .next ((s.updReg d Off.xlFqtail (BitVec.ofNat 64 ((tail + 1) % 2 ^ 32))).note d 21)

/-! ### Invalidation (R58, R59) -/

/-- Whether a command removes a leaf. -/
def removes (c : Inval) (l : Leaf) : Bool :=
  match c.kind with
  | 0 => l.ctx == c.ctx && c.va / 2 ^ l.size == l.va
      && (c.size == 3 || l.size == (match c.size with | 0 => 12 | 1 => 16 | _ => 21))
  | 1 => l.ctx == c.ctx
  | 2 => true
  | _ => false

/-- A command acts on the caches of all four dies; kind 0 drops the walk cache entries of its context too. -/
def invApply (s : State) (c : Inval) : State :=
  { s with
    cores := s.cores.map fun p => (p.1, { p.2 with tlb := p.2.tlb.filter fun l => !removes c l }),
    dies := s.dies.map fun p =>
      (p.1, { p.2 with
        tlb := p.2.tlb.filter fun l => !removes c l,
        wcache := p.2.wcache.filter fun q =>
          !(c.kind == 2 || ((c.kind == 0 || c.kind == 1) && q.1 / 2 ^ 52 == c.ctx)) }) }

/-- A command arrives at a die's block. -/
def invCommand (s : State) (d : Nat) (x : Word) : State :=
  let c : Inval := { kind := bits x 63 62, size := bits x 61 60, va := bits x 59 16 * 4096, ctx := bits x 11 0, upto := s.fresh }
  (invApply s c).updDie d fun k => { k with inval := k.inval ++ [c] }

/-- Whether what a command removes can have translated an address of a context: the 2 MiB around the command's address for
kind 0. -/
def mayTranslate (c : Inval) (ctx : Nat) (va : Word) : Bool :=
  match c.kind with
  | 0 => ctx == c.ctx && va.toNat / 2 ^ 21 == c.va / 2 ^ 21
  | 1 => ctx == c.ctx
  | 2 => true
  | _ => false

/-- The same of a request that carries no virtual address. -/
def mayConcern (c : Inval) (ctx : Nat) : Bool :=
  match c.kind with
  | 0 | 1 => ctx == c.ctx
  | 2 => true
  | _ => false

/-- Whether an access in flight, or the decrement of a task record, was translated with what a command removes. -/
def usedRemoved (c : Inval) (no : Nat) (t : Tx) : Bool :=
  no < c.upto
    && ((t.accs.any fun a => reached t a < 3 && mayTranslate c t.ctx a.va)
      || (t.tasks.any fun d => d.old.isNone && mayTranslate c t.ctx d.va))

/-- Whether a request on its way to a home slice was translated with what a command removes. -/
def msgUsesRemoved (s : State) (c : Inval) (no : Nat) (m : Msg) : Bool :=
  no < c.upto
    && (match m with
        | .register _ _ e | .attach _ _ _ _ e => mayConcern c e.ctx
        | .detach k _ _ _ _ _ => mayConcern c (s.wave k).ctx
        | .ctlWrite _ _ _ ctx => mayConcern c ctx
        | .queue => (match s.queues.find? no with | some q => mayTranslate c q.ctx q.va | none => false)
        | _ => false)

/-- INVALIDATION_COMPLETE (R59, R60): the oldest command of a die's block completes once every access translated with
a removed entry has been acknowledged at its home slice. With kind 2 the value last written to XL_CTXBASE takes effect
on every die. -/
def execInvalidationComplete (s : State) : Host.Outcome State Fault Refusal :=
  let name := "INVALIDATION_COMPLETE"
  let d := s.subj.a
  match (s.die d).inval with
  | [] => notNow name
  | c :: rest =>
    if (s.txs.any fun p => usedRemoved c p.1 p.2) || (s.msgs.any fun p => msgUsesRemoved s c p.1 p.2) then notNow name
    else
      let s := (invApply s c).updDie d fun x => { x with inval := rest }
      let s := if c.kind == 2 then
          (List.range 4).foldl (fun s k => s.updDie k fun x =>
            { x with ctxbase := x.regs.getD Off.xlCtxbase 0 }) s
        else s
      .next (s.updReg d Off.xlInvdone (s.reg d Off.xlInvdone + 1))

/-- A write of XL_CTXBASE (R60): at once while the value in effect has Enable 0, else at the next kind-2 command. -/
def ctxbaseWrite (s : State) (d : Nat) (x : Word) : State :=
  let x := BitVec.ofNat 64 (bits x 51 16 * 65536 + bits x 0 0)
  let s := s.setReg d Off.xlCtxbase x
  s.updDie d fun k => if bit k.ctxbase 0 then k else { k with ctxbase := x }

end Sys2Proof.Machine
end

