-- ==== Sys2Proof/Machine/Stores.lean ====
section
/-! DEFINITION. Stores to control registers (06_onchip_map.md R98, R99): a store of a wave or a unit that has come to
its register, which the event of the register applies. -/

namespace Sys2Proof.Machine

/-- Where a store to a control register comes from: an access of a wave, or a unit. -/
inductive CtlSrc
  | acc (no i : Nat)
  | msg (n : Nat)
deriving DecidableEq, Repr

/-- The stores of waves to a register that may be applied now: transaction, access, value and context. -/
def accStores (s : State) (d off : Nat) : List (CtlSrc × Word × Nat) :=
  s.txs.flatMap fun p =>
    if p.2.kind == .store && !p.2.held then
      p.2.accs.zipIdx.filterMap fun q =>
        if place q.1.pa == .ctl d off && reached p.2 q.1 < 3 && !behind s p.1 p.2 q.2 q.1 3 then
          some (CtlSrc.acc p.1 q.2, q.1.data, p.2.ctx)
        else none
    else []

/-- The stores of units to a register. -/
def msgStores (s : State) (d off : Nat) : List (CtlSrc × Word × Nat) :=
  s.msgs.filterMap fun p =>
    match p.2 with
    | .ctlWrite d' off' x ctx => if d' == d && off' == off then some (CtlSrc.msg p.1, x, ctx) else none
    | _ => none

/-- A store to a register that passes a test. -/
def ctlDue (s : State) (d off : Nat) (f : Word → Bool) : Option (CtlSrc × Word × Nat) :=
  List.find? (fun (q : CtlSrc × Word × Nat) => f q.2.1) (accStores s d off ++ msgStores s d off)

/-- A store has been applied, and is complete at every scope (R99). -/
def ctlDone (s : State) (c : CtlSrc) : State :=
  match c with
  | .acc no i => settleStore (setAcc s no i fun a => { a with stage := 3 }) no
  | .msg n => { s with msgs := s.msgs.del n }

/-- The event of a register: a store of a value is applied by the register's own effect. -/
def ctlEvent (name : String) (s : State) (d off : Nat) (f : Word → Bool) (effect : State → Word → Nat → State) :
    Host.Outcome State Fault Refusal :=
  match ctlDue s d off f with
  | some (c, x, ctx) => .next (ctlDone (effect s x ctx) c)
  | none => notNow name

/-- The bits of a word in the fields of a register, its reserved bits zero (R4): highest and lowest bit of each. -/
def fieldWord (x : Word) (fs : List (Nat × Nat)) : Word :=
  BitVec.ofNat 64 ((fs.map fun p => bits x p.1 p.2 * 2 ^ p.2).sum)

end Sys2Proof.Machine
end

