-- ==== Sys2Proof/Machine/Sequencer.lean ====
section
/-! DEFINITION. The trigger sequencer, HALT and the stall samples (20_debug_replay.md R394 to R402). -/

namespace Sys2Proof.Machine

/-! ### The page (R394) -/

def tsCtl : Nat := 0x5000
def tsState : Nat := 0x5008
def tsLast : Nat := 0x5010
def ssCtl : Nat := 0x5180
def ssCores : Nat := 0x5188
def mrCtl : Nat := 0x51C0

/-- Sampling on or off at the cores of a die: points are counted from the cycle in which a core sees EN and CAP both
set (R399). -/
def syncSampling (s : State) (d : Nat) : State :=
  let on := bit (s.reg d ssCtl) 63 && bit (s.reg d ssCtl) 62
  ((List.range 48).filter fun n => coreWorks d n && (s.core (coreNo d n)).sampleFrom.isSome != on).foldl (fun s n =>
    s.updCore (coreNo d n) fun c =>
      { c with sampleFrom := if on then some (s.now (coreNo d n)) else none,
               slices := c.slices.map fun x => { x with points := 0, slot := none } }) s

/-- One bit of SS_CTL and MR_CTL. -/
def capBit (s : State) (d n : Nat) (b : Bool) : State :=
  let one : Word := BitVec.ofNat 64 (2 ^ n)
  let put := fun (s : State) (off : Nat) => s.setReg d off (if b then s.reg d off ||| one else s.reg d off &&& ~~~one)
  syncSampling (put (put s ssCtl) mrCtl) d

/-! ### HALT (R398) -/

/-- A write of TS_CTL. -/
def tsCtlWrite (s : State) (d : Nat) (x : Word) : State := s.setReg d tsCtl (fieldWord x [(63, 63), (62, 62), (61, 61), (11, 0)])

/-- TS_HALT (R398): the waves of the context issue nothing on the die. -/
def execTsHalt (s : State) : Host.Outcome State Fault Refusal :=
  let d := s.subj.a
  ctlEvent "TS_HALT" s d tsCtl (fun x => bit x 61) fun s x _ => tsCtlWrite s d x

/-- TS_RELEASE (R398): every group goes on where it stopped. -/
def execTsRelease (s : State) : Host.Outcome State Fault Refusal :=
  let d := s.subj.a
  ctlEvent "TS_RELEASE" s d tsCtl (fun x => !bit x 61) fun s x _ => tsCtlWrite s d x

/-- TS_STATE_WRITE (R394): the state is set; armed and count are cleared. -/
def execTsStateWrite (s : State) : Host.Outcome State Fault Refusal :=
  let d := s.subj.a
  ctlEvent "TS_STATE_WRITE" s d tsState (fun x => x == s.subj.val) fun s x _ => s.updReg d tsState (fieldWord x [(63, 62)])

/-! ### A sequencer cycle (R395, R396) -/

/-- A counter that receives n occurrences: its new value, and how often it came to its limit (R395). -/
def countUp (cnt limit n : Nat) : Nat × Nat :=
  if limit == 0 || cnt ≥ limit then ((cnt + n) % 2 ^ 48, 0) else ((cnt + n) % limit, (cnt + n) / limit)

/-- Counter e of a die in a cycle with the given occurrences: it raises its event once for each time it is full. -/
def runCounter (s : State) (d e : Nat) (occ : Nat → Nat) : State :=
  let ctl := s.reg d (0x5148 + 16 * e)
  let (c, hits) := countUp (bits (s.reg d (0x5140 + 16 * e)) 47 0) (bits ctl 47 0) (occ (bits ctl 63 58))
  (List.range hits).foldl (fun s _ => s.note d (10 + e)) (s.setReg d (0x5140 + 16 * e) (BitVec.ofNat 64 c))

/-- The action of a state that fires (R396). -/
def fire (s : State) (d action : Nat) : State :=
  match action with
  | 1 => capBit s d 62 true
  | 2 => capBit s d 62 false
  | 3 => capBit s d 61 true
  | 4 => s.setReg d tsCtl (s.reg d tsCtl ||| BitVec.ofNat 64 (2 ^ 61))
  | _ => s

/-- The state machine of R396 in a cycle with the given occurrences. -/
def runStates (s : State) (d : Nat) (occ : Nat → Nat) : State :=
  if !bit (s.reg d tsCtl) 63 then s
  else
    let ts := s.reg d tsState
    let state := bits ts 63 62
    let armed := bit ts 61
    let cnt := bits ts 15 0
    let def_ := s.reg d (0x5020 + 8 * state)
    let n := bits def_ 15 0
    let a := occ (bits def_ 63 58)
    let b := occ (bits def_ 57 52)
    let put := fun (s : State) (state : Nat) (armed : Bool) (cnt : Nat) =>
      s.updReg d tsState (BitVec.ofNat 64 (state * 2 ^ 62 + armed.toNat * 2 ^ 61 + cnt))
    if !armed then if a > 0 then put s state true cnt else s
    else if b > 0 && n != 0 then
      let cnt := min (cnt + b) n
      if cnt == n then
        let action := bits def_ 51 49
        let done := min (bits (s.reg d tsLast) 31 0 + 1) (2 ^ 32 - 1)
        let s := (fire s d action).setReg d tsLast (BitVec.ofNat 64 (action * 2 ^ 61 + state * 2 ^ 59 + done))
        put s (bits def_ 48 47) false 0
      else put s state true cnt
    else s

/-- The occurrences that reach the sequencer in a cycle: of each event at most as many as are on their way; with no
numbers given, all of them. -/
def arriving (s : State) (d code : Nat) : Nat :=
  let n := (s.die d).events.getD code 0
  if s.subj.nums.isEmpty then n else min n ((s.subj.nums[code]?).getD 0)

/-- SEQUENCER_CYCLE (R395, R396): events that have arrived are counted, arm the state and may fire its action. -/
def execSequencerCycle (s : State) : Host.Outcome State Fault Refusal :=
  let d := s.subj.a
  if !s.dev.up || d ≥ 4 then notNow "SEQUENCER_CYCLE"
  else
    let occ := fun (code : Nat) => if code == 0 || code ≥ 24 then 0 else if code == 1 then 1 else arriving s d code
    let left := (s.die d).events.filterMap fun p => if p.2 ≤ occ p.1 then none else some (p.1, p.2 - occ p.1)
    let s := s.updDie d fun k => { k with events := left }
    .next (runStates ((List.range 4).foldl (fun s e => runCounter s d e occ) s) d occ)

/-! ### Stall samples (R399 to R402) -/

/-- Whether the word of a group cannot be had: its page walks, or its read fails. -/
def fetchWaits (s : State) (key : Nat) (w : Wave) (g : Mask) : Bool :=
  match lookIn (coreTlb s key) s (dieOf key) w.ctx (w.lane (lowest g)).pc .fetch with | .miss => true | _ => false

/-- Whether a commit round, a re-execution or the log holds a wave back (R406, R409, R410). -/
def roundHolds (s : State) (key : Nat) (w : Wave) : Bool :=
  w.quantum.ended || s.replay.struck.contains key || (recMode s w != 0 && s.logStalls (dieOf key) (recMode s w))

/-- The reasons of R401 that apply to a wave, none of whose groups can issue. -/
def reasonsOf (s : State) (key : Nat) (w : Wave) : List Nat :=
  let lanes := (lanesOf w.live).map fun l => (l, w.lane l)
  let of := fun (n : Nat) (l : Lane) =>
    match l.wait with
    | .held _ y => [y]
    | .walk => [if fetchWaits s key w (w.groupOf n) then 14 else if roundHolds s key w then 18 else 19]
    | .leash => [3]
    | .bar _ | .inRound => [4]
    | .rejoin _ => [5]
    | .reply _ | .suspend _ => [6]
    | .cross => [if w.xlc ≥ 15 then 7 else 11]
    | .mrdy _ => [13]
    | .yield => [16]
    | .none => []
  lanes.flatMap (fun p => of p.1 p.2)
    ++ (if lanes.all fun p => p.2.st == .parked then [12] else [])
    ++ (if w.groups.any (fun g => w.isHeld g) then [15] else [])
    ++ (if w.stopped || s.halts (dieOf key) w.ctx then [17] else [])

/-- Whether a group of a wave is ready as far as its last turn tells: it waits for nothing and nothing holds it. -/
def readyGroups (s : State) (key : Nat) (w : Wave) : List Mask :=
  if w.stopped || w.quantum.ended || s.halts (dieOf key) w.ctx then []
  else w.groups.filter fun g => !w.isHeld g && (lanesOf g).all fun l => (w.lane l).wait == .none

/-- The group that R373 takes first among some. -/
def firstGroup (gs : List Mask) : Option Mask :=
  gs.foldl (fun (b : Option Mask) g =>
    match b with
    | none => some g
    | some h => if popc h < popc g || (popc g == popc h && lowest g < lowest h) then some g else some h) none

/-- State, program counter and reason of a sampled wave in a slice cycle (R399, R401). -/
def sampleWave (s : State) (core sl slot : Nat) (w : Wave) : Nat × Word × Nat :=
  let key := waveNo core sl slot
  let x := ((s.core core).slices[sl]?).getD {}
  let cycle := match x.issuedAt with | some (t, pc) => if t == s.now core then some pc else none | none => none
  let mine := ((s.core core).last[sl]?).getD 32 == slot
  let stall :=
    let pc := match firstGroup w.groups with
      | some g => (w.lane (lowest g)).pc
      | none => (w.lane (lowest w.live)).pc
    (2, pc, ((reasonsOf s key w).foldl min 19))
  match cycle, mine with
  | some pc, true => (0, pc, 0)
  | some _, false =>
    match firstGroup (readyGroups s key w) with
    | some g => (1, (w.lane (lowest g)).pc, 0)
    | none => stall
  | none, _ => stall

/-- The 32 bytes of a stall sample (R400). -/
def stallRecord (s : State) (core sl slot dropped : Nat) (w : Wave) : List Byte :=
  let (state, pc, reason) := sampleWave s core sl slot w
  let ratio := ((s.core core).ratio[sl]?).getD 0
  [reason * 2 ^ 56 + bits pc 55 0, w.seq.toNat * 2 ^ 32 + dropped * 2 ^ 16 + state * 2 ^ 14 + ratio * 2 ^ 12 + w.ctx,
    (standing (waveNo core sl slot) w).toNat, s.now core].flatMap fun v => bytesOf v 8

/-- The next occupied wave slot of a slice after one, cyclically; the lowest to begin with. -/
def nextSlot (s : State) (core sl : Nat) (after : Option Nat) : Option Nat :=
  let first := match after with | some n => n + 1 | none => 0
  ((List.range 32).map fun i => (first + i) % 32).find? fun slot => (s.wave? (waveNo core sl slot)).isSome

/-- STALL_SAMPLE (R399 to R402): a slice comes to its next sample point. -/
def execStallSample (s : State) : Host.Outcome State Fault Refusal :=
  let name := "STALL_SAMPLE"
  let core := s.subj.a
  let sl := s.subj.b
  let d := dieOfCore core
  let ctl := s.reg d ssCtl
  let p := bits ctl 19 0
  let x := ((s.core core).slices[sl]?).getD {}
  match (s.core core).sampleFrom with
  | none => notNow name
  | some t0 =>
    if s.dev != .running || sl ≥ 6 || !coreOn s core || !bit ctl 63 || !bit ctl 62 || p < 16 || !bit (s.reg d ssCores) (core % 64)
        || s.now core < t0 + (x.points + 1) * p then notNow name
    else
      let put := fun (s : State) (f : SliceSt → SliceSt) =>
        s.updCore core fun c => { c with slices := c.slices.modify sl fun x => f { x with points := x.points + 1 } }
      match nextSlot s core sl x.slot with
      | none => .next (put s id)
      | some slot =>
        let w := s.wave (waveNo core sl slot)
        let (t, ok) := s.ringPut d 0x5190 ssCtl 5 15 (stallRecord s core sl slot x.dropped w)
        .next (put t fun x => { x with slot := some slot, dropped := if ok then 0 else min (x.dropped + 1) 0xFFFF })

end Sys2Proof.Machine
end

