-- ==== Sys2Proof/Machine/CtlWrites.lean ====
section
/-! DEFINITION. Stores to control registers and to core windows as their targets apply them (06_onchip_map.md R97 to
R101): the commands and bases of the translation, Leash and memory status blocks (R43, R58, R60, R80), RP_CTL (R405),
and every register that has no behaviour of its own. -/

namespace Sys2Proof.Machine

/-! ### Translation (R46, R58, R60) -/

/-- XL_CTXBASE_WRITE (R46, R60). -/
def execXlCtxbaseWrite (s : State) : Host.Outcome State Fault Refusal :=
  let d := s.subj.a
  ctlEvent "XL_CTXBASE_WRITE" s d Off.xlCtxbase (fun x => x == s.subj.val) fun s x ctx => if ctx == 0 then ctxbaseWrite s d x else s

/-- A command written to XL_INVCMD; a die's block holds 16 at most, and a store of another waits (R58). -/
def invEvent (name : String) (s : State) (f : Word → Bool) : Host.Outcome State Fault Refusal :=
  let d := s.subj.a
  if (s.die d).inval.length ≥ 16 then notNow name
  else ctlEvent name s d Off.xlInvcmd f fun s x ctx => if ctx == 0 then invCommand s d x else s

/-- INV_PAGE (R58). -/
def execInvPage (s : State) : Host.Outcome State Fault Refusal :=
  invEvent "INV_PAGE" s fun x => bits x 63 62 == 0 && bits x 11 0 == s.subj.b && bits x 59 16 == bits s.subj.val 55 12
/-- INV_CONTEXT (R58). -/
def execInvContext (s : State) : Host.Outcome State Fault Refusal :=
  invEvent "INV_CONTEXT" s fun x => bits x 63 62 == 1 && bits x 11 0 == s.subj.b
/-- INV_ALL (R58). -/
def execInvAll (s : State) : Host.Outcome State Fault Refusal := invEvent "INV_ALL" s fun x => bits x 63 62 == 2
/-- INV_NONE (R58). -/
def execInvNone (s : State) : Host.Outcome State Fault Refusal := invEvent "INV_NONE" s fun x => bits x 63 62 == 3

/-! ### The Leash and memory status (R43, R80) -/

/-- LS_PURGE (R80). -/
def execLsPurge (s : State) : Host.Outcome State Fault Refusal :=
  ctlEvent "LS_PURGE" s s.subj.a Off.lsPurge (fun x => bits x 11 0 == s.subj.b) fun s x _ => purge s (bits x 11 0)

/-- LS_SPILLBASE_WRITE (R80). -/
def execLsSpillbaseWrite (s : State) : Host.Outcome State Fault Refusal :=
  let d := s.subj.a
  ctlEvent "LS_SPILLBASE_WRITE" s d Off.lsSpillbase (fun x => x == s.subj.val) fun s x _ => spillbaseWrite s d x

/-- MS_ELOG_CLEAR (R43). -/
def execMsElogClear (s : State) : Host.Outcome State Fault Refusal :=
  let d := s.subj.a
  ctlEvent "MS_ELOG_CLEAR" s d Off.msElog (fun x => x == 0) fun s _ _ => s.updReg d Off.msElog 0

/-! ### The replay recorder (R405) -/

/-- A write of RP_CTL: ignored while a launch is recorded or replayed; mode 1 or 2 arms the recorder. -/
def rpCtlWrite (s : State) (d : Nat) (x : Word) : State :=
  if bits (s.reg d 0x6038) 63 56 == 2 then s
  else
    let armed := bits x 63 62 == 1 || bits x 63 62 == 2
    (s.setReg d 0x6000 (fieldWord x [(63, 62), (47, 42), (41, 32), (19, 16), (11, 0)])).setReg d 0x6038
      (BitVec.ofNat 64 (armed.toNat * 2 ^ 56))

/-- RP_CTL_WRITE (R405). -/
def execRpCtlWrite (s : State) : Host.Outcome State Fault Refusal :=
  let d := s.subj.a
  ctlEvent "RP_CTL_WRITE" s d 0x6000 (fun x => x == s.subj.val) fun s x _ => rpCtlWrite s d x

/-! ### Registers without a behaviour of their own (R98, R99) -/

/-- Whether an event of its own applies a value written to a register. -/
def ownEvent (off : Nat) (x : Word) : Bool :=
  if off == Off.msElog then x == 0
  else if off == Off.xlFresolve then bits x 63 62 == 1 || bits x 63 62 == 2
  else if off == Off.trAct then 1 ≤ bits x 63 61 && bits x 63 61 ≤ 3
  else if off == Off.trPreq then bits x 2 0 ≤ 4
  else [Off.xlCtxbase, Off.xlInvcmd, Off.lsSpillbase, Off.lsPurge, Off.trBase, tsCtl, tsState, 0x6000].contains off
    || (0x4000 ≤ off && off < 0x4060)

/-- The fields of the plain registers that software writes, as highest and lowest bits (R55, R60, R381, R394, R405,
R413); none for a register that is read only, reserved or not defined. -/
def plainFields (off : Nat) : Option (List (Nat × Nat)) :=
  if off == Off.xlFqbase then some [(51, 12), (3, 0)]
  else if [Off.xlFqhead, Off.trHead, 0x51A0, 0x51E0, 0x6018].contains off then some [(31, 0)]
  else if 0x4120 ≤ off && off < 0x4180 then some [(17, 16), (15, 0)]
  else if off == 0x41E8 then some [(15, 0)]
  else if 0x5020 ≤ off && off < 0x5040 then some [(63, 58), (57, 52), (51, 49), (48, 47), (15, 0)]
  else if 0x5040 ≤ off && off < 0x5140 then
    (match off % 32 with | 0 | 8 => some [(55, 0)] | 16 => some [(63, 63), (62, 62), (61, 60)] | _ => none)
  else if 0x5140 ≤ off && off < 0x5180 then some (if off % 16 == 0 then [(47, 0)] else [(63, 58), (47, 0)])
  else if off == ssCtl then some [(63, 63), (62, 62), (61, 61), (19, 0)]
  else if off == ssCores || off == 0x51C8 then some [(47, 0)]
  else if off == mrCtl then some [(63, 61), (4, 0)]
  else if off == 0x5190 || off == 0x51D0 || off == 0x6008 then some [(51, 12), (4, 0)]
  else if off == 0x6020 then some [(51, 16)]
  else none

/-- Whether a value gives a field a number outside its range, so that the store is ignored whole (R99). -/
def outOfRange (off : Nat) (x : Word) : Bool :=
  if off == Off.xlFqbase then bits x 3 0 > 8
  else if off == 0x5190 || off == 0x51D0 then bits x 4 0 > 16
  else if off == 0x6008 then bits x 4 0 > 20
  else false

/-- A plain register as a store of a context leaves it. A cluster without a power cap has a grant budget of 4 (R416). -/
def plainWrite (s : State) (d off : Nat) (x : Word) (ctx : Nat) : State :=
  match plainFields off with
  | none => s
  | some fs =>
    if outOfRange off x || ((off == Off.xlFqbase || off == Off.xlFqhead) && ctx != 0) then s
    else
      let s := s.updReg d off (fieldWord x fs)
      if off == ssCtl then syncSampling s d
      else if 0x4120 ≤ off && off < 0x4180 && bits x 15 0 == 0 then setGrant s d ((off - 0x4120) / 8) 4
      else s

/-- REGISTER_WRITE (R99). -/
def execRegisterWrite (s : State) : Host.Outcome State Fault Refusal :=
  let d := s.subj.a
  let off := s.subj.b
  if ownEvent off s.subj.val then notNow "REGISTER_WRITE"
  else ctlEvent "REGISTER_WRITE" s d off (fun x => x == s.subj.val) fun s x ctx => plainWrite s d off x ctx

/-! ### Core windows (R97, R101) -/

/-- WINDOW_ACCESS (R101): a load or store of a wave is applied at the core that owns the window, once its cluster is
powered. -/
def execWindowAccess (s : State) : Host.Outcome State Fault Refusal :=
  let name := "WINDOW_ACCESS"
  let no := s.subj.a
  let i := s.subj.b
  match accAt s no i with
  | none => notNow name
  | some (t, a) =>
    match place a.pa with
    | .win core o =>
      let load := t.kind == .load
      if t.held || a.old.isSome || (!load && t.kind != .store) || reached t a ≥ 3 || behind s no t i a 3 then notNow name
      else
        match winGate s a.pa with
        | (t', false) => if t' == s then notNow name else .next t'
        | (s, true) =>
          if load then .next (setAcc s no i fun a => { a with old := some (BitVec.ofNat 64 (winRead s core o a.n)) })
          else .next (settleStore (setAcc (winWrite s core o (bytesOf a.data.toNat a.n)) no i fun a => { a with stage := 3 }) no)
    | _ => notNow name

end Sys2Proof.Machine
end

