-- ==== Sys2Proof/Machine/Kernels.lean ====
section
/-! DEFINITION. Kernel objects (10_encoding.md R177 to R181, 01_device.md R19, R20): the kernel header and its tables as
they are read, and the checks of the loader. -/

namespace Sys2Proof.Machine

/-! ### The header (R177) -/

/-- A table of an object: offset and number of records. -/
abbrev Tab := Nat × Nat

def tabOf (x : Word) : Tab := (bits x 63 32, bits x 31 0)

/-- The header of an object as it is laid out. -/
structure Head where
  words : List Word
deriving DecidableEq, Repr

namespace Head

def w (h : Head) (i : Nat) : Word := wordAt h.words i
def tag (h : Head) : Word := BitVec.ofNat 64 (bits (h.w 0) 63 32)
def entry (h : Head) : Nat := bits (h.w 1) 63 32
def clen (h : Head) : Nat := bits (h.w 1) 31 0
def width (h : Head) : Nat := match bits (h.w 2) 63 62 with | 0 => 16 | 1 => 32 | 2 => 64 | _ => 0
def team (h : Head) : Nat := bits (h.w 2) 61 49
def nv (h : Head) : Nat := bits (h.w 2) 48 40
def ns (h : Head) : Nat := bits (h.w 2) 39 31
def kennel (h : Head) : Nat := bits (h.w 3) 63 52
def acc (h : Head) : Nat := bits (h.w 3) 51 45
def scr (h : Head) : Nat := bits (h.w 3) 44 31
def tbmask (h : Head) : Word := h.w 4
def tbtab (h : Head) : Tab := tabOf (h.w 5)
def sptab (h : Head) : Tab := tabOf (h.w 6)
def tntab (h : Head) : Tab := tabOf (h.w 7)
def data (h : Head) : Tab := tabOf (h.w 8)

/-- The parts of an object besides its header: code, tables and data segment, as offset and bytes. -/
def spans (h : Head) : List (Nat × Nat) :=
  [(0x80, h.clen), (h.tbtab.1, 8 * h.tbtab.2), (h.sptab.1, 16 * h.sptab.2), (h.tntab.1, 72 * h.tntab.2), h.data]

/-- How far an object extends from its header (R181). -/
def extent (h : Head) : Nat := h.spans.foldl (fun m p => if p.2 == 0 then m else max m (p.1 + p.2)) 0x80

end Head

/-- Whether the device accepts an object's tag (R20). -/
def tagOk (h : Head) : Bool :=
  let dev : Word := Config.tag.zeroExtend 64
  bits h.tag 31 24 == bits dev 31 24 && bits h.tag 23 16 == bits dev 23 16 && bits h.tag 15 8 ≤ bits dev 15 8
    && bits h.tag 7 0 == 0

/-- Two spans of bytes that have one in common. -/
def spansMeet (p q : Nat × Nat) : Bool := p.2 != 0 && q.2 != 0 && p.1 < q.1 + q.2 && q.1 < p.1 + p.2

/-- No two spans of a list meet. -/
def apart : List (Nat × Nat) → Bool
  | [] => true
  | p :: ps => !(ps.any (spansMeet p)) && apart ps

/-- Whether every field of the header is in its range, V, S and the width keep R157, and the parts of the object lie
apart (R181). -/
def headOk (h : Head) : Bool :=
  bits (h.w 0) 31 16 == 1 && bits (h.w 0) 15 0 == 0x80 && h.entry % 8 == 0 && h.width != 0
    && 1 ≤ h.team && h.team ≤ 6144 && h.nv % 8 == 0 && 8 ≤ h.nv && h.nv ≤ 320 && h.ns % 16 == 0 && 16 ≤ h.ns && h.ns ≤ 256
    && bits (h.w 2) 26 0 == 0 && h.kennel ≤ 2048 && h.acc ≤ 64 && h.scr ≤ 12288 && bits (h.w 3) 30 0 == 0
    && ((h.words.drop 9).all fun x => x == 0)
    && h.tbtab.2 == popc h.tbmask && h.sptab.2 ≤ 65536
    && ([h.tbtab, h.sptab, h.tntab].all fun t => t.2 == 0 || t.1 % 8 == 0)
    && apart ((0, 0x80) :: h.spans)

/-! ### The tables (R178 to R181) -/

/-- A 64-bit word of an object. -/
def objWord (bs : List Byte) (off : Nat) : Word := BitVec.ofNat 64 (ofBytes ((bs.drop off).take 8))
def objWords (bs : List Byte) (off n : Nat) : List Word := (List.range n).map fun i => objWord bs (off + 8 * i)

/-- Strictly ascending numbers. -/
def rising : List Nat → Bool
  | a :: b :: r => a < b && rising (b :: r)
  | _ => true

def noRepeat (xs : List Nat) : Bool := xs.eraseDups.length == xs.length

/-- Tile binding records: tb, screen bit and tid. -/
def bindings (h : Head) (bs : List Byte) : List (Nat × Bool × Nat) :=
  (objWords bs h.tbtab.1 h.tbtab.2).map fun x => (bits x 55 50, bit x 49, bits x 47 40)

def bindingsOk (h : Head) (bs : List Byte) : Bool :=
  let xs := objWords bs h.tbtab.1 h.tbtab.2
  (xs.all fun x => bits x 63 56 == 0 && !bit x 48 && bits x 39 0 == 0)
    && xs.map (fun x => bits x 55 50) == (List.range 64).filter fun n => bit h.tbmask n

/-- Whether an offset names a clause header inside the code. -/
def namesHeader (h : Head) (bs : List Byte) (off : Nat) : Bool :=
  off % 8 == 0 && 0x80 ≤ off && off + 8 ≤ 0x80 + h.clen && bits (objWord bs off) 63 62 == 3

/-- Safe-point records: safe point, save routine, restore routine and save area bytes. -/
def safePoints (h : Head) (bs : List Byte) : List (Nat × Nat × Nat × Nat) :=
  (List.range h.sptab.2).map fun i =>
    let a := objWord bs (h.sptab.1 + 16 * i)
    let b := objWord bs (h.sptab.1 + 16 * i + 8)
    (bits a 31 0, bits a 63 32, bits b 31 0, bits b 63 32)

def safePointsOk (h : Head) (bs : List Byte) : Bool :=
  let ps := safePoints h bs
  rising (ps.map fun p => p.1)
    && ps.all fun p => p.2.2.2 % 32 == 0 && namesHeader h bs p.1 && namesHeader h bs p.2.1 && namesHeader h bs p.2.2.1
      && bit (objWord bs p.1) 37

/-- Tensor set-up records: tid and the entry image, relocated (R180). -/
def images (va : Nat) (h : Head) (bs : List Byte) : List (Nat × List Word) :=
  (List.range h.tntab.2).map fun i =>
    let off := h.tntab.1 + 72 * i
    let x := objWord bs off
    let ws := objWords bs (off + 8) 8
    let data : Word := BitVec.ofNat 64 (va + h.data.1)
    (bits x 7 0,
      if bit x 8 then ws.zipIdx.map fun p => if p.2 == 1 || p.2 == 6 || p.2 == 7 then p.1 + data else p.1 else ws)

/-- A legal tile-only entry (R130, R132): nothing but shape and format. -/
def tileOnlyOk (ws : List Word) : Bool :=
  let e := tent ws
  !e.illegal && e.tileOnly && ((ws.drop 1).all fun x => x == 0)

def imagesOk (va : Nat) (h : Head) (bs : List Byte) : Bool :=
  let xs := images va h bs
  ((List.range h.tntab.2).all fun i => bits (objWord bs (h.tntab.1 + 72 * i)) 63 9 == 0)
    && noRepeat (xs.map Prod.fst) && (xs.all fun p => !(tent p.2).illegal)
    && (bindings h bs).all fun b => (xs.filter fun p => p.1 == b.2.2).all fun p => tileOnlyOk p.2

/-- The checks of R181 on an object whose extent has been read. -/
def objectOk (va : Nat) (h : Head) (bs : List Byte) : Bool :=
  headOk h && namesHeader h bs h.entry && bindingsOk h bs && safePointsOk h bs && imagesOk va h bs

/-- An object as the launch keeps it. -/
def kernelOf (va : Nat) (h : Head) (bs : List Byte) : Kernel :=
  { va, entry := h.entry, clen := h.clen, width := h.width, team := h.team, nv := h.nv, ns := h.ns,
    ratio := BitVec.ofNat 2 (bits (h.w 2) 30 29), skc := bit (h.w 2) 28, fz := bit (h.w 2) 27, kennel := h.kennel,
    acc := h.acc, scr := h.scr, tiles := bindings h bs, safe := safePoints h bs }

/-- Waves of a team (R18). -/
def Kernel.waves (k : Kernel) : Nat := (k.team + k.width - 1) / k.width
/-- Whether a team needs a core pair (R17). -/
def Kernel.pair (k : Kernel) : Bool := k.waves * k.width > 3072

/-! ### Reading an object -/

/-- The header of an object. -/
def readHead (s : State) (d ctx va : Nat) : State × Except EErr Head :=
  match unitRead s d ctx va 0x80 with
  | (s, .ok bs) => (s, .ok { words := wordsOf bs })
  | (s, .error e) => (s, .error e)

/-- The headers of several objects, read in order. -/
def readHeads (s : State) (d ctx : Nat) : List Nat → State × Except EErr (List (Nat × Head))
  | [] => (s, .ok [])
  | va :: rest =>
    match readHead s d ctx va with
    | (s, .error e) => (s, .error e)
    | (s, .ok h) =>
      match readHeads s d ctx rest with
      | (s, .ok hs) => (s, .ok ((va, h) :: hs))
      | (s, .error e) => (s, .error e)

/-- What reading a list of objects whole comes to. -/
inductive Objects
  | fail (e : EErr)
  | illegal
  | ok (ks : List (Kernel × List (Nat × List Word)))

/-- Objects read whole and checked (R181): their kernels and tensor images. -/
def readObjects (s : State) (d ctx : Nat) : List (Nat × Head) → State × Objects
  | [] => (s, .ok [])
  | (va, h) :: rest =>
    if !headOk h then (s, .illegal)
    else
      match unitRead s d ctx va h.extent with
      | (s, .error e) => (s, .fail e)
      | (s, .ok bs) =>
        if !objectOk va h bs then (s, .illegal)
        else
          match readObjects s d ctx rest with
          | (s, .ok ks) => (s, .ok ((kernelOf va h bs, images va h bs) :: ks))
          | r => r

end Sys2Proof.Machine
end

