-- ==== Sys2Proof/Machine/Placing.lean ====
section
/-! DEFINITION. Where a team or a formed wave goes (18_scheduling.md R358 to R362, R369; 06_onchip_map.md R102, R103;
09_registers.md R154, R157), and what it starts as (R115, R120, R149, R359). -/

namespace Sys2Proof.Machine

/-! ### What a core has free -/

/-- What the waves of a slice hold: wave slots, rows and scalar entries (first and number), and lanes. -/
structure SliceOcc where
  slots : List Nat := []
  rows : List (Nat × Nat) := []
  ents : List (Nat × Nat) := []
  lanes : Nat := 0
deriving DecidableEq, Repr

/-- What the teams of a core hold: team slots, its kennel, pinned lines and accumulator bytes (first and number), and
bound tiles. -/
structure CoreOcc where
  teams : Nat := 0
  kennel : Bool := false
  pins : List (Nat × Nat) := []
  accs : List (Nat × Nat) := []
  tbs : List Nat := []
  slices : List SliceOcc := List.replicate 6 {}
deriving DecidableEq, Repr

/-- What the waves of a slice hold now. -/
def sliceOcc (s : State) (core sl : Nat) : SliceOcc :=
  let ws := s.waves.filter fun p => p.1 / 32 == 8 * core + sl && !isCtl p.1
  { slots := ws.map fun p => slotOf p.1, rows := ws.map fun p => (p.2.row, rowsHeld p.2.width p.2.nv),
    ents := ws.map fun p => (p.2.entry, p.2.ns), lanes := (ws.map fun p => p.2.width).sum }

/-- What the teams and waves of a core hold now. -/
def coreOcc (s : State) (core : Nat) : CoreOcc :=
  let ts := s.teams.vals.filter fun t => t.core == core || (t.pair && t.core + 1 == core)
  let lead := ts.filter fun t => t.core == core
  { teams := (ts.filter fun t => t.slot).length, kennel := ts.any fun t => t.kslots != 0, pins := pinsOf s core,
    accs := ts.map fun t => (t.accBase, t.accSize), tbs := lead.flatMap fun t => t.tiles.map Tile.tb,
    slices := (List.range 6).map (sliceOcc s core) }

/-- The cores of a die as they stand. -/
def dieOcc (s : State) (d : Nat) : Map CoreOcc := (List.range 48).map fun n => (coreNo d n, coreOcc s (coreNo d n))

/-! ### Finding room -/

/-- Whether a range of n from a meets a list of ranges. -/
def meets (a n : Nat) (rs : List (Nat × Nat)) : Bool := rs.any fun r => r.2 != 0 && a < r.1 + r.2 && r.1 < a + n

/-- The lowest multiple of a granule at which n of a total are free. -/
def lowestFree (total granule n : Nat) (rs : List (Nat × Nat)) : Option Nat :=
  ((List.range (total / granule)).map (granule * ·)).find? fun a => decide (a + n ≤ total) && !meets a n rs

/-- The ways that ranges pin, by set. -/
def setWays (rs : List (Nat × Nat)) : List Nat :=
  (List.range 1024).map fun j => (rs.map fun r => waysOf r.1 r.2 j).sum

/-- The lowest line from which n lines overlap no pinned range and leave every set at most ten pinned ways (R103). -/
def pinAt (rs : List (Nat × Nat)) (n : Nat) : Option Nat :=
  if n == 0 then some 0
  else
    let ways := setWays rs
    (List.range (12288 - min n 12288 + 1)).find? fun a =>
      decide (a + n ≤ 12288) && !meets a n rs && ways.zipIdx.all fun p => decide (p.1 + waysOf a n p.2 ≤ 10)

/-- A pinned range added to a core. -/
def pinOn (c : CoreOcc) (n : Nat) : Option (Nat × CoreOcc) :=
  (pinAt c.pins n).map fun a => (a, { c with pins := c.pins ++ [(a, n)] })

/-- Where a wave stands: its core, slice and wave slot, base row and base entry. -/
structure Spot where
  core : Nat
  slice : Nat
  slot : Nat
  row : Nat
  entry : Nat
deriving DecidableEq, Repr

def rowGranule (width : Nat) : Nat := width / 4

/-- A wave placed in a slice: the lowest free wave slot, rows and entries, and at most 512 lanes (R157, R358, R359). -/
def spotIn (c : CoreOcc) (core sl : Nat) (k : Kernel) : Option (Spot × CoreOcc) := do
  let x ← c.slices[sl]?
  let slot ← (List.range 32).find? fun n => !x.slots.contains n
  let rows := rowsHeld k.width k.nv
  let row ← lowestFree 1024 (rowGranule k.width) rows x.rows
  let entry ← lowestFree 4096 16 k.ns x.ents
  let y : SliceOcc :=
    { slots := slot :: x.slots, rows := (row, rows) :: x.rows, ents := (entry, k.ns) :: x.ents, lanes := x.lanes + k.width }
  if y.lanes ≤ 512 then some ({ core, slice := sl, slot, row, entry }, { c with slices := c.slices.set sl y }) else none

/-! ### A team's place (R358, R359) -/

/-- Where the parts of a team go. -/
structure Plan where
  core : Nat
  pair : Bool
  scratch : Nat × Nat
  kennel : Nat × Nat
  kennel2 : Nat × Nat
  /-- tile and its range of lines -/
  tiles : List (Nat × Nat × Nat)
  acc : Nat
  spots : List Spot
deriving DecidableEq, Repr

/-- The tiles of a launch's kernel with their lengths in lines, from its copies of their entries (R107, R134, R356). -/
def tileLens (k : Kernel) (tiles : List Tile) : List (Nat × Nat) :=
  k.tiles.map fun b =>
    (b.1, match tiles.find? fun t => t.tb == b.1 with | some t => (tent t.entry).lines b.2.1 | none => 0)

/-- Each tile pinned in ascending tb order. -/
def pinTiles (c : CoreOcc) : List (Nat × Nat) → Option (List (Nat × Nat × Nat) × CoreOcc)
  | [] => some ([], c)
  | (tb, n) :: rest => do
    let (a, c) ← pinOn c n
    let (xs, c) ← pinTiles c rest
    some ((tb, a, n) :: xs, c)

/-- The core and slice of wave i of n (R359). -/
def dealt (core : Nat) (pair : Bool) (n i : Nat) : Nat × Nat :=
  let half := (n + 1) / 2
  if pair && half ≤ i then (core + 1, (i - half) % 6) else (core, i % 6)

/-- Spots for waves i to n − 1. -/
def spotsFrom (occ : Map CoreOcc) (core : Nat) (pair : Bool) (k : Kernel) (n i : Nat) :
    Nat → Option (List Spot × Map CoreOcc)
  | 0 => some ([], occ)
  | fuel + 1 => do
    let (c, sl) := dealt core pair n i
    let (x, o) ← spotIn (occ.getD c {}) c sl k
    let (xs, occ) ← spotsFrom (occ.set c o) core pair k n (i + 1) fuel
    some (x :: xs, occ)

/-- The accumulator area: one offset on every core of the team (R154). -/
def areaAt (cs : List CoreOcc) (size : Nat) : Option Nat :=
  if size == 0 then some 0 else lowestFree 0x40000 4096 size (cs.flatMap CoreOcc.accs)

/-- A team of n waves on a core, or on the pair that begins with it; none where a condition of R358 fails. -/
def planOn (occ : Map CoreOcc) (core : Nat) (pair : Bool) (k : Kernel) (lens : List (Nat × Nat)) (n : Nat) :
    Option (Plan × Map CoreOcc) := do
  let a := occ.getD core {}
  let b := occ.getD (core + 1) {}
  let cs := if pair then [a, b] else [a]
  if cs.any (fun c => decide (c.teams ≥ 16) || (k.kennel != 0 && c.kennel)) || lens.any (fun t => a.tbs.contains t.1) then none
  else
    let kl := (192 * k.kennel + 127) / 128
    let (s0, a) ← pinOn a k.scr
    let (k0, a) ← pinOn a kl
    let (ts, a) ← pinTiles a lens
    let (k1, b) ← if pair then pinOn b kl else some (0, b)
    let acc ← areaAt cs (4096 * k.acc)
    let own := fun (c : CoreOcc) =>
      { c with teams := c.teams + 1, kennel := c.kennel || k.kennel != 0, accs := (acc, 4096 * k.acc) :: c.accs }
    let a := { own a with tbs := a.tbs ++ lens.map Prod.fst }
    let occ := occ.set core a
    let occ := if pair then occ.set (core + 1) (own b) else occ
    let (spots, occ) ← spotsFrom occ core pair k n 0 n
    some ({ core, pair, scratch := (s0, k.scr), kennel := (k0, kl), kennel2 := if pair then (k1, kl) else (0, 0),
            tiles := ts, acc, spots }, occ)

/-- The first core of a list on which a team can be placed. -/
def planFirst (occ : Map CoreOcc) (pair : Bool) (k : Kernel) (lens : List (Nat × Nat)) (n : Nat) :
    List Nat → Option (Plan × Map CoreOcc)
  | [] => none
  | c :: cs => match planOn occ c pair k lens n with | some p => some p | none => planFirst occ pair k lens n cs

/-- The cores of a die on which a team may begin: those that work, or pairs both of which do (R24, R358). -/
def homesOf (d : Nat) (pair : Bool) : List Nat :=
  ((List.range 48).filter fun n =>
    if pair then n % 2 == 0 && coreWorks d n && coreWorks d (n + 1) else coreWorks d n).map (coreNo d)

/-- The place of a team on a die: the lowest core or pair that can take it (R359). -/
def planDie (occ : Map CoreOcc) (d : Nat) (pair : Bool) (k : Kernel) (lens : List (Nat × Nat)) (n : Nat) :
    Option (Plan × Map CoreOcc) := planFirst occ pair k lens n (homesOf d pair)

/-- Places for several teams at once on a die (R361). -/
def planMany (occ : Map CoreOcc) (d : Nat) (k : Kernel) (lens : List (Nat × Nat)) : Nat → Option (List Plan)
  | 0 => some []
  | n + 1 => do
    let (p, occ) ← planDie occ d k.pair k lens k.waves
    let ps ← planMany occ d k lens n
    some (p :: ps)

/-! ### Dealing (R360) -/

/-- The dies of a launch, ascending. -/
def diesOf (x : Launch) : List Nat := (List.range 4).filter fun d => x.dmask.getLsbD d
/-- The share of a die: the position of the die among them, and how many teams it is dealt. -/
def shareOf (x : Launch) (d : Nat) : Option (Nat × Nat) :=
  let ds := diesOf x
  let i := ds.idxOf d
  if i < ds.length then some (i, (x.nteams + ds.length - 1 - i) / ds.length) else none
/-- The j-th team of a die's share. -/
def teamOf (x : Launch) (d j : Nat) : Nat := (diesOf x).idxOf d + j * (diesOf x).length

/-- Whether a launch fits an otherwise idle module (R362). -/
def fits (x : Launch) : Bool :=
  let lens := tileLens x.kernel x.tiles
  (diesOf x).all fun d =>
    match shareOf x d with
    | some (_, n) => (planMany [] d x.kernel lens (if x.co then n else min n 1)).isSome
    | none => true

/-! ### What starts (R115, R120, R149, R359) -/

/-- The multiplier of R120. -/
def seedStep : Word := 0x9E3779B97F4A7C15

/-- SRSEED of a wave of a team, and of a formed wave. -/
def seedTeam (seed : Word) (team waves idx : Nat) : Word := seed ^^^ (BitVec.ofNat 64 (team * waves + idx) * seedStep)
def seedFormed (seed pc : Word) : Word := seed ^^^ (pc * seedStep) ^^^ 0x8000000000000000

/-- What distinguishes a new wave from another of its kernel. -/
structure Birth where
  kind : WKind
  launch : Nat
  team : Nat
  teamNo : Word
  waveId : Nat
  teamSize : Nat
  pc : Word
  live : Mask
  seed : Word
deriving DecidableEq, Repr

/-- A wave created at a spot (R359): registers hold undefined values, predicates, flags and counters are zero. What a
window write left in its rows and entries is gone (R101). -/
def createWave (s : State) (k : Kernel) (b : Birth) (p : Spot) : State :=
  let x := s.launch b.launch
  let lane := fun (i : Nat) => ({ pc := b.pc, st := if b.live.getLsbD i then .active else .exited } : Lane)
  let w : Wave :=
    { kind := b.kind, serial := s.serial + 1, launch := b.launch, team := b.team, teamNo := b.teamNo, waveId := b.waveId,
      teamSize := b.teamSize, ctx := x.ctx, kernel := k.va, width := k.width, nv := k.nv, ns := k.ns, row := p.row,
      entry := p.entry, lanes := (List.range k.width).map lane,
      fpctl := BitVec.ofNat 64 (k.fz.toNat + 2 * k.skc.toNat), srseed := b.seed, ratio := k.ratio }
  let rows := 0x40000 * p.slice + 256 * p.row
  let ents := 0x1000000 + 0x8000 * p.slice + 8 * p.entry
  let s := s.updCore p.core fun c =>
    { c with raw := dropBytes (dropBytes c.raw rows (256 * rowsHeld k.width k.nv)) ents (8 * k.ns) }
  let key := waveNo p.core p.slice p.slot
  let s := { s.setWave key w with serial := s.serial + 1 }
  if x.rec_ == 0 then s else beginQuantum s key {}

/-- A kennel at placement: every slot FREE, the engine running (R103, R279). -/
def freshKennel (s : State) (core slots : Nat) : State :=
  if slots == 0 then s
  else
    let s := updBeam s core fun _ => {}
    (List.range slots).foldl (fun s n =>
      let a := slotBase s core n + 7
      sramWrite s core a [sramByte s core a &&& 0x3F]) s

/-- A tile at placement: EMPTY, gen 0 (R103, R104). -/
def freshTile (s : State) (core : Nat) (k : Kernel) (t : Nat × Nat × Nat) : State :=
  match k.tiles.find? fun b => b.1 == t.1 with
  | some b => setTile s core t.1 { st := .empty, scr := b.2.1, err := false, tid := b.2.2, base := t.2.1, lines := t.2.2, gen := 0 }
  | none => s

/-- A team placed as planned: its record, its ranges with undefined contents, and its waves, given by index, live lanes
and start. -/
def placeTeam (s : State) (launch number : Nat) (p : Plan) (ws : List (Nat × Mask × Word)) : State :=
  let x := s.launch launch
  let k := x.kernel
  let (tn, s) := s.takeNo
  let drop := fun (s : State) (core : Nat) (r : Nat × Nat) =>
    s.updCore core fun c => { c with sram := dropBytes c.sram (128 * r.1) (128 * r.2) }
  let s := p.tiles.foldl (fun s t => drop s p.core t.2) (drop (drop s p.core p.scratch) p.core p.kennel)
  let s := if p.pair then drop s (p.core + 1) p.kennel2 else s
  let cs := if p.pair then [p.core, p.core + 1] else [p.core]
  let s := cs.foldl (fun s core => s.updCore core fun c => { c with acc := dropBytes c.acc p.acc (4096 * k.acc) }) s
  let t : Team :=
    { launch, number, core := p.core, pair := p.pair, kernel := k.va, nwaves := k.waves,
      waves := (ws.zip p.spots).foldl (fun m q => m.set q.1.1 (waveNo q.2.core q.2.slice q.2.slot)) [],
      scratch := p.scratch, kennel := p.kennel, kennel2 := p.kennel2, kslots := k.kennel, tiles := x.tiles,
      accBase := p.acc, accSize := 4096 * k.acc }
  let s := s.setTeam tn t
  let s := cs.foldl (fun s core => freshKennel s core k.kennel) s
  let s := p.tiles.foldl (fun s t => freshTile s p.core k t) s
  (ws.zip p.spots).foldl (fun s q =>
    createWave s k
      { kind := .team, launch, team := tn, teamNo := BitVec.ofNat 64 number, waveId := q.1.1, teamSize := k.team,
        pc := q.1.2.2, live := q.1.2.1, seed := seedTeam x.seed number k.waves q.1.1 } q.2) s

/-- The waves of a team that begins: the lanes beyond its threads start exited (R18). -/
def teamWaves (k : Kernel) : List (Nat × Mask × Word) :=
  (List.range k.waves).map fun i =>
    (i, lowMask (min k.width (k.team - i * k.width)), BitVec.ofNat 64 (k.va + k.entry))

/-- A formed wave placed on the slice of its core with the most free lanes that can take it, ties to the lower slice
(R369). -/
def formedSpot (s : State) (core : Nat) (k : Kernel) : Option Spot :=
  let o := coreOcc s core
  ((List.range 6).filterMap fun sl =>
    (spotIn o core sl k).map fun p => (((o.slices[sl]?).getD {}).lanes, p.1)).foldl
      (fun (b : Option (Nat × Spot)) p => match b with | some q => if p.1 < q.1 then some p else b | none => some p) none
    |>.map Prod.snd

end Sys2Proof.Machine
end

