-- ==== Sys2Proof/Machine/Queues.lean ====
section
/-! DEFINITION. Work queues and task records at their home slices (17_isa_control.md R336 to R342; 18_scheduling.md
R366): one step per queue request, and the decrements of task counts. -/

namespace Sys2Proof.Machine

/-! ### A take or a put as one step (R336 to R339) -/

/-- A descriptor: head, tail, log2 of the capacity, base, and whether it may be used (R336, R338). -/
structure QDesc where
  head : Nat
  tail : Nat
  lcap : Nat
  base : Nat
  ok : Bool
deriving DecidableEq, Repr

def qdesc (s : State) (a : Nat) : QDesc :=
  let w := fun (i : Nat) => BitVec.ofNat 64 (kRead s (a + 8 * i) 8)
  let head := bits (w 0) 31 0
  let tail := bits (w 0) 63 32
  let lcap := bits (w 1) 63 59
  { head, tail, lcap, base := bits (w 1) 55 0,
    ok := bits (w 1) 58 56 == 0 && w 2 == 0 && w 3 == 0 && lcap ≤ 20 && (tail + 2 ^ 32 - head) % 2 ^ 32 ≤ 2 ^ lcap }

def QDesc.count (q : QDesc) : Nat := (q.tail + 2 ^ 32 - q.head) % 2 ^ 32
def QDesc.item (q : QDesc) (i : Nat) : Nat := q.base + 16 * (i % 2 ^ 32 % 2 ^ q.lcap)

/-- What a step comes to. -/
inductive QRes
  /-- the descriptor cannot be used -/
  | bad
  /-- an item access fails: nothing has changed but caches and logs -/
  | fail (s : State) (e : EErr) (va : Nat)
  | ok (s : State) (items : List (Word × Word)) (n : Nat)

/-- Head and tail written, in the descriptor's total order. -/
def setEnds (s : State) (a head tail : Nat) : State :=
  s.homeWrite a (bytesOf (tail % 2 ^ 32 * 2 ^ 32 + head % 2 ^ 32) 8)

/-- The physical address of the pieces of items, and the virtual address of the first that cannot be accessed, or has to
wait for an earlier store of its lane. -/
def itemsXl (s : State) (d ctx : Nat) (need : Need) (waits : Nat → Nat → Nat → Bool) :
    List (Nat × Nat) → State × Except (EErr × Nat) (List (List (Nat × Nat)))
  | [] => (s, .ok [])
  | (j, va) :: rest =>
    match unitXl s d ctx need (piecesOf va 16) with
    | (s, .error e) => (s, .error (e, match e with | .xl _ a => a | _ => va))
    | (s, .ok ps) =>
      match ps.find? fun p => unmapped s p.1 || (need == .read && anyBad s p.1 p.2) with
      | some p =>
        let e := if unmapped s p.1 then EErr.unmapped else .bad
        (logFail s d p.1 p.2 e, .error (e, va))
      | none =>
        if ps.any fun p => waits j p.1 p.2 then (s, .error (.gated, va))
        else match itemsXl s d ctx need waits rest with
        | (s, .ok qs) => (s, .ok (ps :: qs))
        | x => x

/-- Who makes a queue request: its die, its port at the descriptor's slice, and whether its item of a rank has to wait for
an earlier store of its lane (R63, R68, R315). -/
structure QFrom where
  die : Nat
  port : Nat
  waits : Nat → Nat → Nat → Bool := fun _ _ _ => false

/-- One queue request at the home slice of its descriptor: a put of items, or a take or steal of k (R337). Die d
translates the items: the descriptor's home, or a dispatcher's own (R339, R367). -/
def queueStep (s : State) (src : QFrom) (d desc ctx : Nat) (put steal : Bool) (items : List (Word × Word)) (k : Nat) : QRes :=
  if unmapped s desc then .fail (s.logUnmapped desc d) .unmapped desc
  else if anyBad s desc 32 then .fail (s.logBad desc 32) .bad desc
  else
    let s := ((dropVisitorLine s src.die desc).layerRead desc 32).arrive src.port desc (if put then none else some steal)
    let q := qdesc s desc
    let drop := fun (s : State) (ps : List (List (Nat × Nat))) =>
      ps.foldl (fun s qs => qs.foldl (fun s p => dropVisitorLine s src.die p.1) s) s
    if !q.ok then .bad
    else if put then
      let n := min k (2 ^ q.lcap - q.count)
      match itemsXl s d ctx .write src.waits ((List.range n).map fun j => (j, q.item (q.tail + j))) with
      | (s, .error (e, va)) => .fail s e va
      | (s, .ok ps) =>
        let s := (ps.zip items).foldl (fun s p =>
          (p.1.foldl (fun (r : State × List Byte) x => (physWrite r.1 ctx x.1 (r.2.take x.2), r.2.drop x.2))
            (s, bytesOf p.2.1.toNat 8 ++ bytesOf p.2.2.toNat 8)).1) (drop s ps)
        .ok (setEnds s desc q.head (q.tail + n)) [] n
    else
      let n := min k q.count
      let at_ := fun (j : Nat) => if steal then q.item (q.head + j) else q.item (q.tail + 2 ^ 32 - 1 - j)
      match itemsXl s d ctx .read src.waits ((List.range n).map fun j => (j, at_ j)) with
      | (s, .error (e, va)) => .fail s e va
      | (s, .ok ps) =>
        let got := ps.map fun qs =>
          let bs := qs.flatMap fun p => match physRead s p.1 p.2 with | .ok x => bytesOf x p.2 | _ => []
          (BitVec.ofNat 64 (ofBytes (bs.take 8)), BitVec.ofNat 64 (ofBytes (bs.drop 8)))
        let s := ps.foldl (fun s qs => qs.foldl (fun s p => s.layerRead p.1 p.2) s) s
        .ok (if steal then setEnds s desc (q.head + n) q.tail else setEnds s desc q.head (q.tail + 2 ^ 32 - n)) got n

/-- The trap of a failed unit access. -/
def EErr.trap : EErr → Trap
  | .xl t _ => t
  | .unmapped => .unmappedPhys
  | .bad => .memUncorr
  | .width _ | .gated => .misaligned

/-- The lane whose item has a rank; an access made once is that of every selected lane (R337). -/
def QReq.lanesAt (r : QReq) (j : Nat) : Mask :=
  if r.once then r.sel else match (lanesOf r.sel)[j]? with | some l => maskOf [l] | none => 0

/-- Whether a steal has to wait for a take on its queue that was made in the same cycle (R68, R339). -/
def QReq.afterTake (s : State) (r : QReq) : Bool :=
  r.steal && s.queues.any fun p => !p.2.put && !p.2.steal && p.2.desc == r.desc && p.2.at_ == r.at_
    && (match msgAt s p.1 with | some .queue => true | _ => false)

/-- QUEUE_STEP (R68, R315, R337 to R339): the step, and its reply, once the lanes' earlier stores to the descriptor and the
items are performed; a parking fault on an item parks the lane group instead. -/
def execQueueStep (s : State) : Host.Outcome State Fault Refusal :=
  let name := "QUEUE_STEP"
  let n := s.subj.a
  match msgAt s n, s.queues.find? n with
  | some .queue, some r =>
    let d := homeDie r.desc 0
    let answer := fun (s : State) (items : List (Word × Word)) (k : Nat) (t : Option Trap) =>
      { s with msgs := s.msgs.set n (.queueReply items k t) }
    let src : QFrom := { die := dieOf r.wave, port := slicePort r.wave r.desc,
                         waits := fun j pa len => laneBehind s r.wave r.serial (r.lanesAt j) n pa len }
    if r.afterTake s || laneBehind s r.wave r.serial r.sel n r.desc 32 then notNow name
    else match queueStep s src d r.desc r.ctx r.put r.steal r.items (if r.once then 1 else popc r.sel) with
    | .bad => .next (answer s [] 0 (some .queueDesc))
    | .ok s items k => onTime name (.next (answer s items k none))
    | .fail s .gated _ => onTime name (.next s)
    | .fail s e va =>
      if parksUnit s d r.ctx e then
        let s := { (dropMsg s n) with queues := s.queues.del n }
        let s := match s.waveAt r.wave r.serial with
          | none => s
          | some w =>
            (queueFault s d
              { ctx := r.ctx, va, access := if r.put then 1 else 0, fault := faultCode e.trap, requester := 0,
                origin := originOf r.wave, lanes := popc r.sel, pc := r.pc, seq := r.seq,
                who := .lanes r.wave r.serial r.mask }).setWave r.wave
              ((w.mapLanes r.mask fun i l => { l with st := .parked, wait := .none, pend := l.pend ||| w.groupOf i }).dropHolder r.mask)
        .next s
      else .next (answer s [(BitVec.ofNat 64 va, 0)] 0 (some e.trap))
  | _, _ => notNow name

/-- QUEUE_REPLY (R337, R338): destinations and status bits are written and the wait ends, or the reply's trap strikes at
the instruction. -/
def execQueueReply (s : State) : Host.Outcome State Fault Refusal :=
  let n := s.subj.a
  match msgAt s n, s.queues.find? n with
  | some (.queueReply items k t), some r =>
    let s := { (dropMsg s n) with queues := s.queues.del n }
    match t with
    | some t =>
      if (s.waveAt r.wave r.serial).isNone then .next s
      else
        let va := ((items.head?).map Prod.fst).getD 0
        let v := if t == .vaRange || t == .misaligned || t == .unmappedPhys || t == .memUncorr then va else 0
        let s := s.updWave r.wave fun w => w.mapLanes r.mask fun _ l => { l with wait := .none }
        .next (s.takeTrap r.wave t 0 [(r.sel, r.mask, r.pc, v)])
    | none =>
      .next (s.updWaveAt r.wave r.serial fun w =>
        let next := fun (o : Opd) => match o with
          | .v x => if h : x.val + 1 < 320 then Opd.v ⟨x.val + 1, h⟩ else .zero
          | .s x => if h : x.val + 1 < 256 then Opd.s ⟨x.val + 1, h⟩ else .zero
          | _ => .zero
        let put := fun (w : Wave) (l : Nat) (x : Word × Word) => writeDst (writeDst w r.dst l x.1) (next r.dst) l x.2
        let w := if r.put then w
          else if r.once then items.foldl (fun w x => put w 0 x) w
          else ((lanesOf r.sel).zip items).foldl (fun w p => put w p.1 p.2) w
        let w := (lanesOf r.sel).zipIdx.foldl (fun (w : Wave) p =>
          writeBit w r.status p.1 (if r.once then k == 1 else decide (p.2 < k))) w
        replied w n)
  | _, _ => notNow "QUEUE_REPLY"

/-! ### Task counts (R341, R342, R366) -/

/-- One decrement at the home slice of a count, for a requester of a die, whose visitor copy is dropped (R63). -/
def decrementAt (s : State) (d : Nat) (r : Ready) : State × Nat :=
  let old := kRead s r.pa 8
  let s := (dropVisitorLine (s.layerRead r.pa 8) d r.pa).homeWrite r.pa (bytesOf ((old + 2 ^ 64 - 1) % 2 ^ 64) 8)
  (if old = 1 then s.makeReady r else s, old)

/-- Every decrement of a TASKDEC or SUSPEND has been made: old counts are written and the group goes on, or the lanes
exit. -/
def tasksDone (s : State) (no : Nat) : State :=
  match s.txs.find? no with
  | none => s
  | some t =>
    if t.tasks.any fun k => k.old.isNone then s
    else
      let s := match s.waveAt t.wave t.serial with
        | none => s
        | some w =>
          if t.suspend then
            exitLanes s t.wave (w.lanesWhere fun l => l.wait == .suspend no)
          else
            s.updWave t.wave fun w =>
              replied (t.tasks.foldl (fun w k => writeDst w t.dst k.lane (k.old.getD 0)) w) no
      sweepTx s no

/-- Whether a count cannot fall now: it would fall to 0, and the ready queue of its die is full (R366). -/
def countWaits (s : State) (pa : Nat) : Bool := kRead s pa 8 = 1 && (s.die (homeDie pa 0)).ready.length ≥ 4096

/-- A count that cannot be reached or read, which is logged. -/
def countFails (s : State) (pa : Nat) : Bool := unmapped s pa || anyBad s pa 8
def countLog (s : State) (d pa : Nat) : State := if unmapped s pa then s.logUnmapped pa d else s.logBad pa 8

/-- A detached wake at its counter (R78, R320): the value is stored beside it and the counter falls by one, in the order of
the wakes on that counter. -/
def detachedWake (s : State) (n pa counter token ctx : Nat) (v : Word) : Host.Outcome State Fault Refusal :=
  let name := "TASK_DECREMENT"
  let earlier := s.msgs.any fun p => p.1 < n && (match p.2 with | .decrement _ c _ _ (some _) => c == counter | _ => false)
  if earlier || (!countFails s counter && countWaits s counter) then notNow name
  else
    let d := homeDie pa 0
    let s := { s with msgs := s.msgs.set n (.decrement pa counter token ctx none) }
    if countFails s counter then .next (countLog s d counter)
    else
      let s := (s.arrive (unitPort d counter) counter).homeWrite (counter + 8) (bytesOf v.toNat 8)
      onTime name (.next (decrementAt s d { pa := counter, va := none, ctx }).1)

/-- TASK_DECREMENT (R78, R341, R342): a count falls by one at its home slice, in one step; at exactly 0 its record goes on
the ready queue, for which a full queue holds the decrement (R366). One of a TASKDEC or SUSPEND that cannot be made is a
deferred failure. -/
def execTaskDecrement (s : State) : Host.Outcome State Fault Refusal :=
  let name := "TASK_DECREMENT"
  match msgAt s s.subj.a with
  | some (.decrement pa counter token ctx (some v)) => detachedWake s s.subj.a pa counter token ctx v
  | some (.taskDec no i) =>
    match s.txs.find? no with
    | none => .next (dropMsg s s.subj.a)
    | some t =>
      match t.tasks[i]? with
      | none => .next (dropMsg s s.subj.a)
      | some { lane, va, pa, .. } =>
        let mark := fun (s : State) (x : Nat) =>
          { s with txs := s.txs.upd no fun t => { t with tasks := t.tasks.set i { lane, va, pa, old := some (BitVec.ofNat 64 x) } } }
        if laneBehind s t.wave t.serial (maskOf [lane]) no pa 8 || (!countFails s pa && countWaits s pa) then notNow name
        else
          let s := dropMsg s s.subj.a
          if countFails s pa then
            let tr := if unmapped s pa then Trap.unmappedPhys else .memUncorr
            let s := countLog s (dieOf t.wave) pa
            let s := if (s.waveAt t.wave t.serial).isSome then s.takeTrap t.wave tr 0 [(maskOf [lane], 0, t.pc, va)] else s
            .next (tasksDone (mark s 0) no)
          else
            let (s, old) := decrementAt (s.arrive (slicePort t.wave pa) pa) (dieOf t.wave) { pa, va := some va, ctx := t.ctx }
            onTime name (.next (tasksDone (mark s old) no))
  | _ => notNow name

/-- READY_QUEUE_INSERT (R366): the oldest record that waits for a full ready queue of a die takes its place. -/
def execReadyQueueInsert (s : State) : Host.Outcome State Fault Refusal :=
  let name := "READY_QUEUE_INSERT"
  let d := s.subj.a
  match List.find? (fun (p : Nat × Msg) => match p.2 with | .readyHeld d' _ => d' == d | _ => false) s.msgs with
  | some (n, .readyHeld _ r) =>
    if (s.die d).ready.length ≥ 4096 then notNow name
    else .next ((dropMsg s n).updDie d fun x => { x with ready := x.ready ++ [{ r with at_ := s.epoch }] })
  | _ => notNow name

end Sys2Proof.Machine
end

