-- ==== Sys2Proof/Machine/Launch.lean ====
section
/-! DEFINITION. Launch queues and launch records (18_scheduling.md R352 to R357): serving a queue, the checks of
acceptance, the end of a launch, and its end by ABORT (19_faults_preemption.md R382). -/

namespace Sys2Proof.Machine

/-! ### Queues (R352 to R354) -/

/-- A launch queue descriptor. -/
structure LQueue where
  tail : Nat
  head : Nat
  lcap : Nat
  base : Nat
  prio : Nat
  ctx : Nat
  /-- it is served -/
  ok : Bool
deriving DecidableEq, Repr

/-- Descriptor q of the table, which lies at physical address 0 (R428). -/
def lqueue (s : State) (q : Nat) : LQueue :=
  let w := fun (i : Nat) => BitVec.ofNat 64 (kRead s (64 * q + 8 * i) 8)
  let lcap := bits (w 2) 63 59
  let base := bits (w 2) 55 0
  let ctx := bits (w 3) 11 0
  { tail := bits (w 0) 31 0, head := bits (w 1) 31 0, lcap, base, prio := bits (w 3) 15 14, ctx,
    ok := bit (w 3) 63 && bits (w 0) 63 32 == 0 && bits (w 1) 63 32 == 0 && bits (w 2) 58 56 == 0 && bits (w 3) 62 16 == 0
      && bits (w 3) 13 12 == 0 && ((List.range 4).all fun i => w (4 + i) == 0) && lcap ≤ 10 && ctx != 0
      && base < 2 ^ 52 && isDev base && !anyBad s (64 * q) 64 }

/-- The die and number of the control core that serves a queue. -/
def serverOf (q : Nat) : Nat × Nat := (q % 4, q / 4 % 2)
/-- A control core that runs, and can serve its queues. -/
def serverUp (s : State) (d k : Nat) : Bool :=
  match s.wave? (ctlNo d k) with | some w => !w.stopped | none => false

def launchNo (q slot : Nat) : Nat := 1024 * q + slot

/-- The index of the next record of a queue that has not been looked at. -/
def seenOf (s : State) (q : Nat) : Nat := (s.seen.find? q).getD (lqueue s q).head

/-- The head advances past records that have ended, up to those looked at (R354). -/
def advanceHead (s : State) (q : Nat) : State :=
  let x := lqueue s q
  let seen := seenOf s q
  let n := (seen + 2 ^ 32 - x.head) % 2 ^ 32
  let done := ((List.range (min n (2 ^ x.lcap))).takeWhile fun i =>
    match s.launches.find? (launchNo q ((x.head + i) % 2 ^ x.lcap)) with | some l => l.st == .ended | none => false).length
  if done == 0 then s else s.homeWrite (64 * q + 8) (bytesOf ((x.head + done) % 2 ^ 32) 4)

/-! ### Status words (R355 to R357) -/

/-- The status word of a launch, written at its home slice, and then at `done` where the record names a place. -/
def statusWord (code ended : Nat) : List Byte := bytesOf (code * 2 ^ 56 + ended % 2 ^ 32) 8

def doneOk (a : Nat) : Bool := a % 8 == 0 && a < 2 ^ 52 && isCached a

/-- A launch ends: what home slices hold of host memory is written out, its status and done words are written, and the head of its queue may advance. Recording ends too
(R406). -/
def finishLaunch (s : State) (no code : Nat) : State :=
  let x := s.launch no
  let ws := statusWord code x.ended
  let s := s.hostFlush fun _ => true
  let s := s.homeWrite (x.record + 0x40) ws
  let s := if x.done != 0 && doneOk x.done && !unmapped s x.done then s.homeWrite x.done ws else s
  let s := s.updLaunch no fun l => { l with st := .ended, rec_ := 0 }
  let s := if x.rec_ == 0 then s else { s with replay := {} }
  let s := if x.rec_ == 0 then s
    else (List.range 4).foldl (fun s d =>
      if bits (s.reg d 0x6038) 63 56 == 2 then s.setReg d 0x6038 (BitVec.ofNat 64 (3 * 2 ^ 56)) else s) s
  advanceHead s x.queue

/-! ### Acceptance (R355, R356) -/

/-- The fields of a record of sixteen words. -/
def recordOf (q : LQueue) (queue slot record order : Nat) (ws : List Word) : Launch :=
  let w := wordAt ws
  { queue, slot, record, ctx := q.ctx, prio := q.prio, order, kernel := { va := bits (w 0) 55 0 },
    nteams := bits (w 1) 63 32, dmask := BitVec.ofNat 4 (bits (w 1) 31 28), co := bit (w 1) 27, scr := bit (w 1) 26,
    task := bit (w 1) 25, ser := bit (w 1) 24, bto := if bits (w 1) 15 0 == 0 then 4096 else bits (w 1) 15 0, seed := w 2,
    tnbase := bits (w 3) 55 0, dq := bits (w 5) 55 0, done := bits (w 9) 55 0, tiles := [], spawn := [] }

/-- The largest number of spawn-table kernels that are read, and the table's address. -/
def spawnTable (ws : List Word) : Nat × Nat := (bits (wordAt ws 4) 63 59, bits (wordAt ws 4) 55 0)

/-- Whether a record passes the checks that R356 lists under RECORD_ILLEGAL. -/
def recordOk (s : State) (no : Nat) (x : Launch) (ws : List Word) (vas : List Nat) (heads : List (Nat × Head)) : Bool :=
  let w := wordAt ws
  let X := bits (w 6) 63 48
  let Y := bits (w 6) 47 32
  bits (w 0) 63 56 == 0 && bits (w 1) 23 16 == 0 && bits (w 3) 63 56 == 0 && bits (w 4) 58 56 == 0 && bits (w 5) 63 56 == 0
    && bits (w 6) 31 0 == 0 && bits (w 8) 55 32 == 0 && bits (w 9) 63 56 == 0 && ((ws.drop 10).all fun v => v == 0)
    && x.nteams != 0 && x.dmask != 0 && (spawnTable ws).1 ≤ 16
    && x.kernel.va % 128 == 0 && x.tnbase % 2 ^ 14 == 0 && (spawnTable ws).2 % 8 == 0 && x.dq % 32 == 0 && x.done % 8 == 0
    && (vas.all fun v => v % 128 == 0)
    && (!x.scr || (x.dmask == 0xF && X != 0 && Y != 0 && x.nteams == ((X + 255) / 256) * ((Y + 255) / 256)))
    && ((heads.drop 1).all fun h => h.2.scr == 0 && h.2.kennel == 0 && h.2.acc == 0 && h.2.tbmask == 0)
    && (x.done == 0 || doneOk x.done)
    && !(s.launches.any fun p => p.1 != no && p.2.st != .ended && p.2.ctx == x.ctx && p.2.tnbase != x.tnbase)

/-- Images written to the context's tensor table (R129, R180). -/
def writeImages (s : State) (d : Nat) (x : Launch) : List (Nat × List Word) → State × Option EErr
  | [] => (s, none)
  | (tid, ws) :: rest =>
    match unitWrite s d x.ctx (x.tnbase + 64 * tid) (ws.flatMap fun v => bytesOf v.toNat 8) with
    | (s, none) => writeImages s d x rest
    | r => r

/-- The launch's copy of the entries that its tiles are bound to (R356). -/
def readTiles (s : State) (d : Nat) (x : Launch) : List (Nat × Bool × Nat) → State × Except EErr (List Tile)
  | [] => (s, .ok [])
  | b :: rest =>
    match unitRead s d x.ctx (x.tnbase + 64 * b.2.2) 64 with
    | (s, .error e) => (s, .error e)
    | (s, .ok bs) =>
      match readTiles s d x rest with
      | (s, .ok ts) => (s, .ok ({ tb := b.1, entry := wordsOf bs } :: ts))
      | r => r

/-- What acceptance comes to: the launch runs, ends with a status, or waits for a window's cluster. -/
inductive Verdict
  | run (x : Launch)
  | fail (code : Nat)
  | wait

def Verdict.ofErr : EErr → Verdict
  | .gated => .wait
  | _ => .fail 7

/-- The checks of R356 in their order, made by the control core of a die. -/
def judge (s : State) (d no : Nat) (x : Launch) (ws : List Word) : State × Verdict :=
  match readHead s d x.ctx x.kernel.va with
  | (s, .error e) => (s, .ofErr e)
  | (s, .ok h0) =>
    match unitRead s d x.ctx (spawnTable ws).2 (8 * min (spawnTable ws).1 16) with
    | (s, .error e) => (s, .ofErr e)
    | (s, .ok tbl) =>
      let vas := (wordsOf tbl).map BitVec.toNat
      match readHeads s d x.ctx vas with
      | (s, .error e) => (s, .ofErr e)
      | (s, .ok hs) =>
        let heads := (x.kernel.va, h0) :: hs
        if heads.any fun h => !tagOk h.2 then (s, .fail 3)
        else
          match readObjects s d x.ctx heads with
          | (s, .fail e) => (s, .ofErr e)
          | (s, .illegal) => (s, .fail 4)
          | (s, .ok ks) =>
            match writeImages s d x (ks.flatMap Prod.snd) with
            | (s, some e) => (s, .ofErr e)
            | (s, none) =>
              let k := ((ks.head?).map Prod.fst).getD {}
              match readTiles s d x k.tiles with
              | (s, .error e) => (s, .ofErr e)
              | (s, .ok ts) =>
                if ts.any fun t => !tileOnlyOk t.entry then (s, .fail 4)
                else if !recordOk s no x ws vas heads then (s, .fail 5)
                else
                  let x := { x with kernel := k, spawn := (ks.drop 1).map Prod.fst, tiles := ts }
                  if fits x then (s, .run x) else (s, .fail 6)

/-- What a wait for a gated cluster keeps of a state: wake requests and translations. -/
def keepWakes (s t : State) : State :=
  (List.range 4).foldl (fun s d =>
    let y := t.die d
    s.updDie d fun x => { x with clusters := y.clusters, arbiter := y.arbiter, regs := y.regs, tlb := y.tlb, wcache := y.wcache }) s

/-- How a launch is recorded or replayed (R406): the mode that all dies name for it, and its quantum. -/
def recordingOf (s : State) (q slot ctx : Nat) : Nat × Nat :=
  let c := fun (d : Nat) => s.reg d 0x6000
  let ok := fun (d : Nat) (m : Nat) =>
    bits (c d) 63 62 == m && bits (c d) 47 42 == q && bits (c d) 41 32 == slot && bits (c d) 11 0 == ctx
      && bits (s.reg d 0x6038) 63 56 != 2
  let x := bits (c 0) 19 16
  let m := if (List.range 4).all fun d => ok d 1 then 1 else if (List.range 4).all fun d => ok d 2 then 2 else 0
  (m, 2 ^ ((if x ≤ 8 then x else 4) + 8))

/-- LAUNCH_ACCEPT (R354, R356): the next record of a queue. A record that has ended already is passed over (R384). -/
def execLaunchAccept (s : State) : Host.Outcome State Fault Refusal :=
  let name := "LAUNCH_ACCEPT"
  let q := s.subj.a
  let (d, k) := serverOf q
  let desc := lqueue s q
  let i := seenOf s q
  let slot := i % 2 ^ desc.lcap
  let no := launchNo q slot
  let record := desc.base + 128 * slot
  let busy := match s.launches.find? no with | some x => x.st != .ended | none => false
  if s.dev != .running || q ≥ 64 || !serverUp s d k || !desc.ok || i == desc.tail || busy then notNow name
  else
    let s := { s with seen := s.seen.set q ((i + 1) % 2 ^ 32), launched := true }
    let order := s.fresh
    let s := { s with fresh := order + 1 }
    match physRead s record 128 with
    | .ok x =>
      let ws := wordsOf (bytesOf x 128)
      let x := recordOf desc q slot record order ws
      if bits (wordAt ws 8) 63 56 ≥ 2 then .next (advanceHead (s.setLaunch no { x with st := .ended }) q)
      else
        let (mode, quantum) := recordingOf s q slot desc.ctx
        let x := { x with rec_ := mode, quantum }
        let s := if mode == 0 then s
          else (List.range 4).foldl (fun s d => s.setReg d 0x6038 (BitVec.ofNat 64 (2 * 2 ^ 56))) { s with replay := {} }
        let s' := (s.setLaunch no x).homeWrite (record + 0x40) (statusWord 1 0)
        match judge s' d no x ws with
        | (t, .run x) => .next (t.setLaunch no x)
        | (t, .fail code) => .next (finishLaunch t no code)
        | (t, .wait) => .next (keepWakes { s with seen := s.seen.set q i } t)
    | .bad =>
      let x : Launch := { queue := q, slot, record, ctx := desc.ctx, order }
      .next (finishLaunch ((s.logBad record 128).setLaunch no x) no 7)
    | .unmapped =>
      let x : Launch := { queue := q, slot, record, ctx := desc.ctx, order }
      .next (finishLaunch ((s.logUnmapped record d).setLaunch no x) no 7)

/-! ### The end of a launch (R357) -/

/-- Whether anything of a launch is still to end: its waves, its commands and the performance of its stores. -/
def launchQuiet (s : State) (no : Nat) : Bool :=
  !(s.waves.any fun p => p.2.launch == no && !isCtl p.1) && !(s.cmds.any fun p => p.2.launch == no && !isCtl p.2.wave)
    && !(s.txs.any fun p => p.2.launch == no && !isCtl p.2.wave && (p.2.accs.any (fun a => reached p.2 a < 3) || !p.2.owed.isEmpty))

/-- Whether the bins, gathering slots and formed waves of the cores hold something of a launch. -/
def binsHold (s : State) (no : Nat) : Bool :=
  s.cores.any fun p => (p.2.bins.any fun b => b.launch == no) || (p.2.gathering.any fun g => g.2.launch == no)
    || p.2.formed.any fun f => f.launch == no

/-- Whether a launch's dispatch queue is empty, where it can be read. -/
def dqEmpty (s : State) (x : Launch) : Bool :=
  x.dq == 0 ||
    match xlNow s (serverOf x.queue).1 x.ctx (BitVec.ofNat 64 x.dq) .read with
    | (_, .ok pa) => isDev pa && !unmapped s pa && !anyBad s pa 32 && (qdesc s pa).ok && (qdesc s pa).count == 0
    | _ => false

/-- LAUNCH_END (R357, R382): status DONE, which the control core of its queue writes, or FAULTED after an abort. -/
def execLaunchEnd (s : State) : Host.Outcome State Fault Refusal :=
  let name := "LAUNCH_END"
  let no := s.subj.a
  match s.launches.find? no with
  | none => notNow name
  | some x =>
    match x.st with
    | .running =>
      let (d, k) := serverOf x.queue
      if serverUp s d k && x.ended == x.nteams && launchQuiet s no && !binsHold s no && dqEmpty s x then .next (finishLaunch s no 2)
      else notNow name
    | .aborting => if launchQuiet s no then .next (finishLaunch s no 7) else notNow name
    | .ended => notNow name

/-! ### ABORT (R382) -/

/-- A wave freed by an abort: its registration is cancelled, and its lanes leave the fault entries and the ring. -/
def freeWave (s : State) (key : Nat) : State :=
  match s.wave? key with
  | none => s
  | some w =>
    let cancel := fun (s : State) (r : Option Reg) =>
      match r with | some r => s.post (.cancel key w.serial r.token r.pa) | none => s
    let s := cancel (cancel s w.leash) w.adopted
    let mine := fun (a : Attached) => match a with | .lanes k n _ => k == key && n == w.serial | _ => false
    let s := { s with
      dies := s.dies.map fun (p : Nat × Die) => (p.1, { p.2 with
        faultWait := p.2.faultWait.filter fun f => !mine f.who,
        faults := p.2.faults.map fun (f : FaultEntry) => { f with who := f.who.filter fun a => !mine a },
        traps := p.2.traps.filter fun r => !(r.wave == key && r.serial == w.serial && r.written.isSome) }),
      waves := s.waves.del key,
      replay := { s.replay with snap := s.replay.snap.filter fun p => p.1 != key,
                                struck := s.replay.struck.filter fun k => k != key } }
    let gone := (w.quantum.heldTx, w.quantum.heldCmd)
    { s with txs := s.txs.filter fun p => !(gone.1.contains p.1 && p.2.held),
             cmds := s.cmds.filter fun p => !(gone.2.contains p.1 && p.2.held) }

/-- ABORT (R382): every wave of the launch is freed, no further team of it is placed, and what its bins, gathering slots
and restore lines hold is discarded. It ends FAULTED once its commands and stores have ended. -/
def abortLaunch (s : State) (no : Nat) : State :=
  match s.launches.find? no with
  | none => s
  | some x =>
    if x.st != .running then s
    else
      let s := s.updLaunch no fun l => { l with st := .aborting, faulted := true, rounds := [] }
      let s := (s.waves.filter fun p => p.2.launch == no && !isCtl p.1).foldl (fun s p => freeWave s p.1) s
      let s := (s.teams.filter fun p => p.2.launch == no).foldl (fun s p =>
        preqEnds { releaseTeam s p.1 with teams := s.teams.del p.1 } p.2) s
      { s with
        cores := s.cores.map fun (p : Nat × Core) => (p.1, { p.2 with
          bins := p.2.bins.filter fun b => b.launch != no, gathering := p.2.gathering.filter fun g => g.2.launch != no,
          formed := p.2.formed.filter fun f => f.launch != no, dqStall := p.2.dqStall.filter fun l => l != no }),
        dies := s.dies.map fun (p : Nat × Die) => (p.1, { p.2 with
          line := p.2.line.filter fun v => v.launch != no, flight := p.2.flight.filter fun v => v.2.launch != no,
          returned := p.2.returned.filter fun v => v.2.launch != no }),
        replay := if x.rec_ == 0 then s.replay else {} }

end Sys2Proof.Machine
end

