-- ==== Sys2Proof/Machine/Lines.lean ====
section
/-! DEFINITION. Placing teams and moving them between dies (18_scheduling.md R358 to R364; 19_faults_preemption.md R389,
R392), and the release of the launch barrier (R375). -/

namespace Sys2Proof.Machine

/-! ### The head of a die's line (R354, R360, R366) -/

/-- The cycles of control core 0 of a die. -/
def ctlNow (s : State) (d : Nat) : Nat := s.now (clockOf (ctlNo d 0))

/-- An earlier launch of the queue, or for a launch of task records of its context, that has not ended. -/
def mustFollow (s : State) (x : Launch) : Bool :=
  s.launches.any fun p => p.2.st != .ended && p.2.order < x.order
    && ((x.ser && p.2.queue == x.queue) || (x.task && p.2.task && p.2.ctx == x.ctx))

/-- The next team of a launch that a die is dealt, as its position in the die's share. -/
def nextDealt (x : Launch) (d : Nat) : Option Nat :=
  match shareOf x d with
  | none => none
  | some (_, n) =>
    let j := (x.dealt[d]?).getD 0
    (((List.range (x.taken.length + 1)).map (j + ·)).find? fun i => !x.taken.contains (teamOf x d i)).filter fun i => decide (i < n)

/-- The first running launch with an unplaced team on a die: descending prio, then acceptance order. -/
def firstLaunch (s : State) (d : Nat) : Option (Nat × Launch × Nat) :=
  (s.launches.filterMap fun p =>
    if p.2.st == .running && !mustFollow s p.2 then (nextDealt p.2 d).map fun j => (p.1, p.2, j) else none).foldl
      (fun (b : Option (Nat × Launch × Nat)) c =>
        match b with
        | none => some c
        | some q => if c.2.1.prio > q.2.1.prio || (c.2.1.prio == q.2.1.prio && c.2.1.order < q.2.1.order) then some c else b)
      none

/-- The team that a die tries next: one that waits to be restored or was returned, else the lowest unplaced one. -/
inductive Head1
  | none
  | line (v : Saved)
  | dealt (no j : Nat)
deriving DecidableEq, Repr

def headOf (s : State) (d : Nat) : Head1 :=
  match (s.die d).line.find? fun v => !v.hold with
  | some v => .line v
  | none => match firstLaunch s d with | some (no, _, j) => .dealt no j | none => .none

/-- Launch and number of a head-of-line team. -/
def headName (s : State) (d : Nat) : Head1 → Option (Nat × Nat)
  | .none => Option.none
  | .line v => some (v.launch, v.number)
  | .dealt no j => some (no, teamOf (s.launch no) d j)

/-- A team leaves its place in the dealing order. -/
def passDealt (s : State) (no d j : Nat) : State :=
  s.updLaunch no fun x => { x with dealt := x.dealt.set d (j + 1) }

def dropSaved (s : State) (d : Nat) (v : Saved) : State :=
  s.updDie d fun x => { x with line := x.line.filter fun u => !(u.launch == v.launch && u.number == v.number) }

/-! ### Trying a team -/

/-- The clusters of planned cores: each is sent a wake request, and whether all are powered (R358, R419). -/
def wakeAll (s : State) (cs : List Nat) : State × Bool :=
  cs.foldl (fun r c => let s := wakeCore r.1 c; (s, r.2 && coreOn s c)) (s, true)

/-- What trying a team comes to. -/
inductive Tried
  | placed (s : State)
  /-- it fits, and waits for its cluster to wake -/
  | waking (s : State)
  | full
  /-- its save header cannot be used (R392) -/
  | broken (s : State)

/-- Before the first instruction of a moved team, the L1s of its cores drop every line, and so do the visitor copies of
a die that it comes to from another (R322). -/
def dropForMove (s : State) (d : Nat) (p : Plan) (away : Bool) : State :=
  let cs := if p.pair then [p.core, p.core + 1] else [p.core]
  let s := cs.foldl (fun s c => s.updCore c fun x => { x with l1 := [] }) s
  if away then s.updDie d fun x => { x with visitor := [] } else s

/-- The ranges that a plan pins on one of its cores. -/
def Plan.pins (p : Plan) (core : Nat) : List (Nat × Nat) :=
  if core == p.core then p.scratch :: p.kennel :: p.tiles.map fun x => x.2 else [p.kennel2]
def Plan.cores (p : Plan) : List Nat := if p.pair then [p.core, p.core + 1] else [p.core]

/-- Whether a line of memory lies in a set of which a plan pins a way on a core (R102, R103). -/
def Plan.takes (p : Plan) (core a : Nat) : Bool := (p.pins core).any fun r => waysOf r.1 r.2 (a / 128 % 1024) != 0

/-- Whether the L1 of a core holds stores there that it has still to write to the die slice (R103). -/
def Plan.dirty (s : State) (p : Plan) : Bool := p.cores.any fun c => (s.core c).l1Held.any fun q => p.takes c q.1

/-- The lines of an L1 in the sets of which a plan pins ways are given up (R103). -/
def Plan.clear (s : State) (p : Plan) : State :=
  p.cores.foldl (fun s c => s.updCore c fun x => { x with l1 := x.l1.filter fun (q : Nat × Byte) => !p.takes c q.1 }) s

/-- The planned team placed, once its cluster is powered and its lines are written out (R103). -/
def settlePlan (s : State) (no number : Nat) (p : Plan) (ws : List (Nat × Mask × Word)) (moved : Option Bool) : Tried :=
  match wakeAll s [p.core] with
  | (s, true) =>
    if p.dirty s then .waking s else
    let s := p.clear s
    let s := match moved with | some away => dropForMove s (dieOfCore p.core) p away | none => s
    .placed (placeTeam s no number p ws)
  | (s, false) => .waking s

/-- A team that has not begun, tried on a die (R358, R359). -/
def tryFresh (s : State) (d no number : Nat) (moved : Option Bool) : Tried :=
  let x := s.launch no
  let k := x.kernel
  match planDie (dieOcc s d) d k.pair k (tileLens k x.tiles) k.waves with
  | some (p, _) => settlePlan s no number p (teamWaves k) moved
  | none => .full

/-- The waves that a save header names (R389): WAVEID, lanes and safe-point record of each; none where a value is
outside its range. -/
def headerWaves (k : Kernel) (n : Nat) (ws : List Word) : Option (List (Nat × Mask × Nat)) :=
  let xs := (List.range n).map fun i =>
    let x := wordAt ws (2 * i + 1)
    (bits x 40 32, wordAt ws (2 * i) &&& lowMask k.width, bits x 63 48)
  if (xs.all fun w => decide (w.1 < k.waves) && decide (w.2.2 < k.safe.length)) && noRepeat (xs.map fun w => w.1)
      && xs.any fun w => w.2.1 != 0 then some xs else none

/-- A saved team, tried on a die (R392): its save header is read at .k, and one wave is made for each wave of it that
holds a lane. -/
def trySaved (s : State) (d : Nat) (v : Saved) (away : Bool) : Tried :=
  let x := s.launch v.launch
  let k := x.kernel
  match unitRead s d x.ctx v.area 8 with
  | (s, .error .gated) => .waking s
  | (s, .error _) => .broken s
  | (s, .ok h) =>
    let h0 : Word := BitVec.ofNat 64 (ofBytes h)
    let n := bits h0 31 16
    if n == 0 || n > k.waves then .broken s
    else
      match unitRead s d x.ctx (v.area + 0x20) (16 * n) with
      | (s, .error .gated) => .waking s
      | (s, .error _) => .broken s
      | (s, .ok bs) =>
        match headerWaves k n (wordsOf bs) with
        | none => .broken s
        | some ws =>
          match planDie (dieOcc s d) d (bit h0 0) k (tileLens k x.tiles) n with
          | none => .full
          | some (p, _) =>
            let both := (ws.zip p.spots).filter fun q => q.1.2.1 != 0
            let start := fun (i : Nat) => BitVec.ofNat 64 (k.va + ((k.safe[i]?).map fun r => r.2.2.1).getD 0)
            match settlePlan s v.launch v.number { p with spots := both.map Prod.snd }
                (both.map fun q => (q.1.1, q.1.2.1, start q.1.2.2)) (some away) with
            | .placed t =>
              let mine := fun (w : Wave) => w.launch == v.launch && w.teamNo == BitVec.ofNat 64 v.number && w.kind == .team
              let mark := fun (q : Nat × Wave) => if mine q.2 then (q.1, { q.2 with quantum := { routine := true } }) else q
              .placed (if (t.launch v.launch).rec_ == 0 then t else { t with waves := t.waves.map mark })
            | r => r

/-- A team of a restore line or of a message, tried on a die. -/
def tryMoved (s : State) (d : Nat) (v : Saved) (away : Bool) : Tried :=
  if v.saved then trySaved s d v away else tryFresh s d v.launch v.number (some away)

/-! ### TEAM_PLACE and TEAM_RESTORE (R358 to R361, R392) -/

/-- The teams of a die's share that have not left the dealing order, as positions in the share. -/
def shareLeft (x : Launch) (d : Nat) : List Nat :=
  (List.range (((shareOf x d).map Prod.snd).getD 0)).filter fun j => !x.taken.contains (teamOf x d j)

/-- The plans of every share of a launch whose teams run at once (R361), by ascending die: position in the share and
plan. -/
def planShares (s : State) (x : Launch) : List Nat → Option (List (Nat × List (Nat × Plan)))
  | [] => some []
  | d :: ds => do
    let js := shareLeft x d
    let ps ← planMany (dieOcc s d) d x.kernel (tileLens x.kernel x.tiles) js.length
    let rest ← planShares s x ds
    some ((d, js.zip ps) :: rest)

/-- All teams of a CO launch placed at once, when it is the head of every line that has a share of it. -/
def tryShares (s : State) (no : Nat) : Tried :=
  let x := s.launch no
  let ds := (diesOf x).filter fun d => !(shareLeft x d).isEmpty
  if ds.any fun d => (match headOf s d with | .dealt n _ => n != no | _ => true) then .full
  else
    match planShares s x ds with
    | none => .full
    | some ps =>
      match wakeAll s (ps.flatMap fun q => q.2.map fun r => r.2.core) with
      | (s, false) => .waking s
      | (s, true) =>
        let plans := ps.flatMap fun q => q.2.map Prod.snd
        if plans.any fun p => p.dirty s then .waking s else
        let s := plans.foldl (fun s p => p.clear s) s
        .placed (ps.foldl (fun s q =>
          let s := q.2.foldl (fun s r => placeTeam s no (teamOf x q.1 r.1) r.2 (teamWaves x.kernel)) s
          passDealt s no q.1 (((shareOf x q.1).map Prod.snd).getD 0)) s)

/-- A head-of-line team without room is noted with the cycle from which it waits (R363). -/
def noteHead (name : String) (s : State) (d : Nat) (h : Head1) : Host.Outcome State Fault Refusal :=
  match headName s d h with
  | none => notNow name
  | some (l, t) =>
    match (s.die d).head with
    | some (l', t', _) => if l == l' && t == t' then notNow name else .next (s.updDie d fun x => { x with head := some (l, t, ctlNow s d) })
    | none => .next (s.updDie d fun x => { x with head := some (l, t, ctlNow s d) })

def clearHead (s : State) (d : Nat) : State := s.updDie d fun x => { x with head := none }

/-- The lines of the device run on control cores 0 while the device runs. -/
def lineUp (s : State) (d : Nat) : Bool := s.dev == .running && d < 4 && serverUp s d 0

/-- TEAM_PLACE (R358 to R361): the head-of-line team that has not begun. -/
def execTeamPlace (s : State) : Host.Outcome State Fault Refusal :=
  let name := "TEAM_PLACE"
  let d := s.subj.a
  if !lineUp s d then notNow name
  else
    let go := fun (h : Head1) (r : Tried) (pass : State → State) =>
      match r with
      | .placed t => Host.Outcome.next (clearHead (pass t) d)
      | .waking t => if t == s then notNow name else .next t
      | .full | .broken _ => noteHead name s d h
    match headOf s d with
    | .none => notNow name
    | .line v =>
      if v.saved then notNow name else go (.line v) (tryFresh s d v.launch v.number (some v.away)) fun t => dropSaved t d v
    | .dealt no j =>
      let x := s.launch no
      if x.co then go (.dealt no j) (tryShares s no) id
      else go (.dealt no j) (tryFresh s d no (teamOf x d j) none) fun t => passDealt t no d j

/-- TEAM_RESTORE (R360, R392): the first team that waits to be restored. -/
def execTeamRestore (s : State) : Host.Outcome State Fault Refusal :=
  let name := "TEAM_RESTORE"
  let d := s.subj.a
  if !lineUp s d then notNow name
  else
    match headOf s d with
    | .line v =>
      if !v.saved then notNow name
      else
        match trySaved s d v v.away with
        | .placed t => .next (clearHead (dropSaved t d v) d)
        | .waking t => if t == s then notNow name else .next t
        | .broken t => .next (abortLaunch t v.launch)
        | .full => noteHead name s d (.line v)
    | _ => notNow name

/-! ### Moving teams between dies (R363, R364) -/

/-- A die's free team slots, and its pairs on which neither core holds a team or a wave. -/
def advertOf (s : State) (d : Nat) : Nat × Nat :=
  let o := dieOcc s d
  let at_ := fun (n : Nat) => o.getD (coreNo d n) {}
  let idle := fun (c : CoreOcc) => c.teams == 0 && c.slices.all fun x => x.slots.isEmpty
  (((List.range 48).map fun n => if coreWorks d n then 16 - (at_ n).teams else 0).sum,
    ((List.range 24).filter fun k =>
      coreWorks d (2 * k) && coreWorks d (2 * k + 1) && idle (at_ (2 * k)) && idle (at_ (2 * k + 1))).length)

/-- TEAM_ADVERT (R363): every 4,096 cycles of control core 0. -/
def execTeamAdvert (s : State) : Host.Outcome State Fault Refusal :=
  let name := "TEAM_ADVERT"
  let d := s.subj.a
  let now := ctlNow s d
  if !lineUp s d || now < (s.die d).advertAt + 4096 then notNow name
  else
    let a := advertOf s d
    let s := s.updDie d fun x => { x with advertAt := now }
    .next (((List.range 4).filter fun k => k != d).foldl (fun s k =>
      s.updDie k fun x => { x with adverts := x.adverts.set d a, blocked := x.blocked.filter fun b => b != d }) s)

/-- TEAM_SEND (R363): a head-of-line team that has waited for 65,536 cycles goes to the lowest die of its launch whose
last advert has room. -/
def execTeamSend (s : State) : Host.Outcome State Fault Refusal :=
  let name := "TEAM_SEND"
  let d := s.subj.a
  let k := s.die d
  let h := headOf s d
  if !lineUp s d || k.flight.isSome || k.returned.isSome then notNow name
  else
    match headName s d h, k.head with
    | some (l, t), some (l', t', since) =>
      let x := s.launch l
      let pair := match h with | .line v => if v.saved then v.pair else x.kernel.pair | _ => x.kernel.pair
      let room := fun (e : Nat) =>
        let a := (k.adverts[e]?).getD (0, 0)
        e != d && !k.blocked.contains e && (if pair then a.2 != 0 else a.1 != 0)
      if l != l' || t != t' || ctlNow s d < since + 65536 || x.co || x.scr then notNow name
      else
        match (diesOf x).find? room with
        | none => notNow name
        | some e =>
          let (s, v) := match h with
            | .line v => (dropSaved s d v, v)
            | .dealt no j => (passDealt s no d j, { launch := no, number := t, saved := false, pair })
            | .none => (s, { launch := l, number := t, saved := false })
          .next (s.updDie d fun x => { x with flight := some (e, v), head := none })
    | _, _ => notNow name

/-- The lowest die whose message is on its way to a die. -/
def sender (s : State) (d : Nat) : Option (Nat × Saved) :=
  (List.range 4).findSome? fun e =>
    match (s.die e).flight with | some (t, v) => if t == d then some (e, v) else none | none => none

/-- TEAM_RECEIVE (R364): a team that arrives is tried at once, and sent back where it does not fit. -/
def execTeamReceive (s : State) : Host.Outcome State Fault Refusal :=
  let name := "TEAM_RECEIVE"
  let d := s.subj.a
  if !lineUp s d then notNow name
  else
    match sender s d with
    | none => notNow name
    | some (e, v) =>
      let land := fun (s : State) => s.updDie e fun x => { x with flight := none }
      if v.hold then .next ((land s).updDie d fun x => { x with line := x.line ++ [{ v with away := true }] })
      else
      match tryMoved s d v true with
      | .placed t => .next (land t)
      | .waking t => if t == s then notNow name else .next t
      | .broken t => .next (abortLaunch t v.launch)
      | .full => .next ((land s).updDie e fun x => { x with returned := some (d, v) })

/-- TEAM_RETURNED (R364): a team that was sent back is the head of its line again, and its die is sent nothing more until
a newer advert. -/
def execTeamReturned (s : State) : Host.Outcome State Fault Refusal :=
  let d := s.subj.a
  match (s.die d).returned with
  | some (e, v) => .next (s.updDie d fun x => { x with returned := none, line := v :: x.line, blocked := e :: x.blocked })
  | none => notNow "TEAM_RETURNED"

/-! ### The launch barrier (R375) -/

/-- Whether a cluster holds a lane of a launch that resumes from the launch barrier. -/
def inRoundAt (s : State) (no d c : Nat) : Bool :=
  s.waves.any fun p => p.2.launch == no && !isCtl p.1 && dieOf p.1 == d && clusterOf (coreOf p.1) == c
    && p.2.lanes.any fun l => l.wait == .inRound

/-- The launch barrier when its count has come to k × nteams at the k-th release: every team's index 4 releases, and the
clusters take their places from the launch's pointer. -/
def releaseLaunch (s : State) (no : Nat) : Option State :=
  match s.launches.find? no with
  | none => none
  | some x =>
    let n := kRead s (x.record + 0x38) 8
    if x.st != .running || !x.co || x.nteams == 0 || n < (x.releases + 1) * x.nteams || !x.rounds.isEmpty then none
    else
      let ts := s.teams.filter fun p => p.2.launch == no && p.2.slot
      let ds := (List.range 4).filter fun d => ts.any fun p => dieOfCore p.2.core == d
      let s := ts.foldl (fun s p => barRelease s p.1 4) s
      let order := (List.range 48).map fun i => (x.pointer + i) % 48
      let rounds := ds.filterMap fun d =>
        let cs := (order.filter fun i => i / 12 == d && inRoundAt s no d (i % 12)).map (· % 12)
        if cs.isEmpty then none else some (d, ctlNow s d, 0, cs)
      let s := s.updLaunch no fun x =>
        { x with releases := x.releases + 1, pointer := (x.pointer + 1) % 48, rounds }
      some (ds.foldl (fun s d => s.note d 18) s)

/-- LAUNCH_BARRIER_RELEASE (R375). A recorded launch releases at its commit rounds (R408). -/
def execLaunchBarrierRelease (s : State) : Host.Outcome State Fault Refusal :=
  let no := s.subj.a
  if (s.launch no).rec_ != 0 then notNow "LAUNCH_BARRIER_RELEASE"
  else match releaseLaunch s no with | some t => .next t | none => notNow "LAUNCH_BARRIER_RELEASE"

/-- The lanes of a cluster that wait for their round go on in one cycle. -/
def admitCluster (s : State) (no d c : Nat) : State :=
  { s with waves := s.waves.map fun p =>
      if p.2.launch == no && !isCtl p.1 && dieOf p.1 == d && clusterOf (coreOf p.1) == c then
        (p.1, p.2.stepLanes (p.2.lanesWhere fun l => l.wait == .inRound) 1)
      else p }

/-- CLUSTER_ADMIT_ROUND (R375): every 256 cycles of its control core 0 a die admits up to four clusters. -/
def execClusterAdmitRound (s : State) : Host.Outcome State Fault Refusal :=
  let name := "CLUSTER_ADMIT_ROUND"
  let d := s.subj.a
  let no := s.subj.b
  match (s.launch no).rounds.find? fun r => r.1 == d with
  | none => notNow name
  | some (_, since, j, cs) =>
    if ctlNow s d < since + 256 * j then notNow name
    else
      let s := (cs.take 4).foldl (fun s c => admitCluster s no d c) s
      let next := fun (r : Nat × Nat × Nat × List Nat) =>
        if r.1 != d then some r else if (cs.drop 4).isEmpty then none else some (d, since, j + 1, cs.drop 4)
      .next (s.updLaunch no fun x => { x with rounds := x.rounds.filterMap next })

end Sys2Proof.Machine
end

