-- ==== Sys2Proof/Machine/Dispatchers.lean ====
section
/-! DEFINITION. The dispatcher of a core (17_isa_control.md R335, R342; 18_scheduling.md R365 to R369): spawn bins,
dispatch queues, ready task records and gathering slots, and the placing of the waves that they form. -/

namespace Sys2Proof.Machine

/-! ### Kernels of formed waves -/

/-- The number by which a formed wave names the launch's own kernel; lower numbers are places in the spawn table. -/
def ownKernel : Nat := 16
def kernelAt (x : Launch) (i : Nat) : Kernel := if i == ownKernel then x.kernel else (x.spawn[i]?).getD {}
/-- The kernel of a launch whose header lies at an address. -/
def kernelNo (x : Launch) (va : Nat) : Option Nat :=
  if x.kernel.va == va then some ownKernel else (x.spawn.zipIdx.find? fun p => p.1.va == va).map Prod.snd

/-- TEAMID of a wave of dispatch items or tasks (R369). -/
def noTeam : Word := BitVec.allOnes 64

/-! ### Bins (R335, R365) -/

/-- A bin forms a wave of the threads that it holds. -/
def formBin (s : State) (core : Nat) (b : Bin) : State :=
  let kn := kernelAt (s.launch b.launch) b.kernel
  s.updCore core fun c => { c with
    bins := c.bins.filter fun x => !(x.launch == b.launch && x.kernel == b.kernel),
    formed := c.formed ++ [{ launch := b.launch, kernel := b.kernel, kind := .spawned, pc := BitVec.ofNat 64 (kn.va + kn.entry),
                             team := ((b.threads.head?).map Thread.team).getD 0, threads := b.threads.map fun t => [t.arg],
                             at_ := s.epoch }] }

/-- BIN_TIMEOUT (R335, R365): a bin that has held its first thread for the launch's bto cycles. Under recording it forms
at the round instead (R407). -/
def execBinTimeout (s : State) : Host.Outcome State Fault Refusal :=
  let name := "BIN_TIMEOUT"
  let core := s.subj.a
  match (s.core core).bins[s.subj.b]? with
  | none => notNow name
  | some b =>
    let x := s.launch b.launch
    if x.rec_ != 0 || s.now core < b.since + x.bto then notNow name else .next (formBin s core b)

/-! ### Dispatch queues (R365, R367) -/

/-- A fault of a dispatcher's read: a parking one waits for its entry, with requester 7, and any other ends the launch
(R367). `stall` keeps the queue from being read meanwhile. -/
def dispatchFault (s : State) (core no : Nat) (e : EErr) (va : Nat) (access : Need) (who : Attached) (stall : Core → Core) : State :=
  let d := dieOfCore core
  let ctx := (s.launch no).ctx
  if parksUnit s d ctx e then
    (queueFault s d
      { ctx, va, access := access.code, fault := (match e with | .xl t _ => faultCode t | _ => 1), requester := 7,
        origin := 64 * d + core % 64, lanes := 1, pc := 0, seq := 0, who }).updCore core stall
  else abortLaunch s no

/-- What a look at one dispatch queue comes to. -/
inductive Taken
  | none
  | done (s : State)

/-- One owner take from the dispatch queue of a launch, whose thread enters its bin; an item whose entry is not in the
spawn table is discarded (R365). -/
def takeItem (s : State) (core no : Nat) (x : Launch) : Taken :=
  let d := dieOfCore core
  let stall := fun (c : Core) => { c with dqStall := no :: c.dqStall }
  let fail := fun (s : State) (e : EErr) (va : Nat) (need : Need) =>
    Taken.done (dispatchFault s core no e va need (.dispatch core no) stall)
  match xlNow s d x.ctx (BitVec.ofNat 64 x.dq) .both with
  | (s, .error t) => fail s (if t == .memUncorr then .bad else .xl t x.dq) x.dq .both
  | (s, .ok pa) =>
    if !isDev pa then .done (abortLaunch s no)
    else
      match queueStep s { die := d, port := slicePort (waveNo core 0 0) pa } d pa x.ctx false false [] 1 with
      | .bad => .done (abortLaunch s no)
      | .fail s .gated _ => .done s
      | .fail s e va => fail s e va .read
      | .ok t items _ =>
        match items.head? with
        | none => .none
        | some (entry, arg) =>
          match spawnKernel s no (bits entry 55 0) with
          | none => .done t
          | some k => if binBusy s core no k then .none else .done (enterBin t core no k { arg, team := noTeam })

/-- The first launch, in order of acceptance, whose dispatch queue gives this core an item. -/
def takeFirst (s : State) (core : Nat) : List (Nat × Launch) → Taken
  | [] => .none
  | (no, x) :: rest =>
    match takeItem s core no x with
    | .none => takeFirst s core rest
    | r => r

/-- Launches by order of acceptance. -/
def byOrder (xs : List (Nat × Launch)) : List (Nat × Launch) :=
  xs.foldl (fun ys p => (ys.takeWhile fun q => q.2.order < p.2.order) ++ p :: ys.dropWhile fun q => q.2.order < p.2.order) []

/-- DISPATCH_TAKE (R354, R365, R366): the dispatcher of a core takes one item. -/
def execDispatchTake (s : State) : Host.Outcome State Fault Refusal :=
  let name := "DISPATCH_TAKE"
  let core := s.subj.a
  let d := dieOfCore core
  let xs := s.launches.filter fun p =>
    p.2.st == .running && p.2.dq != 0 && p.2.dmask.getLsbD d && !((s.core core).dqStall.contains p.1) && !mustFollow s p.2
  if !coreWorks d (core % 64) then notNow name
  else match takeFirst s core (byOrder xs) with | .none => notNow name | .done t => onTime name (.next t)

/-! ### Ready task records (R366 to R368) -/

/-- The running launch that runs a context's ready records on a die. -/
def taskLaunch (s : State) (ctx d : Nat) : Option (Nat × Launch) :=
  List.find? (fun (p : Nat × Launch) => p.2.st == .running && p.2.task && p.2.ctx == ctx && p.2.dmask.getLsbD d && !mustFollow s p.2) s.launches

/-- The gathering slot that a record joins or opens; none where neither is possible. -/
def gatherSlot (c : Core) (no ctx kernel : Nat) (pc : Word) : Option Nat :=
  match List.find? (fun (p : Nat × Gather) => p.2.launch == no && p.2.ctx == ctx && p.2.kernel == kernel && p.2.pc == pc) c.gathering with
  | some p => some p.1
  | none => (List.range 4).find? fun i => (c.gathering.find? i).isNone

/-- A gathering slot forms a wave of the records that it holds. -/
def formGather (s : State) (core slot : Nat) : State :=
  match (s.core core).gathering.find? slot with
  | none => s
  | some g =>
    let f : Formed :=
      { launch := g.launch, kernel := g.kernel, kind := .task, pc := g.pc, team := noTeam, threads := g.recs, at_ := s.epoch }
    s.updCore core fun c => { c with gathering := c.gathering.del slot, formed := c.formed ++ [f] }

/-- What a dispatcher makes of one ready record: it leaves its queue in a new state, stays, or faults. -/
inductive Rec
  | stay
  | taken (s : State) (joins : Bool)
  | fault (s : State) (no : Nat) (e : EErr) (va : Nat)

/-- A record read at .k: translated on the dispatcher's die where it is known by a virtual address (R367). -/
def readRecord (s : State) (d ctx : Nat) (r : Ready) : State × Except EErr (List Byte) :=
  match r.va with
  | some va => unitRead s d ctx va.toNat 160
  | none => physReads s (64 * d) d .k [(r.pa, 160)]

/-- One ready record as a dispatcher looks at it (R366). -/
def lookRecord (s : State) (core : Nat) (r : Ready) : Rec :=
  let d := dieOfCore core
  match taskLaunch s r.ctx d with
  | none => .stay
  | some (no, x) =>
    match readRecord s d r.ctx r with
    | (_, .error .gated) => .stay
    | (s, .error e) => .fault s no e ((r.va.getD (BitVec.ofNat 64 r.pa)).toNat)
    | (s, .ok bs) =>
      let ws := wordsOf bs
      let pc := BitVec.ofNat 64 (bits (wordAt ws 3) 55 0)
      match kernelNo x (bits (wordAt ws 2) 55 0) with
      | none => .taken s false
      | some k =>
        match gatherSlot (s.core core) no r.ctx k pc with
        | none => .stay
        | some i =>
          let g := ((s.core core).gathering.find? i).getD { launch := no, ctx := r.ctx, kernel := k, pc, recs := [], since := if x.rec_ != 0 then s.replay.round else s.now core }
          let g := { g with recs := g.recs ++ [((ws.drop 4).take (bits (wordAt ws 3) 60 56))] }
          let s := s.updCore core fun c => { c with gathering := c.gathering.set i g }
          .taken (if g.recs.length ≥ (kernelAt x k).width then formGather s core i else s) (g.recs.length > 1)

/-- A record of a ready queue as a dispatcher considers it: the queue's die, its place there, and what a look at it comes
to. -/
structure Cand where
  q : Nat
  i : Nat
  r : Ready
  out : Rec

/-- The records of a die's ready queue that are candidates (R368): the first eight of those that are not skipped (R366,
log entry 55), as far as they would be taken or fault. -/
def candidates (s : State) (core q : Nat) : List Cand :=
  if (s.core core).rqStall.contains q then []
  else
    let open_ := (s.die q).ready.zipIdx.filter fun p => (taskLaunch s p.1.ctx (dieOfCore core)).isSome
    ((open_.take 8).map fun p => ({ q, i := p.2, r := p.1, out := lookRecord s core p.1 } : Cand)).filter fun c =>
      match c.out with | .stay => false | _ => true

/-- Whether a launch that runs task records is recorded or replayed: its dispatchers take the oldest (R407). -/
def ranksOff (s : State) : Bool := s.launches.any fun p => p.2.st == .running && p.2.task && p.2.rec_ != 0

/-- The rank of a record (R368): one passed over eight times comes first, then one whose line the instruction cache holds,
which is not architected, then one that joins a slot, then the others. -/
def rankOf (s : State) (c : Cand) : Nat :=
  if c.r.passes ≥ 8 then 0
  else if ranksOff s then 3
  else if (s.free (2 ^ 34 + c.r.pa)).getLsbD 0 then 1
  else match c.out with | .taken _ true => 2 | _ => 3

/-- The rank of a formed wave (R368). -/
def formedRank (s : State) (f : Formed) : Nat :=
  if (s.launch f.launch).rec_ != 0 then 3 else if (s.free (2 ^ 35 + f.pc.toNat)).getLsbD 0 then 1 else 3

/-- The element of least rank, the first among equals. -/
def leastRank {α : Type} (rank : α → Nat) : List α → Option α
  | [] => none
  | c :: cs =>
    match leastRank rank cs with
    | some e => if rank e < rank c then some e else some c
    | none => some c

/-- The record that a dispatcher would take next: of its own die's queue, or, when that is empty, of the first other one
in ascending order that has a candidate (R366). -/
def bestRecord (s : State) (core : Nat) : Option Cand :=
  let d := dieOfCore core
  let qs := if (s.die d).ready.isEmpty then (List.range 4).filter fun q => q != d else [d]
  qs.findSome? fun q => leastRank (rankOf s) (candidates s core q)

/-- Records of a ready queue that a choice has passed over: candidates of the queue that were there before it. -/
def passOver (s : State) (core q : Nat) (before : Ready → Bool) : State :=
  let passed := ((candidates s core q).filter fun c => before c.r).map fun c => c.i
  s.updDie q fun x =>
    { x with ready := x.ready.zipIdx.map fun (p : Ready × Nat) =>
        if passed.contains p.2 then { p.1 with passes := p.1.passes + 1 } else p.1 }

/-- The state after a record has been taken: it leaves its queue, and the older candidates have been passed over. One whose
read faults returns to the head (R367). -/
def takeRecord (s : State) (core : Nat) (c : Cand) : State :=
  let drop := fun (x : Die) => (x.ready.zipIdx.filter fun p => p.2 != c.i).map Prod.fst
  let passed := (candidates s core c.q).filterMap fun e => if e.i < c.i then some e.i else none
  match c.out with
  | .stay => s
  | .taken t _ => t.updDie c.q fun x =>
      { x with ready := (x.ready.zipIdx.filter fun p => p.2 != c.i).map fun (p : Ready × Nat) =>
          if passed.contains p.2 then { p.1 with passes := p.1.passes + 1 } else p.1 }
  | .fault t no e va =>
    dispatchFault (t.updDie c.q fun x => { x with ready := c.r :: drop x }) core no e va .read (.ready core c.q)
      fun k => { k with rqStall := c.q :: k.rqStall }

/-- GATHERING_TIMEOUT (R366): bto cycles after a slot's first record. -/
def execGatheringTimeout (s : State) : Host.Outcome State Fault Refusal :=
  let name := "GATHERING_TIMEOUT"
  let core := s.subj.a
  match (s.core core).gathering.find? s.subj.b with
  | none => notNow name
  | some g =>
    let x := s.launch g.launch
    if x.rec_ != 0 || s.now core < g.since + x.bto then notNow name else .next (formGather s core s.subj.b)

/-! ### Placing a formed wave (R335, R342, R369) -/

/-- A formed wave placed at a spot: a team of one wave without a team slot, whose lanes hold their arguments or saved
registers in v0 and up. -/
def placeFormed (s : State) (core : Nat) (f : Formed) (p : Spot) : State :=
  let x := s.launch f.launch
  let k := kernelAt x f.kernel
  let (tn, s) := s.takeNo
  let key := waveNo p.core p.slice p.slot
  let s := s.setTeam tn { launch := f.launch, core, slot := false, kernel := k.va, waves := [(0, key)] }
  let s := createWave s k
    { kind := f.kind, launch := f.launch, team := tn, teamNo := f.team, waveId := 0, teamSize := k.width, pc := f.pc,
      live := lowMask f.threads.length, seed := seedFormed x.seed f.pc } p
  s.updWave key fun w => f.threads.zipIdx.foldl (fun (w : Wave) t =>
    ((t.1.take k.nv).zipIdx).foldl (fun (w : Wave) r => w.vwrite r.2 t.2 r.1) w) w

/-- The formed waves of a core that a slice of it can take now, in the order in which they formed. -/
def placeable (s : State) (core : Nat) : List (Formed × Spot) :=
  (s.core core).formed.filterMap fun f =>
    (if mustFollow s (s.launch f.launch) then none else formedSpot s core (kernelAt (s.launch f.launch) f.kernel)).map fun p => (f, p)

/-- The formed wave that a dispatcher would place next (R368). -/
def bestFormed (s : State) (core : Nat) : Option (Formed × Spot) := leastRank (fun p => formedRank s p.1) (placeable s core)

/-- Whether a dispatcher takes a record before it places a formed wave: the one of lower rank comes first, and of equals the
older (R368). -/
def recordFirst (s : State) (c : Cand) (f : Formed) : Bool :=
  rankOf s c < formedRank s f || (rankOf s c == formedRank s f && c.r.at_ ≤ f.at_)

/-- READY_RECORD_TAKE (R366, R368): the dispatcher of a core takes a ready record, unless a formed wave is to be placed
first. -/
def execReadyRecordTake (s : State) : Host.Outcome State Fault Refusal :=
  let name := "READY_RECORD_TAKE"
  let core := s.subj.a
  if !coreWorks (dieOfCore core) (core % 64) then notNow name
  else
    match bestRecord s core, bestFormed s core with
    | none, _ => notNow name
    | some c, some (f, _) => if recordFirst s c f then .next (takeRecord s core c) else notNow name
    | some c, none => .next (takeRecord s core c)

/-- WAVE_PLACE (R368, R369): a formed wave is placed once its cluster is powered, unless a record is to be taken first.
Older records have then been passed over. -/
def execWavePlace (s : State) : Host.Outcome State Fault Refusal :=
  let name := "WAVE_PLACE"
  let core := s.subj.a
  match bestFormed s core with
  | none => notNow name
  | some (f, p) =>
    let c := bestRecord s core
    if c.any fun c => recordFirst s c f then notNow name
    else
      let t := wakeCore s core
      if coreOn t core then
        let t := match c with | some c => passOver t core c.q fun r => r.at_ ≤ f.at_ | none => t
        .next (placeFormed (t.updCore core fun c => { c with formed := c.formed.erase f }) core f p)
      else if t == s then notNow name
      else .next t

end Sys2Proof.Machine
end

