-- ==== Sys2Proof/Machine/Gather.lean ====
section
/-! DEFINITION. Gathers, scatters and scatter-reduces at the home slices (04_home_slices.md R74, R75; 11_isa_memory.md
R201). -/

namespace Sys2Proof.Machine

/-! ### The command (R201) -/

/-- The fields of a gather or scatter. -/
structure GatherCmd where
  base : Nat
  op : Nat
  list : Nat
  pack : Nat
  stride : Nat
  limit : Nat
  size : Nat
  bad : Bool
deriving DecidableEq, Repr

/-- The reduction of an op code; 6 is the binned add. -/
def scatOp : Nat → Option ROp
  | 0 => some .add | 1 => some .min | 2 => some .max | 3 => some .and | 4 => some .or | 5 => some .xor
  | _ => none

/-- The types that an op takes (R66). -/
def scatTypes (op : Nat) (ty : MTy) : Bool :=
  let int := [MTy.i32, .i64, .n32, .n64].contains ty
  match op with
  | 0 => int
  | 1 | 2 => int || ty == .f32 || ty == .f64
  | 3 | 4 | 5 => ty == .b32 || ty == .b64
  | 6 => [MTy.f64, .f32, .f16, .bf16].contains ty
  | _ => false

def gatherCmd (x : Cmd) : GatherCmd :=
  let w := fun i => wordAt x.words i
  let red := x.kind == .scatr
  let op := bits (w 1) 63 61
  let esz := bits (w 1) 58 56
  let size := if red then (if op = 6 then 32 else x.ty.bytes) else 4 * 2 ^ esz
  let stride := bits (w 3) 63 32
  let unit := min size 32
  let base := bits (w 0) 55 0
  let pack := bits (w 2) 55 0
  let list := bits (w 1) 55 0
  { base, op, list, pack, stride, limit := bits (w 3) 31 0, size,
    bad := bits (w 0) 63 56 != 0 || bits (w 1) 60 59 != 0 || bits (w 2) 63 56 != 0
      || (if red then op == 7 || esz != 0 || !scatTypes op x.ty else op != 0 || esz ≥ 6)
      || x.count > 2 ^ 20 || base % unit != 0 || pack % unit != 0 || stride % unit != 0 || list % 4 != 0 }

/-- GATHER_SCATTER_RUN (R74, R201): the command is checked and goes to the home slice of the first byte of its list. -/
def execGatherScatterRun (s : State) : Host.Outcome State Fault Refusal :=
  let name := "GATHER_SCATTER_RUN"
  let no := s.subj.a
  match s.cmds.find? no with
  | none => notNow name
  | some x =>
    let is := match x.kind with | .gath | .scat | .scatr => true | _ => false
    if !is || x.held || x.st != .queued then notNow name
    else
      let g := gatherCmd x
      if g.bad then .next (endCmd s no 5)
      else if x.count = 0 then .next (endCmd s no 0)
      else
        let d := cmdDie x
        match xlNow s d x.ctx (BitVec.ofNat 64 g.list) .read with
        | (s, .ok pa) => .next (updCmd s no fun x => { x with st := .running, eng := homeDie pa d })
        | (s, .error t) =>
          let e := EErr.xl t g.list
          if parksUnit s d x.ctx e then
            .next (queueFault (updCmd s no fun x => { x with st := .parked }) d (cmdFault x no 0 g.list .read t 0))
          else .next (endCmd s no (if t == .memUncorr then 2 else 3))

/-! ### Positions (R74, R75) -/

/-- An access of a position that failed. -/
def posFail (s : State) (no i : Nat) (x : Cmd) (need : Need) (e : EErr) : State :=
  let un := x.units.getD i {}
  let put := fun (s : State) (un : EUnit) (f : Cmd → Cmd) => updCmd s no fun x => f { x with units := x.units.set i un }
  if e == .gated then s
  else if parksUnit s x.eng x.ctx e then
    match e with
    | .xl t va => queueFault (put s { un with parked := true } id) x.eng (cmdFault x no i va need t 0)
    | _ => s
  else put s { un with failed := some (statusOf e) } fun x => x.failWith (statusOf e)

/-- n bytes read at a scope by the home slice of the list, for the issuing core. -/
def posRead (s : State) (x : Cmd) (va n : Nat) (sc : Scope) : State × Except EErr (List Byte) :=
  match unitXl s x.eng x.ctx .read (piecesOf va n) with
  | (s, .ok ps) => physReads (ps.foldl (fun s p => arriveLines s (cmdDie x) p.1 p.2) s) x.core (cmdDie x) sc ps
  | (s, .error e) => (s, .error e)

/-- Bytes written for the issuing core. -/
def posWrite (s : State) (x : Cmd) (va : Nat) (bs : List Byte) : State × Option EErr :=
  match unitXl s x.eng x.ctx .write (piecesOf va bs.length) with
  | (s, .ok ps) => physWrites (ps.foldl (fun s p => arriveLines s (cmdDie x) p.1 p.2) s) (cmdDie x) x.ctx ps bs
  | (s, .error e) => (s, some e)

/-- One element of a scatter-reduce at its home slice (R66, R67, R72). -/
def posReduce (s : State) (x : Cmd) (g : GatherCmd) (va : Nat) (bs : List Byte) : State × Option EErr :=
  let d := cmdDie x
  match xlNow s x.eng x.ctx (BitVec.ofNat 64 va) .both with
  | (s, .error t) => (s, some (if t == .memUncorr then .bad else .xl t va))
  | (s, .ok pa) =>
    if isMap pa then (s, some (.width va))
    else if unmapped s pa then (logFail s d pa g.size .unmapped, some .unmapped)
    else if anyBad s pa g.size then (logFail s d pa g.size .bad, some .bad)
    else
      let s := dropCopies (arriveLines (dropVisitorLine s d pa) d pa g.size) d pa g.size
      let data := BitVec.ofNat 64 (ofBytes (bs.take x.ty.bytes))
      match place pa with
      | .peer _ _ => (s, none)
      | _ =>
        if s.replay.writer.isSome then
          let (k, q) := s.replay.writer.getD (0, 0)
          ({ s with replay := { s.replay with buffer := s.replay.buffer
               ++ [{ wave := k, seq := q, pa, bytes := bytesOf data.toNat 8, op := some (scatOp g.op, x.ty) }] } }, none)
        else
        match scatOp g.op with
        | some op =>
          let n := x.ty.bytes
          ((s.layerRead pa n).homeWrite pa (bytesOf (homeArith op x.ty (kRead s pa n) data.toNat) n), none)
        | none => (binAdd s pa x.ty data, none)

/-- Whether an earlier position of a scatter with the same index has still to be written (R75). -/
def earlierSame (x : Cmd) (i : Nat) (idx : List Nat) : Bool :=
  x.units.any fun p => p.1 < i && !p.2.over && p.2.got == some idx

/-- The next step of a position of a gather or scatter. -/
def gatherElement (s : State) : Host.Outcome State Fault Refusal :=
  let name := "GATHER_ELEMENT"
  let no := s.subj.a
  let i := s.subj.b
  match s.cmds.find? no with
  | none => notNow name
  | some x =>
    let is := match x.kind with | .gath | .scat | .scatr => true | _ => false
    let un := x.units.getD i {}
    if !is || x.st != .running || i ≥ x.count || un.over || un.parked then notNow name
    else
      let g := gatherCmd x
      let put := fun (s : State) (un : EUnit) (f : Cmd → Cmd) => updCmd s no fun x => f { x with units := x.units.set i un }
      match un.got with
      | none =>
        -- indexes are read in ascending position
        if x.phase != i then notNow name
        else
          match posRead s x (g.list + 4 * i) 4 .k with
          | (s, .error e) =>
            let t := posFail s no i x .read e
            let failed := match t.cmds.find? no with | some y => (y.units.getD i {}).failed.isSome | none => false
            .next (if failed then updCmd t no fun y => { y with phase := i + 1 } else t)
          | (s, .ok bs) =>
            let idx := ofBytes bs
            let out := idx != 0xFFFFFFFF && idx ≥ g.limit
            let skip := idx == 0xFFFFFFFF || out
            .next (put s { un with got := some [idx], done := skip } fun x => { x with phase := i + 1, range := x.range || out })
      | some idx =>
        let elem := (g.base + nth idx 0 * g.stride) % 2 ^ 64
        let packed := (g.pack + i * g.size) % 2 ^ 64
        if x.kind != .gath && earlierSame x i idx then notNow name
        else
          let (src, dst, sc) := if x.kind == .gath then (elem, packed, x.scope) else (packed, elem, .k)
          match posRead s x src (if x.kind == .scatr then x.ty.bytes else g.size) sc with
          | (s, .error e) => .next (posFail s no i x .read e)
          | (s, .ok bs) =>
            let r := if x.kind == .scatr then posReduce s x g dst bs else posWrite s x dst bs
            match r with
            | (s, none) => .next (put s { un with done := true } id)
            | (s, some e) => .next (posFail s no i x (if x.kind == .scatr then .both else .write) e)

/-- GATHER_ELEMENT (R74, R75): the index of the next position is read, or a position whose index is known is moved.
`b` is the position. -/
def execGatherElement (s : State) : Host.Outcome State Fault Refusal :=
  buffered "GATHER_ELEMENT" s (s.cmds.find? s.subj.a) gatherElement

end Sys2Proof.Machine
end

