-- ==== Sys2Proof/Machine/Power.lean ====
section
/-! DEFINITION. Power and thermal control (21_power_thermal.md R413 to R423, 02_main_memory.md R38, R41). -/

namespace Sys2Proof.Machine

/-! ### The requested and the actual point (R413, R414) -/

def clockBits (x : Word) : Nat := bits x 43 32
def voltBits (x : Word) : Nat := bits x 11 0

/-- A requested point clamped to the fused limits: clock and voltage, and whether either changed. -/
def clampPoint (set lim : Word) : Move × Bool :=
  let clock := min (max (clockBits set) 100) (clockBits lim)
  let volt := min (max (voltBits set) (bits lim 27 16)) (voltBits lim)
  ({ clock, volt }, clock != clockBits set || volt != voltBits set)

/-- The point that a cluster's request comes to. -/
def wantedPoint (s : State) (d c : Nat) : Move := (clampPoint (s.reg d (pcSet c)) (s.reg d (pcLim c))).1

/-- Clock and voltage of PC_ACTc changed. -/
def actPoint (s : State) (d c clock volt : Nat) : State :=
  let x := s.reg d (pcAct c)
  let y := BitVec.ofNat 64 (bits x 63 60 * 2 ^ 60 + clock * 2 ^ 32 + volt)
  if x == y then s else s.updReg d (pcAct c) y

/-- The regulator of a powered cluster starts to move. -/
def moveTo (s : State) (d c : Nat) (m : Move) : State :=
  let k := clusterAt s d c
  match k.gate with
  | .on | .hold _ =>
    let x := s.reg d (pcAct c)
    setCluster s d c { k with move := if clockBits x == m.clock && voltBits x == m.volt then none else some m }
  | _ => s

/-- A write of PC_SETc (R414, R418, R419). -/
def pcSetWrite (s : State) (d c : Nat) (x : Word) : State :=
  let x := fieldWord x [(63, 63), (43, 32), (11, 0)]
  let old := s.reg d (pcSet c)
  let s := s.setReg d (pcSet c) x
  let (m, clamped) := clampPoint x (s.reg d (pcLim c))
  let s := moveTo (actBit s d c 60 clamped) d c m
  let raises := match (clusterAt s d c).gate with
    | .hold _ => m.clock > (clampPoint old (s.reg d (pcLim c))).1.clock
    | _ => false
  if !bit x 63 || raises then wakeCluster s d c else s

/-- PC_SET_WRITE (R414). -/
def execPcSetWrite (s : State) : Host.Outcome State Fault Refusal :=
  ctlEvent "PC_SET_WRITE" s s.subj.a (pcSet s.subj.b) (fun x => s.subj.b < 12 && x == s.subj.val) fun t x _ =>
    pcSetWrite t s.subj.a s.subj.b x

/-- REGULATOR_STEP (R414): a rising voltage comes first, then the clock, then a falling voltage. -/
def execRegulatorStep (s : State) : Host.Outcome State Fault Refusal :=
  let d := s.subj.a
  let c := s.subj.b
  let k := clusterAt s d c
  match k.move with
  | none => notNow "REGULATOR_STEP"
  | some m =>
    let x := s.reg d (pcAct c)
    let clock := clockBits x
    let volt := voltBits x
    let s := if volt < m.volt then actPoint s d c clock m.volt
      else if clock != m.clock then actPoint s d c m.clock volt
      else actPoint s d c clock m.volt
    .next (moveTo s d c m)

/-! ### Slice ratios (R415) -/

/-- The ratio of a slice: the fastest that a resident wave requests, limited by the cap. -/
def sliceRatio (s : State) (core sl : Nat) : Nat :=
  let ws : List (Nat × Wave) := s.waves.filter fun p => p.1 / 32 == 8 * core + sl
  if ws.isEmpty then 3
  else max (ws.foldl (fun m p => min m p.2.ratio.toNat) 3) (bits (s.reg (dieOfCore core) (pcCap (clusterOf core))) 17 16)

/-- SLICE_RATIO_UPDATE (R415). -/
def execSliceRatioUpdate (s : State) : Host.Outcome State Fault Refusal :=
  let core := s.subj.a
  if core ≥ 256 || !coreWorks (core / 64) (core % 64) || !coreOn s core || s.now core < (s.core core).ratioAt + 256 then
    notNow "SLICE_RATIO_UPDATE"
  else
    .next (s.updCore core fun k =>
      { k with ratio := (List.range 6).map (sliceRatio s core), ratioAt := k.ratioAt + 256 })

/-! ### The power meter and grants (R41, R416, R417) -/

/-- Energy that the coding events of a window earn, in units of 0.1 pJ (R41): inverted byte-beats on GDDR 7 and on die
links, and elided zero sectors. -/
def codingCredit (ns : List Nat) : Nat :=
  11 * (ns[0]?).getD 0 + 6 * (ns[1]?).getD 0 + 2000 * (ns[2]?).getD 0

def saturate (n : Nat) : Word := BitVec.ofNat 64 (min n (2 ^ 64 - 1))

/-- The grant budget of a cluster after a window of 2,048 cycles: energy in nJ, cap in 1/8 W, clock in
MHz. -/
def newGrant (g energy cap clock : Nat) : Nat :=
  if cap = 0 then 4
  else if energy * clock > cap * 256000 then max (g - 1) 1
  else if 10 * energy * clock ≤ 9 * cap * 256000 then min (g + 1) 4
  else g

/-- GRANT_WINDOW (R41, R416, R417): a window of 2,048 cycles of a cluster ends. Its energy is counted, with what the
rest of the die used and earned, and a capped cluster's budget is set. -/
def execGrantWindow (s : State) : Host.Outcome State Fault Refusal :=
  let d := s.subj.a
  let c := s.subj.b
  let k := clusterAt s d c
  if d ≥ 4 || c ≥ 12 || clusterNow s d c < k.last + 2048 then notNow "GRANT_WINDOW"
  else
    let ns := s.subj.nums
    let total := (s.die d).credit + codingCredit ns
    let earned := total / 10000 - (s.die d).credit / 10000
    let add := fun (s : State) (off n : Nat) => s.setReg d off (saturate ((s.reg d off).toNat + n))
    let g := newGrant (grantOf s d c) s.subj.c (bits (s.reg d (pcCap c)) 15 0) (clockBits (s.reg d (pcAct c)))
    let s := setCluster s d c { k with last := k.last + 2048 }
    let s := add (add (add s 0x1020 ((ns[0]?).getD 0 + (ns[1]?).getD 0)) 0x1028 ((ns[2]?).getD 0)) 0x1030 earned
    let s := (add s (pcEn c) s.subj.c).updDie d fun x => { x with credit := total }
    let s := s.setReg d pcEdie (saturate ((s.reg d pcEdie).toNat + s.subj.c + s.subj.d - earned))
    .next (setGrant s d c g)

/-! ### Gating (R418 to R420) -/

/-- Whether an access to a core's window is on its way. -/
def winPending (s : State) (core : Nat) : Bool :=
  s.txs.any fun p => p.2.accs.any fun a =>
    reached p.2 a < 3 && (match place a.pa with | .win c _ => c == core | _ => false)

/-- A core that keeps its cluster from being idle (R418). -/
def coreBusy (s : State) (core : Nat) : Bool :=
  let k := s.core core
  (s.teams.any fun p => p.2.core == core || (p.2.pair && p.2.core + 1 == core))
  || (s.waves.any fun p => !isCtl p.1 && coreOf p.1 == core)
  || !k.mq.isEmpty || !k.beam.walks.isEmpty || !k.stream0.isEmpty || !k.stream1.isEmpty
  || !k.bins.isEmpty || !k.gathering.isEmpty || !k.formed.isEmpty || winPending s core

def clusterIdle (s : State) (d c : Nat) : Bool := !((clusterCores d c).any (coreBusy s))

/-- What a core keeps when its cluster is gated: SRAM, registers, accumulator memory and weights are lost (R418). -/
def loseCore (s : State) (core : Nat) : State :=
  s.updCore core fun k => { k with sram := [], acc := [], raw := [], l1 := [], active := none, shadow := none, gatings := k.gatings + 1 }

/-- CLUSTER_GATE (R418): an idle cluster whose GATE is 1 enters the break-even hold, and at the end of the hold it is
gated. -/
def execClusterGate (s : State) : Host.Outcome State Fault Refusal :=
  let name := "CLUSTER_GATE"
  let d := s.subj.a
  let c := s.subj.b
  let k := clusterAt s d c
  let now := clusterNow s d c
  if d ≥ 4 || c ≥ 12 || !bit (s.reg d (pcSet c)) 63 || !clusterIdle s d c then notNow name
  else
    match k.gate with
    | .on => .next (actBit (setCluster s d c { k with gate := .hold now }) d c 61 true)
    | .hold since =>
      if now < since + bits (s.reg d pcHold) 15 0 * 64 then notNow name
      else
        let s := setCluster s d c { k with gate := .off, move := none }
        let x := s.reg d (pcAct c)
        let s := s.updReg d (pcAct c) (BitVec.ofNat 64 (2 ^ 63 + bits x 60 60 * 2 ^ 60))
        .next ((clusterCores d c).foldl loseCore s)
    | _ => notNow name

/-- RAMP_END (R420): the cluster is powered at its requested point, and the arbiter starts the next ramp. -/
def execRampEnd (s : State) : Host.Outcome State Fault Refusal :=
  let d := s.subj.a
  let c := s.subj.b
  let k := clusterAt s d c
  match k.gate with
  | .ramp =>
    let s := setCluster s d c { k with gate := .on, move := none }
    let m := wantedPoint s d c
    let x := s.reg d (pcAct c)
    let s := s.updReg d (pcAct c) (BitVec.ofNat 64 (bits x 60 60 * 2 ^ 60 + m.clock * 2 ^ 32 + m.volt))
    .next (startRamp s d)
  | _ => notNow "RAMP_END"

/-! ### Readings (R38, R39, R421, R422) -/

/-- The fused limit, 95.0 °C in 1/16 °C. -/
def tlim : Nat := 0x5F0

/-- The allowance at a reading. -/
def allowAt (temp : Nat) : Nat := ((tlim : Int) - sext temp 16).toNat

/-- The stacked layer's refresh after a reading of its sensors (R38): above 85.0 °C it doubles, at 82.0 °C or less in all
it is normal again. -/
def layerAfter (hot : Bool) (ts : List Nat) : Bool :=
  if ts.any fun t => sext t 16 > 1360 then true
  else if ts.all fun t => sext t 16 ≤ 1312 then false
  else hot

/-- MS_REF after a reading. -/
def refreshStep (s : State) (d : Nat) (ts : List Nat) : State :=
  let hot := (s.die d).layerHot
  let now := layerAfter hot ts
  if now == hot then s
  else
    let n := (s.reg d Off.msRef).toNat / 2
    let s := s.updDie d fun k => { k with layerHot := now }
    if now then (s.updReg d Off.msRef (BitVec.ofNat 64 (2 * (n + 1) + 1))).note d 19
    else s.updReg d Off.msRef (BitVec.ofNat 64 (2 * n))

/-- A thermal register at a reading. -/
def thermalWord (ref thr : Bool) (seq temp : Nat) : Word :=
  BitVec.ofNat 64 (ref.toNat * 2 ^ 63 + thr.toNat * 2 ^ 62 + seq % 256 * 2 ^ 48 + tlim * 2 ^ 32 + temp % 2 ^ 16 * 2 ^ 16
    + allowAt temp % 2 ^ 16)

/-- A cluster's clock after a reading (R422), and THR: none leaves both. -/
def thermalMove (thr : Bool) (least actual request : Nat) : Option Nat × Bool :=
  if least = 0 then (some (if actual ≤ 500 then actual else max (actual - 100) 500), true)
  else if 80 ≤ least then
    let c := min (actual + 100) request
    (if actual < request then some c else none, thr && c < request)
  else (none, thr)

/-- One cluster at a reading of the die's 48 sensors. -/
def thermalCluster (s : State) (d c : Nat) (ts : List Nat) : State :=
  let cores := (clusterCores d c).filter fun k => coreWorks d (k % 64)
  let temp := fun (core : Nat) => (ts[core % 64]?).getD 0
  let least := cores.foldl (fun m k => min m (allowAt (temp k))) (2 ^ 16)
  let thr := cores.any fun k => bit (s.core k).thermal 62
  let x := s.reg d (pcAct c)
  let on := match (clusterAt s d c).gate with | .on | .hold _ => true | _ => false
  let (move, thr) := if on && !cores.isEmpty then thermalMove thr least (clockBits x) (wantedPoint s d c).clock else (none, thr)
  let s := match move with
    | some clock => moveTo s d c { clock, volt := (wantedPoint s d c).volt }
    | none => s
  cores.foldl (fun s k =>
    (s.updCore k fun y =>
      { y with thermal := thermalWord (s.die d).layerHot thr (bits y.thermal 55 48 + 1) (temp k) }).present
      (State.winPa k 0x4000200)) s

/-- THERMAL_READING (R38, R421, R422): `nums` are the 48 core sensors of a die and `nums2` the four of its stacked layer,
in 1/16 °C as 16-bit two's complement. -/
def execThermalReading (s : State) : Host.Outcome State Fault Refusal :=
  let d := s.subj.a
  if !s.dev.up || d ≥ 4 || s.subj.nums.length != 48 || s.subj.nums2.length != 4 then notNow "THERMAL_READING"
  else .next ((List.range 12).foldl (fun s' c => thermalCluster s' d c s.subj.nums) (refreshStep s d s.subj.nums2))

end Sys2Proof.Machine
end

