-- ==== Sys2Proof/Machine/Traps.lean ====
section
/-! DEFINITION. The trap ring, the actions on traps, and control cores that trap (19_faults_preemption.md R380 to R384).
Taking a trap is `State.takeTrap`, and the return from one `State.returnFrom`. -/

namespace Sys2Proof.Machine

/-! ### The ring (R380, R381) -/

/-- The class of a trap: 0 precise, 1 deferred, 2 wave. A deferred one stopped no lane group at its word. -/
def TrapRec.cls (r : TrapRec) : Nat := if r.trap == .rejoinCycle then 2 else if r.group == 0 then 1 else 0

/-- Word 0x00 of a record: what trapped, and where. -/
def TrapRec.word0 (r : TrapRec) : Word :=
  let place := if isCtl r.wave then dieOf r.wave * 2 ^ 50
    else dieOf r.wave * 2 ^ 50 + coreOf r.wave % 64 * 2 ^ 44 + sliceOf r.wave * 2 ^ 41 + slotOf r.wave * 2 ^ 36
  BitVec.ofNat 64 (r.trap.code * 2 ^ 56 + r.cls * 2 ^ 54 + place + r.ctx)

/-- The eight words of a record. -/
def TrapRec.words (s : State) (r : TrapRec) : List Nat :=
  let x := s.launch r.launch
  [r.word0.toNat, r.lanes.toNat, r.pc.toNat, r.seq.toNat * 2 ^ 32 + r.waveId * 2 ^ 23 + r.ucode, r.value.toNat,
   bits r.team 31 0 * 2 ^ 32 + x.queue * 2 ^ 26 + x.slot * 2 ^ 16 + r.part * 2 ^ 8 + r.parts, 0, 0]

/-- The oldest part of a trap of a wave of the die that is not in the ring. -/
def nextRecord (s : State) (d : Nat) : Option TrapRec :=
  (s.die d).traps.find? fun r => r.written.isNone && !isCtl r.wave

/-- TRAP_RECORD_WRITE (R380): a record is written at TR_TAIL, which then advances, while the ring is enabled and has
room. -/
def execTrapRecordWrite (s : State) : Host.Outcome State Fault Refusal :=
  let name := "TRAP_RECORD_WRITE"
  let d := s.subj.a
  let base := s.reg d Off.trBase
  let size := 2 ^ (bits base 3 0 + 6)
  let tail := (s.reg d Off.trTail).toNat
  let used := (tail + 2 ^ 32 - (s.reg d Off.trHead).toNat % 2 ^ 32) % 2 ^ 32
  match nextRecord s d with
  | none => notNow name
  | some r =>
    if !bit base 4 || used ≥ size then notNow name
    else
      let s := s.ringWrite d (bits base 51 12 * 4096 + 64 * (tail % size)) ((r.words s).flatMap fun x => bytesOf x 8)
      let mark := fun (q : TrapRec) => if q.id == r.id && q.part == r.part then { q with written := some (BitVec.ofNat 32 tail) } else q
      let s := s.updDie d fun x => { x with traps := x.traps.map mark }
      .next ((s.updReg d Off.trTail (BitVec.ofNat 64 ((tail + 1) % 2 ^ 32))).note d 14)

/-- A write of TR_BASE (R381): one with n above 8 is ignored. -/
def trBaseWrite (s : State) (d : Nat) (x : Word) : State :=
  if bits x 3 0 > 8 then s else s.setReg d Off.trBase (fieldWord x [(51, 12), (4, 4), (3, 0)])

/-- TR_BASE_WRITE (R381). -/
def execTrBaseWrite (s : State) : Host.Outcome State Fault Refusal :=
  let d := s.subj.a
  ctlEvent "TR_BASE_WRITE" s d Off.trBase (fun x => x == s.subj.val) fun s x _ => trBaseWrite s d x

/-! ### Actions (R343, R382) -/

/-- The word that a trap names, as its context reads it. -/
def trapWord? (s : State) (d : Nat) (r : TrapRec) : Option Word :=
  match xlNow s d r.ctx r.pc .fetch with
  | (_, .ok pa) => match physRead s pa 8 with | .ok x => some (BitVec.ofNat 64 x) | _ => none
  | _ => none

def trapWord (s : State) (d : Nat) (r : TrapRec) : Word := (trapWord? s d r).getD 0

/-- Whether a trap stands at a clause header: its word is one, or cannot be read where one is due. -/
def atHeader (s : State) (d : Nat) (r : TrapRec) : Bool :=
  match trapWord? s d r with
  | some x => bits x 63 62 == 3
  | none => (s.waveAt r.wave r.serial).any fun w => (w.lane (lowest r.group)).cl == .header

/-- The words from a trap's program counter to the next instruction: two where a prefix leads. A group that stopped
past the word it names, as at a comparator's breakpoint, stands at its next word already. -/
def trapSpan (s : State) (d : Nat) (r : TrapRec) : Nat :=
  match s.waveAt r.wave r.serial with
  | some w =>
    if (w.lane (lowest r.group)).pc != r.pc then 0
    else if bits (trapWord s d r) 63 62 == 2 then 2
    else 1
  | none => 0

/-- RESUME: the group issues the word again, or goes on past a USER or BREAKPOINT; every group goes on after a deferred
trap; the groups of a REJOIN_CYCLE wait again, and the cycle traps again. -/
def trapResume (s : State) (d : Nat) (idx : BitVec 32) : State :=
  match s.trapAt d idx with
  | none => s
  | some r =>
    match r.cls with
    | 0 => s.returnFrom d r (if r.trap == .user || r.trap == .breakpoint then trapSpan s d r else 0)
    | 1 => s.endTrap d r
    | _ => rejoinTest (s.endTrap d r) r.wave

/-- SKIP: the group goes on at the next word; at a clause header, and for REJOIN_CYCLE, as ABORT. -/
def trapSkip (s : State) (d : Nat) (idx : BitVec 32) : State :=
  match s.trapAt d idx with
  | none => s
  | some r =>
    match r.cls with
    | 0 => if atHeader s d r then abortLaunch s r.launch else s.returnFrom d r (trapSpan s d r)
    | 1 => s.endTrap d r
    | _ => abortLaunch s r.launch

/-- ABORT: the launch ends FAULTED. -/
def trapAbort (s : State) (d : Nat) (idx : BitVec 32) : State :=
  match s.trapAt d idx with
  | none => s
  | some r => abortLaunch s r.launch

/-- A write of TR_ACT that gives an action on an index. -/
def trAct (name : String) (s : State) (act : Nat) (effect : State → Nat → BitVec 32 → State) :
    Host.Outcome State Fault Refusal :=
  let d := s.subj.a
  ctlEvent name s d Off.trAct (fun x => bits x 63 61 == act && bits x 31 0 == s.subj.b) fun s x _ =>
    effect s d (BitVec.ofNat 32 (bits x 31 0))

/-- TRAP_RESUME (R382). -/
def execTrapResume (s : State) : Host.Outcome State Fault Refusal := trAct "TRAP_RESUME" s 1 trapResume
/-- TRAP_SKIP (R382). -/
def execTrapSkip (s : State) : Host.Outcome State Fault Refusal := trAct "TRAP_SKIP" s 2 trapSkip
/-- TRAP_ABORT (R382). -/
def execTrapAbort (s : State) : Host.Outcome State Fault Refusal := trAct "TRAP_ABORT" s 3 trapAbort

/-! ### Control cores (R383, R384) -/

/-- Whether the launch has a team dealt to a die. -/
def dealtTo (x : Launch) (d : Nat) : Bool := match shareOf x d with | some (_, n) => n != 0 | none => false

/-- Whether a team of a launch waits in the restore line of a die. -/
def waitsIn (s : State) (no d : Nat) : Bool := (s.die d).line.any fun v => v.launch == no

/-- The launches that end FAULTED as a control core is reset (R384): the running ones of the queues it serves, and for
control core 0 those with a team dealt to its die, or waiting in its restore line. -/
def faultedBy (s : State) (d k : Nat) : List (Nat × Launch) :=
  s.launches.filter fun p =>
    p.2.st == .running && (serverOf p.2.queue == (d, k) || (k == 0 && (dealtTo p.2 d || waitsIn s p.1 d)))

/-- A control core is taken out of service by a reset: what it had outstanding is discarded, and launches end FAULTED with
it (R384). -/
def resetControl (s : State) (d k : Nat) : State :=
  let key := ctlNo d k
  let s := (faultedBy s d k).foldl (fun s p => abortLaunch s p.1) s
  let s := freeWave s key
  { s with dies := s.dies.map fun (p : Nat × Die) => (p.1, { p.2 with traps := p.2.traps.filter fun r => r.wave != key }) }

/-- CONTROL_CORE_TRAP (R383, R429): the monitor logs the trap of a control core and resets it. -/
def execControlCoreTrap (s : State) : Host.Outcome State Fault Refusal :=
  let d := s.subj.a
  let k := s.subj.b
  match (s.die d).traps.find? fun r => r.wave == ctlNo d k with
  | some r => if k < 2 then .next (resetControl (s.elog 2 d 0 r.word0) d k) else notNow "CONTROL_CORE_TRAP"
  | none => notNow "CONTROL_CORE_TRAP"

/-- A control core as it starts: one lane at the image's entry, in context 0. -/
def freshControl (serial : Nat) : Wave :=
  { kind := .control, serial, width := 1, nv := 0, ns := 256, lanes := [{ pc := Config.ctlEntry }], teamSize := 1 }

/-- CONTROL_CORE_RESTART (R384): a control core starts again, and its queues are read from their heads. -/
def execControlCoreRestart (s : State) : Host.Outcome State Fault Refusal :=
  let d := s.subj.a
  let k := s.subj.b
  if s.dev != .running || d ≥ 4 || k ≥ 2 || (s.wave? (ctlNo d k)).isSome then notNow "CONTROL_CORE_RESTART"
  else
    let s := { s with seen := s.seen.filter fun p => serverOf p.1 != (d, k), serial := s.serial + 1 }
    .next (s.setWave (ctlNo d k) (freshControl s.serial))

end Sys2Proof.Machine
end

