-- ==== Sys2Proof/Machine/HostLink.lean ====
section
/-! DEFINITION. The host link, the peers and the firmware (04_home_slices.md R67, 16_consistency.md R321,
22_host_firmware.md R425 to R436): host accesses of device memory and of the host control page, requests of peers, the
mailbox commands of the security monitor, and bring-up. -/

namespace Sys2Proof.Machine

/-! ### Device memory over the host link (R28, R34, R36, R321, R428) -/

/-- Whether a range meets the spill area of its die, which the Leash alone reaches (R79). -/
def meetsSpill (s : State) (a n : Nat) : Bool :=
  let r := s.reg (a / 2 ^ 36) Off.lsSpillbase
  bit r 0 && a < bits r 51 12 * 4096 + 24 * 2 ^ bits r 4 1 * 256 && bits r 51 12 * 4096 < a + n

/-- Whether n bytes at a are device memory that an outside requester reaches: of one die, since holes lie between the dies'
memories (R27). -/
def reachable (s : State) (a n : Nat) : Bool :=
  n != 0 && isDev a && isDev (a + n - 1) && a / 2 ^ 36 == (a + n - 1) / 2 ^ 36 && !meetsSpill s a n

/-- The firmware region, whose first 4 KiB hold the launch queue table (R428). -/
def inFirmware (a n : Nat) : Bool := a < 0x4000000 && 0x1000 < a + n

/-- Host-link requests for each line of n bytes reach their slices through the port-die link (R68). -/
def arriveLink (s : State) (a n : Nat) : State :=
  (List.range ((a + n + 127) / 128 - a / 128)).foldl (fun s i => s.arrive 70 (max a (128 * (a / 128 + i)))) s

def devFailed (s : State) : Bool := match s.dev with | .failed _ => true | _ => false

/-- A violation of BAR0 or of the firmware region is logged (R426, R428, R429), but where bring-up has failed and no monitor
runs (R435). -/
def violation (s : State) (a : Nat) : State := if devFailed s then s else s.elog 5 0 0 (BitVec.ofNat 64 a)

/-- Whether an access is an atomic or reduction in flight on n bytes of host memory. -/
def atomicOn (t : Tx) (x : Acc) (a n : Nat) : Bool :=
  (match t.kind with | .atomic _ | .exch | .cas | .reduce _ | .badd => true | _ => false)
    && x.failed.isNone && !x.done && x.pa < a + n && a < x.pa + x.n

/-- A write of the host in its own memory: the copies of home slices stay as they are (R321). Bytes that an atomic in flight
works on receive undefined values, now where it has been performed, else when it is (R67). -/
def hostOwn (s : State) (a : Nat) (bs : List Byte) : State :=
  let n := bs.length
  let free := fun (b : Nat) => s.txs.any fun p => p.2.accs.any fun x => atomicOn p.2 x a n && reached p.2 x ≥ 3 && x.pa ≤ b && b < x.pa + x.n
  let bs := bs.zipIdx.map fun p => if free (a + p.2) then (s.free (2 ^ 42 + a + p.2)).truncate 8 else p.1
  let hit := fun (t : Tx) (x : Acc) => { x with clash := x.clash || (atomicOn t x a n && decide (reached t x < 3)) }
  let s := { s with txs := s.txs.map fun (p : Nat × Tx) => (p.1, { p.2 with accs := p.2.accs.map (hit p.2) }) }
  { s with mem := Memory.writeBytes s.mem a bs }

/-- A posted write of the host link, or a write of the host in its own memory. -/
def hostWrite (s : State) (a : Nat) (bs : List Byte) : State :=
  if devFailed s || bs.isEmpty then s
  else if place a == .host then hostOwn s a bs
  else if !reachable s a bs.length then s.logUnmapped a 0
  else if inFirmware a bs.length then violation s a
  else (arriveLink s a bs.length).homeWrite a bs

/-- HOST_WRITE (R28, R321, R428): posted writes are performed in the order in which they are made. -/
def execHostWrite (s : State) : Host.Outcome State Fault Refusal := .next (hostWrite s s.subj.a s.subj.bytes)

/-- A read of the host link: it follows every earlier posted write. -/
def hostRead (s : State) (a n : Nat) : State :=
  if devFailed s || n == 0 then s
  else if !reachable s a n then (s.logUnmapped a 0).send .completerAbort
  else if inFirmware a n then (violation s a).send .completerAbort
  else
    match s.firstBad a n with
    | some k => (s.logSector k).send .completerAbort
    | none => ((arriveLink s a n).layerRead a n).send (.data (bytesOf (Memory.read s.mem a n) n))

/-- HOST_READ (R28, R34, R321, R428). -/
def execHostRead (s : State) : Host.Outcome State Fault Refusal := .next (hostRead s s.subj.a s.subj.b)

/-- HOST_ATOMICOP (R425): no AtomicOp is performed. -/
def execHostAtomicop (s : State) : Host.Outcome State Fault Refusal := .next (s.send .unsupportedRequest)

/-! ### The host control page (R426, R427) -/

/-- DEV_STATE, with the failure code. -/
def devState (s : State) : Nat :=
  match s.dev with
  | .resetting => 1
  | .training => 2
  | .ready => 3
  | .running => 4
  | .failed c => c * 2 ^ 8 + 5

/-- The port whose control, first unit or last unit register stands at a BAR0 offset. -/
def portOf (off : Nat) : Option (Nat × Nat) :=
  if 0x1100 ≤ off && off < 0x1180 && off % 32 < 24 then some ((off - 0x1100) / 32, off % 32 / 8) else none

/-- FP_CTLp as it is read: a port that is down shows neither UP nor a peer. -/
def fpCtlRead (s : State) (p : Nat) : Word :=
  let up := !s.down.contains p
  (s.port.getD (fpCtl p) 0) ||| BitVec.ofNat 64 (up.toNat * 2 ^ 62 + if up then (Config.peerId p).toNat * 2 ^ 32 else 0)

/-- The 8 bytes at an aligned BAR0 offset. -/
def bar0Word (s : State) (off : Nat) : Word :=
  if off == 0x1000 then BitVec.ofNat 64 (devState s)
  else if [0x1010, 0x1018, 0x1020, 0x1028, 0x1030, 0x1038, 0x1040, 0x1048].contains off
      || (0x10000 ≤ off && off < 0x12000) then s.port.getD off 0
  else
    match portOf off with
    | some (p, 0) => fpCtlRead s p
    | some _ => s.port.getD off 0
    | none => 0

/-- The pending mailbox command and its arguments, as they were when MB_CMD was written. -/
def mbCmd (s : State) : Nat := (s.port.getD 0x1008 0).toNat
def mbArg (s : State) (i : Nat) : Nat := (s.port.getD (0x20010 + 8 * i) 0).toNat
def mbBusy (s : State) : Bool := bit (s.port.getD 0x1028 0) 63

/-- A command ends: its result, BUSY cleared, and vector 1 (R427, R433). -/
def mbEnd (s : State) (result : Nat) : State :=
  ({ s with port := s.port.set 0x1028 (BitVec.ofNat 64 result) }).fireMsi 1

/-- A write of MB_CMD: dropped while BUSY is 1; a code that names no command ends at once (R433). -/
def mbStart (s : State) (x : Word) : State :=
  if mbBusy s then s
  else
    let code := bits x 7 0
    let p := (List.range 3).foldl (fun (p : Map Word) i => p.set (0x20010 + 8 * i) (s.port.getD (0x1010 + 8 * i) 0)) s.port
    let s := { s with port := (p.set 0x1008 (BitVec.ofNat 64 code)).set 0x1028 (BitVec.ofNat 64 (2 ^ 63) ||| s.port.getD 0x1028 0) }
    if 1 ≤ code && code ≤ 4 then s else mbEnd s 6

/-- A write of FP_CTLp: EN, RD and WR (R427, R431). -/
def fpCtlPut (s : State) (p : Nat) (x : Word) : State :=
  { s with port := s.port.set (fpCtl p) (fieldWord x [(63, 63), (61, 61), (60, 60)]) }

/-- The 8 bytes at an aligned BAR0 offset written. -/
def bar0Put (s : State) (off : Nat) (x : Word) : State :=
  let put := fun (fs : List (Nat × Nat)) => { s with port := s.port.set off (fieldWord x fs) }
  if off == 0x1008 then mbStart s x
  else if off == 0x1010 || off == 0x1018 || off == 0x1020 then put [(63, 0)]
  else if off == 0x1038 then put [(31, 0)]
  else if off == 0x1048 then put [(1, 0)]
  else
    match portOf off with
    | some (p, 0) => fpCtlPut s p x
    | some _ => put [(37, 16)]
    | none => s

/-- Whether BAR0 accepts an access: aligned 8 bytes, and for reads of the device information block any aligned width
(R99, R426). -/
def bar0Ok (off width : Nat) (wr : Bool) : Bool :=
  off + width ≤ 0x100000 && ((width == 8 && off % 8 == 0)
    || (!wr && off < 0x1000 && [1, 2, 4].contains width && off % width == 0))

/-- BAR0_ACCESS (R425 to R427, R429): one of a width that is not accepted is aborted or dropped, and logged. A device
that has failed serves reads alone (R435). -/
def execBar0Access (s : State) : Host.Outcome State Fault Refusal :=
  let off := s.subj.a
  let width := s.subj.b
  if devFailed s && s.subj.flag then .next s
  else if !bar0Ok off width s.subj.flag then
    .next (if s.subj.flag then violation s off else (violation s off).send .completerAbort)
  else if s.subj.flag then .next (if off < 0x1000 then s else bar0Put s off s.subj.val)
  else if off < 0x1000 then .next (s.send (.data (bytesOf (infoRead s.down off width) width)))
  else .next (s.send (.data (bytesOf (bar0Word s off).toNat 8)))

/-! ### Peers (R430, R431) -/

/-- FP_CTL_WRITE (R431): requests that arrive later see the new value; those accepted have been performed. -/
def execFpCtlWrite (s : State) : Host.Outcome State Fault Refusal :=
  if devFailed s || s.subj.a ≥ 4 then notNow "FP_CTL_WRITE" else .next (fpCtlPut s s.subj.a s.subj.val)

/-- PORT_DOWN (R429, R430): what has been sent through the port fails when it is looked at next. -/
def execPortDown (s : State) : Host.Outcome State Fault Refusal :=
  let p := s.subj.a
  if p ≥ 4 || s.down.contains p then notNow "PORT_DOWN" else .next ({ s with down := p :: s.down }.elog 4 0 p 0)

/-- The bytes that a request names, and whether it reads or changes them. -/
def PeerReq.span : PeerReq → Nat × Nat
  | .read a n => (a, n)
  | .write a bs => (a, bs.length)
  | .atomic a _ ty _ | .exch a ty _ | .cas a ty _ _ => (a, ty.bytes)
  | .binned a _ _ | .binnedRead a _ => (a, 32)
def PeerReq.reads : PeerReq → Bool
  | .read _ _ | .binnedRead _ _ => true
  | _ => false

/-- Whether a request that arrives at a port is served (R431). -/
def peerServed (s : State) (p : Nat) (q : PeerReq) : Bool :=
  let (a, n) := PeerReq.span q
  let ctl := s.port.getD (fpCtl p) 0
  portUp s p && reachable s a n && (if PeerReq.reads q then bit ctl 61 else bit ctl 60)
    && bits (s.port.getD (fpWin p) 0) 37 16 ≤ a / 2 ^ 16 && (a + n - 1) / 2 ^ 16 ≤ bits (s.port.getD (fpEnd p) 0) 37 16

/-- An atomic of a peer at its home slice (R66, R431): the old value goes back. -/
def peerAtomic (s : State) (p a : Nat) (ty : MTy) (f : Nat → Nat) : State :=
  let old := kRead s a ty.bytes
  (s.homeWrite a (bytesOf (f old) ty.bytes)).send (.peerData p (bytesOf old ty.bytes))

/-- A served request performed at its home slice. -/
def peerServe (s : State) (p : Nat) (q : PeerReq) : State :=
  match q with
  | .read a n => s.send (.peerData p (bytesOf (Memory.read s.mem a n) n))
  | .write a bs => s.homeWrite a bs
  | .atomic a op ty v => peerAtomic s p a ty fun old => homeArith op ty old v.toNat
  | .exch a ty v => peerAtomic s p a ty fun _ => v.toNat
  | .cas a ty c v => peerAtomic s p a ty fun old => if old == c.toNat % 2 ^ (8 * ty.bytes) then v.toNat else old
  | .binned a ty v => binAdd s a ty v
  | .binnedRead a ty =>
    match fmtOf ty.ety with
    | some f => s.send (.peerData p (bytesOf (cellTotal (cellRead s a) f).1 8))
    | none => s

/-- PEER_REQUEST (R34, R431). -/
def execPeerRequest (s : State) : Host.Outcome State Fault Refusal :=
  let p := s.subj.a
  match s.subj.peer with
  | none => notNow "PEER_REQUEST"
  | some q =>
    let plain := match q with | .write _ _ => true | _ => false
    if p ≥ 4 || !s.dev.up then notNow "PEER_REQUEST"
    else if !peerServed s p q then .next (s.send (.peerUnmapped p))
    else
      let (a, n) := PeerReq.span q
      match if plain then none else s.firstBad a n with
      | some k => .next ((s.logSector k).send (.peerUncorr p))
      | none =>
        let s := arriveLink s a n
        .next (peerServe (if plain then s else s.layerRead a n) p q)

/-! ### Images (R434) -/

/-- A field of 66 bytes and its 6 bytes of padding. -/
def bigField (b : List Byte) (off : Nat) : Nat := ofBytes ((b.drop off).take 66)
def padOk (b : List Byte) (off : Nat) : Bool := ((b.drop (off + 66)).take 6).all fun x => x == 0
def imageWord (b : List Byte) (i : Nat) : Word := BitVec.ofNat 64 (ofBytes ((b.drop (8 * i)).take 8))
def imageSvn (b : List Byte) : Nat := bits (imageWord b 0) 15 0
def imageLen (b : List Byte) : Nat := (imageWord b 1).toNat
def imageBody (b : List Byte) : List Byte := (b.drop 0x180).take (imageLen b)

/-- Whether every header field is within range and every padding and reserved byte is zero. -/
def headerOk (b : List Byte) (type : Nat) : Bool :=
  let w := imageWord b 0
  bits w 63 32 == 0x4A4D4657 && bits w 31 16 == type && imageLen b ≤ (if type = 1 then 96 * 2 ^ 10 else 32 * 2 ^ 20)
    && 0x180 + imageLen b ≤ b.length && ([0x10, 0x58, 0xA0, 0xE8].all fun o => padOk b o)
    && (((b.drop 0x130).take 0x50).all fun x => x == 0)

/-- The result code of an image (R433, R434). -/
def imageCode (b : List Byte) (type floor : Nat) : Nat :=
  if !headerOk b type then 2
  else if Config.sha512 ((b.drop 0x10).take 0x90) != Config.keyHash type
      || !Config.verify (bigField b 0x10) (bigField b 0x58) (bigField b 0xA0) (bigField b 0xE8)
        (Config.sha512 (b.take 0xA0 ++ imageBody b)) then 1
  else if imageSvn b < floor then 3
  else 0

/-- The floor of a type: as fused, or as far as the monitor has raised it. -/
def floorOf (s : State) (type : Nat) : Nat :=
  max (Config.svnFloor type % 2 ^ 16) (if type = 1 then s.floors.1 else s.floors.2)

/-- The monitor may raise the floor to the svn of a running image: whether it does is left open. -/
def raisedFloor (s : State) (old svn : Nat) : Nat := if bit (s.free 0x434) 0 then max old svn else old

/-! ### The mailbox (R433, R436) -/

/-- A mailbox command that is pending while the monitor runs. -/
def mailbox (name : String) (code : Nat) (s : State) (allowed : Bool) (k : State → State) :
    Host.Outcome State Fault Refusal :=
  let runs := match s.dev with | .training | .ready | .running => true | _ => false
  if !runs || !mbBusy s || mbCmd s != code then notNow name
  else .next (if allowed then k s else mbEnd s 5)

/-- What the monitor reads: a failing sector is logged and its bytes are undefined. -/
def monitorRead (s : State) (a n : Nat) : State × List Byte :=
  match s.firstBad a n with
  | some k => (s.logSector k, (List.range n).map fun j => BitVec.ofNat 8 (s.free (2 ^ 40 + j)).toNat)
  | none => (s, bytesOf (Memory.read s.mem a n) n)

/-- Every control core is reset. -/
def resetAll (s : State) : State :=
  (List.range 8).foldl (fun s i => resetControl s (i / 2) (i % 2)) s

/-- LOAD_FW (R429, R433, R434): a good image is copied into the firmware region, every control core is reset, and the
device runs. -/
def loadFirmware (s : State) : State :=
  let a := mbArg s 0
  let n := mbArg s 1
  if !reachable s a n then mbEnd s 4
  else
    let (s, b) := monitorRead s a n
    let code := imageCode b 2 (floorOf s 2)
    if code != 0 then mbEnd (s.elog 3 0 code 0) code
    else
      let body := imageBody b
      let at_ := 0x1000 + Config.fwPlace % (0x4000000 - 0x1000 - body.length)
      let s := resetAll (s.homeWrite at_ body)
      mbEnd { s with dev := .running, fwHash := Config.sha512 b, svns := (s.svns.1, imageSvn b),
                     floors := (s.floors.1, raisedFloor s s.floors.2 (imageSvn b)) } 0

/-- Whether LOAD_FW is allowed: in state 3, or in state 4 with no queue served and no launch running. -/
def loadAllowed (s : State) : Bool :=
  match s.dev with
  | .ready => true
  | .running => ((List.range 64).all fun q => !bit (BitVec.ofNat 64 (Memory.read s.mem (64 * q + 0x18) 8)) 63)
      && s.launches.all fun p => p.2.st == .ended
  | _ => false

/-- LOAD_FW (R433, R434). -/
def execLoadFw (s : State) : Host.Outcome State Fault Refusal := mailbox "LOAD_FW" 1 s (loadAllowed s) loadFirmware

/-- The 256 bytes of a report that are signed, and its signature (R436). -/
def report (s : State) (nonce : List Byte) : List Byte :=
  let signed := bytesOf 1 8 ++ bytesOf (Config.tag.toNat * 2 ^ 32 + Config.moduleId.toNat) 8 ++ nonce
    ++ bytesOf (Config.sha512 Config.flash).toNat 64 ++ bytesOf s.fwHash.toNat 64
    ++ bytesOf (s.svns.1 * 2 ^ 16 + s.svns.2) 8 ++ List.replicate 40 0
  signed ++ bytesOf (Config.signR (Config.sha512 signed)).toNat 72 ++ bytesOf (Config.signS (Config.sha512 signed)).toNat 72

/-- ATTEST (R433, R436). -/
def execAttest (s : State) : Host.Outcome State Fault Refusal :=
  mailbox "ATTEST" 2 s s.dev.up fun s =>
    let a := mbArg s 0
    let r := mbArg s 1
    if !reachable s a 64 || !reachable s r 400 || r % 64 != 0 then mbEnd s 4
    else
      let (s, nonce) := monitorRead s a 64
      mbEnd (s.homeWrite r (report s nonce)) 0

/-- IDKEY (R433). -/
def execIdkey (s : State) : Host.Outcome State Fault Refusal :=
  mailbox "IDKEY" 3 s s.dev.up fun s =>
    let a := mbArg s 0
    if !reachable s a 138 then mbEnd s 4
    else
      mbEnd ((s.homeWrite a (bytesOf Config.idKeyX.toNat 66)).homeWrite (a + 72) (bytesOf Config.idKeyY.toNat 66)) 0

/-- RESET_CC (R383, R433): the control cores restart from the loaded image. -/
def execResetCc (s : State) : Host.Outcome State Fault Refusal :=
  mailbox "RESET_CC" 4 s (s.dev == .running) fun s => mbEnd (resetAll s) 0

/-! ### Bring-up (R414, R435) -/

/-- RESET (R435): the ROM verifies the monitor image in the flash and starts it, or the device fails. -/
def execReset (s : State) : Host.Outcome State Fault Refusal :=
  match s.dev with
  | .resetting =>
    let code := imageCode Config.flash 1 (floorOf s 1)
    if code != 0 then .next { s with dev := .failed code }
    else
      .next { s with dev := .training, svns := (imageSvn Config.flash, s.svns.2),
                     floors := (raisedFloor s s.floors.1 (imageSvn Config.flash), s.floors.2) }
  | _ => notNow "RESET"

/-- The fused limits of a cluster (R413). -/
def fusedLimits (d c : Nat) : Word :=
  BitVec.ofNat 64 (min (Config.fuseClk d c).toNat 1900 * 2 ^ 32 + (Config.fuseVmin d c).toNat * 2 ^ 16
    + (Config.fuseVmax d c).toNat)

/-- MONITOR_READY (R414, R435): device memory reads as zero, every cluster has its limits. -/
def execMonitorReady (s : State) : Host.Outcome State Fault Refusal :=
  match s.dev with
  | .training =>
    let s := { s with dev := .ready, mem := s.mem.filter fun p => !isDev p.1, bad := [],
                      dies := s.dies.map fun p => (p.1, { p.2 with layer := [], l2 := [] }) }
    .next ((List.range 48).foldl (fun s i =>
      let d := i / 12
      let c := i % 12
      pcSetWrite (s.setReg d (pcLim c) (fusedLimits d c)) d c (s.reg d (pcSet c))) s)
  | _ => notNow "MONITOR_READY"

end Sys2Proof.Machine
end

