-- ==== Sys2Proof/Machine/MatrixRun.lean ====
section
/-! DEFINITION. What the matrix array does with its queue (14_isa_matrix.md R252, R253, R262 to R264, R267 to R270):
the events PLANE_LOAD, MATRIX_STEP, MATRIX_STREAMED_READ and MATRIX_COMPLETE, each on a core. A step of an operation on
tiles or registers is one event; a streamed one goes row by row (log entry 14). -/

namespace Sys2Proof.Machine

/-! ### The operation at the head of a queue -/

/-- The arrays that run the operation at the head of a core's queue. -/
def opArrays (s : State) (core : Nat) (o : MOp) : List Nat :=
  if (s.core (core + 1)).mq.any fun m => m.mirror && m.no == o.no && m.team == o.team then [core, core + 1] else [core]

/-- The operation that a core's array may work on: the head of its queue, and of the other queue that holds it. -/
def headOp (s : State) (core : Nat) : Option MOp :=
  match (s.core core).mq.head? with
  | none => none
  | some o =>
    if o.mirror || o.held then none
    else if (opArrays s core o).all fun c => ((s.core c).mq.head?).any fun m => m.no == o.no then some o
    else none

def setOp (s : State) (core : Nat) (o : MOp) : State :=
  s.updCore core fun c => { c with mq := c.mq.map fun m => if m.no == o.no then { o with hits := m.hits } else m }

/-- The weight tile of a multiply form, with its geometry. -/
def weightOf (s : State) (o : MOp) (f : MForm) : Option (Nat × TEnt) :=
  let tb := match f.w with | some w => some w.tb.toNat | none => f.tb.map BitVec.toNat
  tb.bind fun tb => (tileGeom (s.team o.team) tb).map fun e => (tb, e)

/-! ### Weight planes (R253) -/

def planeIs (p : Option Plane) (tcore tb gen step : Nat) : Bool :=
  p.any fun q => q.core == tcore && q.tb == tb && q.gen == gen && q.step == step

/-- A k-step of a weight tile copied into the shadow planes of arrays, with its tag. -/
def loadShadow (s : State) (arrays : List Nat) (tcore tb gen step : Nat) (e : TEnt) : State :=
  let m := tileImg s tcore tb
  let p : Plane := { core := tcore, tb, gen, step, image := (List.range e.tileBytes).map m }
  arrays.foldl (fun s a => s.updCore a fun c => { c with shadow := some p }) s

/-- An array whose active or shadow plane holds a step. -/
def hasPlane (s : State) (a tcore tb gen step : Nat) : Bool :=
  planeIs (s.core a).active tcore tb gen step || planeIs (s.core a).shadow tcore tb gen step

/-- A matching plane in the shadow becomes active. -/
def usePlane (s : State) (a tcore tb gen step : Nat) : State :=
  s.updCore a fun c =>
    if planeIs c.active tcore tb gen step then c else { c with active := c.shadow, shadow := c.active }

/-- PLANE_LOAD (R253, R260): an MLDW at the head of the queue loads its step and ends; a multiply form whose step is in
neither plane loads it. Subject: `a` the core. -/
def execPlaneLoad (s : State) : Host.Outcome State Fault Refusal :=
  let core := s.subj.a
  match headOp s core with
  | none => notNow "PLANE_LOAD"
  | some o =>
    match mform o.instr with
    | none => notNow "PLANE_LOAD"
    | some f =>
      match weightOf s o f with
      | none => notNow "PLANE_LOAD"
      | some (tb, e) =>
        let t := s.team o.team
        let arrays := opArrays s core o
        if o.ended || o.parked then notNow "PLANE_LOAD"
        else
          match o.instr with
          | .mldw _ _ =>
            .next (setOp (loadShadow s arrays t.core tb o.gen o.factor.toNat e) core { o with ended := true, began := true })
          | _ =>
            if f.w.isNone || o.step ≥ stepsOf e || arrays.all fun a => hasPlane s a t.core tb o.gen o.step then
              notNow "PLANE_LOAD"
            else .next (loadShadow s arrays t.core tb o.gen o.step e)

/-! ### Activations -/

/-- The activation's type, kind and rows of cells for one step, by row; none where a row is not written. -/
structure Acts where
  ty : ETy
  kind : Nat
  row : Nat → Option (List Cell)

/-- The lanes of MMAX's rows: row i is lane i mod W of participant i div W (R267). -/
def jointRow (s : State) (o : MOp) (t : Team) (ty : ETy) (first lo n i : Nat) : Option (List Cell) :=
  let ps := participants t o.mask o.base
  let width := (s.wave o.wave).width
  match (ps[i / width]?).bind Prod.snd with
  | none => none
  | some key =>
    let w := s.wave key
    let l := i % width
    if w.isExited l then none
    else
      let e := 64 / ty.width
      some ((List.range n).map fun q => { code := elem ty.width (w.vraw (first + (lo + q) / e) l) ((lo + q) % e) })

/-- The activations of an operation for the step it is in. -/
def actsOf (s : State) (o : MOp) (f : MForm) (lo n : Nat) : Option Acts :=
  let t := s.team o.team
  match f.joint with
  | some (ty, _) =>
    let first := match o.instr with | .mmax a _ _ _ => (match a.a with | .v r => r.val | _ => 0) | _ => 0
    some { ty, kind := 0, row := jointRow s o t ty first lo n }
  | none =>
    let x := actWord o.factor
    if x.mem then
      match o.tensor, o.rowData with
      | some ws, some cells =>
        (fmtType (tent ws).fmt).map fun ty =>
          { ty, kind := (tent ws).kind, row := fun i => if i = o.row then some (cells.map fun c => { code := c.1, scale := c.2 }) else none }
      | _, _ => none
    else
      match tileGeom t x.id with
      | none => none
      | some ea =>
        let m := tileImg s t.core x.id
        (fmtType ea.fmt).map fun ty =>
          { ty, kind := ea.kind, row := fun i => some ((List.range n).map fun q => tileCell ea m (x.o1 + i) (x.o0 + lo + q)) }

/-- How a multiply form skips (R263). -/
def skipOf (s : State) (t : Team) (f : MForm) : Skip :=
  match f.mode with
  | none => .dense
  | some .code => .code
  | some .pruned => .pruned
  | some (.bitmap tb) =>
    match tileGeom t tb.toNat with
    | some e => .bitmap (tileImg s t.core tb.toNat) e
    | none => .code

/-- Sums of rows added to the accumulator, and their flags (R262). -/
def addRows (s : State) (t : Team) (h : Hnd) (c : MClass) (acts : Acts) (tw : ETy) (kw : Nat) (fz : Bool)
    (cols : List (List Wt)) : List Nat → Fl → State × Fl
  | [], fl => (s, fl)
  | i :: rest, fl =>
    match acts.row i with
    | none => addRows s t h c acts tw kw fz cols rest fl
    | some as =>
      let r := cols.zipIdx.foldl (fun (x : State × Fl) p =>
        let v := stepSum c acts.ty tw acts.kind kw fz as p.1 (accElem x.1 t h i p.2)
        (setAccElem x.1 t h i p.2 v.1, x.2 ||| v.2)) (s, fl)
      addRows r.1 t h c acts tw kw fz cols rest r.2

/-- The zero start (R262): at step 0 and row 0, once; MMAX leaves the rows of exited lanes (R267). -/
def beginOp (s : State) (o : MOp) (f : MForm) : State :=
  let t := s.team o.team
  match f.w with
  | some w =>
    if w.z && !o.began && o.step == 0 && o.row == 0 then
      zeroTile s t (hnd o.handle) fun i =>
        match f.joint with
        | some (ty, _) => (jointRow s o t ty 0 0 0 i).isSome
        | none => true
    else s
  | none => s

/-- One step, or one streamed row, of a multiply form. -/
def multiplyStep (s : State) (core : Nat) (o : MOp) (f : MForm) (tb : Nat) (e : TEnt) : Option State :=
  let t := s.team o.team
  let arrays := opArrays s core o
  let steps := stepsOf e
  let h := hnd o.handle
  if o.step ≥ steps then some (setOp s core { o with ended := true })
  else if !(arrays.all fun a => hasPlane s a t.core tb o.gen o.step) then none
  else
    match fmtType e.fmt with
    | none => none
    | some tw =>
      let kb := (weightKb tw).getD 1
      match actsOf s o f (o.step * kb) kb with
      | none => none
      | some acts =>
        match mclass acts.ty acts.kind tw e.kind with
        | none => none
        | some c =>
          let s := beginOp s o f
          let s := arrays.foldl (fun s a => usePlane s a t.core tb o.gen o.step) s
          let img : Img := match (s.core core).active with | some p => fun i => (p.image[i]?).getD 0 | none => fun _ => 0
          let s := if o.step + 1 < steps && !(arrays.all fun a => planeIs (s.core a).shadow t.core tb o.gen (o.step + 1))
            then loadShadow s arrays t.core tb o.gen (o.step + 1) e else s
          let cols := (List.range h.cols).map fun j => weights e img tw o.fz o.skc (skipOf s t f) j (o.step * kb) kb
          let streamed := f.joint.isNone && (actWord o.factor).mem
          let rows := if streamed then [o.row] else (List.range h.rows).drop o.row
          let (s, fl) := addRows s t h c acts tw e.kind o.fz cols rows 0
          let row := if streamed && o.row + 1 < h.rows then o.row + 1 else 0
          let step := if row = 0 then o.step + 1 else o.step
          some (setOp s core { o with began := true, row, step, ended := step ≥ steps, rowData := none,
                                      fpflags := (BitVec.ofNat 8 o.fpflags ||| fl).toNat })

/-! ### Operations of one step (R270, R272, R273) -/

/-- The elements of a handle changed one by one, with the flags they raise. -/
def mapTile (s : State) (t : Team) (h : Hnd) (g : State → Nat → Nat → Nat → Nat × Fl) : State × Fl :=
  (List.range h.rows).foldl (fun x i => (List.range h.cols).foldl (fun (x : State × Fl) j =>
    let v := g x.1 i j (accElem x.1 t h i j)
    (setAccElem x.1 t h i j v.1, x.2 ||| v.2)) x) (s, 0)

/-- MSTA: the rows of a handle written to a tile. -/
def storeTile (s : State) (t : Team) (h : Hnd) (tb : Nat) (e : TEnt) (fz rz : Bool) : State × Fl :=
  match tileAt s t.core tb with
  | none => (s, 0)
  | some te =>
    let base := te.base * 128
    (List.range h.rows).foldl (fun (x : State × Fl) i =>
      let r := rowToTile e (h.ty == 1) fz rz ((List.range h.cols).map fun j => accElem x.1 t h i j)
      let b := fmtBits e.fmt
      let s := r.1.zipIdx.foldl (fun s p => putBits s t.core (base + i * e.rowBytes) (p.2 * b) b p.1) x.1
      let s := r.2.1.zipIdx.foldl (fun s p => putBits s t.core (base + e.scaleOff + i * (e.tc / 32) + p.2) 0 8 p.1) s
      (s, x.2 ||| r.2.2)) (s, 0)

/-- What an operation of one step does to its handle. -/
def oneStep (s : State) (o : MOp) : State × Fl :=
  let t := s.team o.team
  let h := hnd o.handle
  match o.instr with
  | .msta _ tb rz =>
    match tileGeom t tb.toNat with
    | some e => storeTile s t h tb.toNat e o.fz rz
    | none => (s, 0)
  | .mlda _ tb =>
    match tileGeom t tb.toNat with
    | some e =>
      let m := tileImg s t.core tb.toNat
      mapTile s t h fun _ i j _ => cellToAcc e (h.ty == 1) o.fz (tileCell e m i j).code
    | none => (s, 0)
  | .mscale _ => mapTile s t h fun _ _ _ x => El.fmul .f32 { fz := o.fz } x (o.factor.toNat % 2 ^ 32)
  | .mcvt _ toI =>
    mapTile s t h fun _ _ _ x =>
      if toI then toInt .i32 { fz := o.fz } (srcVal .f32 o.fz x)
      else El.fin .f32 { fz := o.fz } (Val.mul (.num (.ofInt (sext x 32))) (srcVal .f32 o.fz (o.factor.toNat % 2 ^ 32)))
  | _ => (s, 0)

/-- MATRIX_STEP (R262). Subject: `a` the core. -/
def execMatrixStep (s : State) : Host.Outcome State Fault Refusal :=
  let core := s.subj.a
  match headOp s core with
  | none => notNow "MATRIX_STEP"
  | some o =>
    match mform o.instr with
    | none => notNow "MATRIX_STEP"
    | some f =>
      if o.ended || o.parked then notNow "MATRIX_STEP"
      else if f.w.isSome then
        match weightOf s o f with
        | none => notNow "MATRIX_STEP"
        | some (tb, e) =>
          match multiplyStep s core o f tb e with
          | some s => .next s
          | none => notNow "MATRIX_STEP"
      else
        match o.instr with
        | .mldw _ _ => notNow "MATRIX_STEP"
        | _ =>
          if o.step ≥ 1 then .next (setOp s core { o with ended := true })
          else
            let (s, fl) := oneStep s o
            .next (setOp s core { o with began := true, ended := true, step := 1, fpflags := fl.toNat })

/-! ### Streamed activations (R261, R269) -/

/-- An access of the operation that did not happen: it parks with a request for the fault ring, or ends the operation. -/
def streamFail (s : State) (core : Nat) (o : MOp) (x : EErr) : State :=
  let d := dieOfCore core
  if parksUnit s d o.ctx x then
    match x with
    | .xl t va =>
      queueFault (setOp s core { o with parked := true }) d
        { ctx := o.ctx, va, access := Need.read.code, fault := faultCode t, requester := 5, origin := core, lanes := 1,
          pc := o.pc, seq := o.seq, who := .matrix core }
    | _ => s
  else if x == .gated then s
  else setOp s core { o with ended := true, status := statusOf x }

/-- The checks made when a streamed operation starts (R261): the status it ends with, or 0. -/
def streamCheck (s : State) (o : MOp) (f : MForm) (ea : TEnt) : Nat :=
  if ea.illegal || ea.tileOnly then 4
  else
    match weightOf s o f, fmtType ea.fmt with
    | some (_, ew), some ta =>
      if weightFits f ta ea.kind ew (hnd o.handle) && (ea.kind != 1 || (actWord o.factor).o0 % 32 == 0) then 0 else 5
    | _, _ => 5

/-- The cells of a row of the tensor for one step: elements outside the tensor are +0, with scale 0x00 (R261). -/
def streamRow (s : State) (d ctx : Nat) (e : TEnt) (i1 i0 n : Nat) : State × Except EErr (List (Nat × Nat)) :=
  let b := fmtBits e.fmt
  let inRow := e.rank = 0 && i1 = 0 || i1 < e.d1
  let m := if inRow then min n (e.d0 - i0) else 0
  if m = 0 then (s, .ok (List.replicate n (0, 0)))
  else
    let lo := i0 * b / 8
    let hi := ((i0 + m) * b + 7) / 8
    match unitRead s d ctx (e.base + i1 * e.s1 + lo) (hi - lo) with
    | (s, .error x) => (s, .error x)
    | (s, .ok bs) =>
      let x := ofBytes bs
      let codes := (List.range m).map fun q => x / 2 ^ ((i0 + q) * b - lo * 8) % 2 ^ b
      let pad := List.replicate (n - m) (0, 0)
      if e.kind = 1 then
        let j := i0 / 32
        let k := (m + 31) / 32
        match unitRead s d ctx (e.sbase + i1 * (e.d0 / 32) + j) k with
        | (s, .error x) => (s, .error x)
        | (s, .ok sc) => (s, .ok ((codes.zipIdx.map fun p => (p.1, ((sc[p.2 / 32]?).getD 0).toNat)) ++ pad))
      else (s, .ok (codes.map (fun c => (c, 0)) ++ pad))

/-- MATRIX_STREAMED_READ (R261, R269): the read of the activation's tensor entry when the operation starts, then the
reads of one row. Subject: `a` the core. -/
def execMatrixStreamedRead (s : State) : Host.Outcome State Fault Refusal :=
  let core := s.subj.a
  let d := dieOfCore core
  match headOp s core with
  | none => notNow "MATRIX_STREAMED_READ"
  | some o =>
    match mform o.instr with
    | none => notNow "MATRIX_STREAMED_READ"
    | some f =>
      let x := actWord o.factor
      if o.ended || o.parked || f.w.isNone || f.joint.isSome || !x.mem || o.rowData.isSome then
        notNow "MATRIX_STREAMED_READ"
      else
        match o.tensor with
        | none =>
          match unitRead s d o.ctx ((s.launch (s.team o.team).launch).tnbase + 64 * x.id) 64 with
          | (s, .error e) => .next (streamFail s core o e)
          | (s, .ok bs) =>
            let ws := wordsOf bs
            let st := streamCheck s o f (tent ws)
            if st != 0 then .next (setOp s core { o with ended := true, status := st })
            else .next (setOp (beginOp s o f) core { o with tensor := some ws, began := true })
        | some ws =>
          match weightOf s o f with
          | none => notNow "MATRIX_STREAMED_READ"
          | some (_, ew) =>
            if o.step ≥ stepsOf ew then notNow "MATRIX_STREAMED_READ"
            else
              let kb := ew.k / stepsOf ew
              match streamRow s d o.ctx (tent ws) (x.o1 + o.row) (x.o0 + o.step * kb) kb with
              | (s, .error e) => .next (streamFail s core o e)
              | (s, .ok cells) => .next (setOp s core { o with rowData := some cells })

/-! ### Completion (R155, R268) -/

/-- Whether a location in a range was written while the operation was in flight. -/
def hitIn (o : MOp) (lo n : Nat) : Bool := o.hits.any fun k => lo ≤ k && k < lo + n

/-- Whether bytes of row i of a tile that the operation reads were written, for stored columns c to c + n − 1. -/
def rowHit (s : State) (o : MOp) (t : Team) (tb : Nat) (e : TEnt) (i c n : Nat) : Bool :=
  match tileAt s t.core tb with
  | none => false
  | some te =>
    let base := sramKey t.core (te.base * 128)
    let b := fmtBits e.fmt
    let lo := c * b / 8
    hitIn o (base + i * e.rowBytes + lo) ((c + n) * b / 8 + 1 - lo - (if (c + n) * b % 8 = 0 then 1 else 0))
      || (e.kind == 1 && hitIn o (base + e.scaleOff + i * (e.tc / 32) + c / 32) ((n + 31) / 32))
      || (e.kind == 2 && (hitIn o (base + e.scaleOff + 2 * (i * (e.tc / e.group) + c / e.group)) (2 * ((n + e.group - 1) / e.group))
            || hitIn o (base + e.zeroOff + (i * (e.tc / e.group) + c / e.group) * b / 8) ((n + e.group - 1) / e.group)))
      || (e.prune != 0 && hitIn o (base + e.metaOff + i * e.metaRow) e.metaRow)

/-- The registers of a wave written since an operation that reads them issued. -/
def hitsOf (s : State) (o : MOp) (key : Nat) : List Nat :=
  let w := s.wave key
  let mark := ((o.joined.find? fun p => p.1 == key).map Prod.snd).getD 0
  w.vhits.take (w.vhits.length - mark)

/-- Whether the scalar register that an operation reads was written while it was in flight: every element depends on
it. -/
def scalarHit (s : State) (o : MOp) : Bool :=
  o.scalar.any fun n => o.joined.any fun p => (hitsOf s o p.1).contains (Wave.skey n)

/-- Whether MMAX's row i read a register that was written while the operation was in flight. -/
def regHit (s : State) (o : MOp) (t : Team) (first n i : Nat) : Bool :=
  let width := (s.wave o.wave).width
  match ((participants t o.mask o.base)[i / width]?).bind Prod.snd with
  | none => false
  | some key =>
    (hitsOf s o key).any fun k => k % 64 == i % width && first ≤ k / 64 && k / 64 < first + n

/-- Whether an element depends on a location that was written while the operation was in flight (R155). -/
def elemHit (s : State) (o : MOp) (f : MForm) (t : Team) (h : Hnd) (i j : Nat) : Bool :=
  let acc := (let (c, off) := accPlace t (accOff h i j); hitIn o (accKey c off) 4)
  let geom := fun (tb : Nat) => tileGeom t tb
  acc || scalarHit s o || (match f.w with
    | some w =>
      match geom w.tb.toNat with
      | none => false
      | some ew =>
        rowHit s o t w.tb.toNat ew j 0 ew.tc
          || (match f.mode with
              | some (.bitmap tb) => (geom tb.toNat).any fun e => rowHit s o t tb.toNat e j 0 e.tc
              | _ => false)
          || (match f.joint with
              | some (ty, _) =>
                let first := match o.instr with | .mmax a _ _ _ => (match a.a with | .v r => r.val | _ => 0) | _ => 0
                regHit s o t first (ew.k / (64 / ty.width)) i
              | none =>
                let x := actWord o.factor
                !x.mem && (geom x.id).any fun e => rowHit s o t x.id e (x.o1 + i) x.o0 ew.k)
    | none =>
      match o.instr with
      | .mlda _ tb => (geom tb.toNat).any fun e => rowHit s o t tb.toNat e i j 1
      | _ => false)

/-- Elements that depend on a location written in flight take undefined values; so do the bytes of a plane. -/
def disturb (s : State) (core : Nat) (o : MOp) (f : MForm) : State :=
  let t := s.team o.team
  let h := hnd o.handle
  if o.hits.isEmpty && o.joined.all fun p => (s.wave p.1).vhits.length == p.2 then s
  else
    match o.instr with
    | .mldw _ tb =>
      match tileAt s t.core tb.toNat with
      | none => s
      | some te =>
        let fix := fun (p : Option Plane) => p.map fun q =>
          if q.tb == tb.toNat && q.core == t.core then
            { q with image := q.image.zipIdx.map fun b =>
                if scalarHit s o || hitIn o (sramKey t.core (te.base * 128 + b.2)) 1 then (s.free (2 ^ 36 + b.2)).truncate 8 else b.1 }
          else q
        (opArrays s core o).foldl (fun s a => s.updCore a fun c => { c with shadow := fix c.shadow }) s
    | _ =>
      (List.range h.rows).foldl (fun s i => (List.range h.cols).foldl (fun s j =>
        if elemHit s o f t h i j then setAccElem s t h i j ((s.free (2 ^ 36 + 512 * i + j)).toNat % 2 ^ 32) else s) s) s

/-- An MMAX completes: its entry is free and the waves that were held at their MRDY go on (R266, R267). -/
def releaseEntry (s : State) (o : MOp) (entry : Nat) : State :=
  let t := s.team o.team
  let s := setScb s o.team entry { scbOf t entry with busy := false }
  let s := (participants t o.mask o.base).foldl (fun s p =>
    match p.2 with
    | none => s
    | some key => s.updWave key fun w =>
        let w := w.mapLanes (w.lanesWhere fun l => l.was == .mrdy entry) fun _ l =>
          { l with was := .none, stop := l.stop.map fun q => (q.1 + 8, q.2) }
        w.stepLanes (w.lanesWhere fun l => l.wait == .mrdy entry) 1) s
  o.joined.foldl (fun s p => s.updWave p.1 fun w => { w with fpflags := w.fpflags ||| BitVec.ofNat 64 o.fpflags }) s

/-- MATRIX_COMPLETE (R268): the flags of the waves are set, the completion flags count down, and the entry leaves the
queue. Subject: `a` the core. -/
def execMatrixComplete (s : State) : Host.Outcome State Fault Refusal :=
  let core := s.subj.a
  match headOp s core with
  | none => notNow "MATRIX_COMPLETE"
  | some o =>
    match mform o.instr with
    | none => notNow "MATRIX_COMPLETE"
    | some f =>
      whenever "MATRIX_COMPLETE" o.ended
        (let s := disturb s core o f
         let s := unwatch (match f.joint with | some (_, e) => releaseEntry s o e.toNat | none => s) o
         let key := ((s.team o.team).waves.find? o.waveId).getD o.wave
         let mine := fun (w : Wave) => w.team == o.team && w.waveId == o.waveId
         let s := s.updWaveOld key (s.wave key).serial mine fun w =>
           if mine w then (statusIn w o.seta o.setb o.status o.fpflags o.seq).setFl (BitVec.ofNat 8 o.fpflags) else w
         let s := s.updWaveOld key (s.wave key).serial (fun w => decide (o.no < w.quantum.start)) fun w =>
           if mine w then w.lower o.seta o.setb else w
         .next ((opArrays s core o).foldl (fun s a =>
           s.updCore a fun c => { c with mq := c.mq.filter fun m => m.no != o.no }) s))

end Sys2Proof.Machine
end

