-- ==== Sys2Proof/Machine/Rounds.lean ====
section
/-! DEFINITION. Commit rounds of a recorded or replayed launch, and the re-execution of a quantum (20_debug_replay.md
R405 to R411). -/

namespace Sys2Proof.Machine

/-! ### The launch that is recorded (R406) -/

/-- The launch that is recorded or replayed: one at a time, since RP_CTL names it. -/
def recLaunch (s : State) : Option (Nat × Launch) :=
  List.find? (fun (p : Nat × Launch) => p.2.rec_ != 0 && p.2.st == .running) s.launches

/-- Its resident waves that run in quanta, in the order of R408. -/
def recWaves (s : State) (no : Nat) : List (Nat × Wave) :=
  s.waves.filter fun p => p.2.launch == no && !isCtl p.1 && !p.2.quantum.routine

def ofLaunch (no : Nat) (x : Cmd) : Bool := x.launch == no && !isCtl x.wave

/-- The streams of a launch that run and stand between tiles, in the order of R408. -/
def restingStreams (s : State) (no : Nat) : List (Nat × Cmd) :=
  s.cmds.filter fun p => ofLaunch no p.2 && p.2.kind == .stream && p.2.st == .running && p.2.phase != 2 && visits p.2

/-- A matrix operation with a streamed operand. -/
def streams (q : MOp) : Bool :=
  match mform q.instr with
  | some f => f.w.isSome && f.joint.isNone && (actWord q.factor).mem
  | none => false

/-- Whether every started command of a launch has completed, or pauses (R408), and no access of its waves is still to
be made at a home slice. -/
def workDone (s : State) (no mode : Nat) : Bool :=
  (s.cmds.all fun p =>
    !ofLaunch no p.2 || p.2.held || (p.2.st == .queued && p.2.kind != .tnset && p.2.kind != .tnget)
      || (p.2.kind == .stream && p.2.st == .running && p.2.phase != 2 && visits p.2
          && (mode == 1 || pauseAt s p.2.wave == some p.2.pos)))
    && (s.txs.all fun p => p.2.launch != no || isCtl p.2.wave || !p.2.ldc)
    && s.cores.all fun p =>
      (p.2.mq.all fun q => q.held || !q.began || (s.team q.team).launch != no || !streams q)
        && p.2.beam.walks.all fun b => b.2.held || b.2.desc.isNone || p.2.beam.pending.isSome || (s.wave b.2.wave).launch != no

/-! ### Committing (R408) -/

/-- The bytes of side copies as runs inside words, each an address with its bytes. -/
def sideRuns (m : Map Byte) : List (Nat × List Byte) :=
  m.foldl (fun (rs : List (Nat × List Byte)) p =>
    match rs.getLast? with
    | some (a, bs) =>
      if a + bs.length == p.1 && a / 8 == p.1 / 8 then rs.dropLast ++ [(a, bs ++ [p.2])] else rs ++ [(p.1, [p.2])]
    | none => [(p.1, [p.2])]) []

/-- A store of a private buffer performed at its home slice: the copies of its core and die take it as it passes (R63). -/
def storeCommit (s : State) (t : Tx) (a : Acc) : State :=
  let put := fun (m : Map Byte) => (accBytes a).foldl (fun (m : Map Byte) p => m.upd p.1 fun _ => p.2) m
  let s := s.updCore t.core fun c => { c with l1 := put c.l1 }
  storeHome (s.updDie (dieOf t.wave) fun k => { k with visitor := put k.visitor }) t.scope a

/-- One access of a private buffer performed: stores at their home slice or in core SRAM, reductions and contributions
at the home slice. A store to a control register or a gated window goes its ordinary way. -/
def commitAcc (s : State) (no i : Nat) : State :=
  match accAt s no i with
  | none => s
  | some (t, a) =>
    match t.kind with
    | .store =>
      match place a.pa with
      | .win c o => if coreOn s c then setAcc (winWrite s c o (bytesOf a.data.toNat a.n)) no i fun a => { a with stage := 3 } else s
      | .ctl _ _ => s
      | _ =>
        if unmapped s a.pa then failAcc s no i t a .unmappedPhys
        else setAcc (storeCommit s t a) no i fun a => { a with stage := 3 }
    | .badd =>
      if unmapped s a.pa then failAcc s no i t a .unmappedPhys
      else if anyBad s a.pa 32 then failAcc s no i t a .memUncorr
      else
        let s := match place a.pa with | .peer _ _ => s | _ => binAdd s a.pa t.ty a.data
        setAcc (dropVisitorLine s (dieOf t.wave) a.pa) no i fun a => { a with stage := 3 }
    | _ => homeAtomic (dropVisitorLine s (dieOf t.wave) a.pa) no i

/-- One transaction of a private buffer committed. -/
def commitTx (s : State) (no : Nat) : State :=
  match s.txs.find? no with
  | none => s
  | some t =>
    let s := { s with txs := s.txs.upd no fun t => { t with held := false } }
    settleStore ((List.range t.accs.length).foldl (fun s i => commitAcc s no i) s) no

/-- One write of an engine committed. -/
def commitWrite (s : State) (e : EWrite) : State :=
  let s := dropCopies s (dieOf e.wave) e.pa e.bytes.length
  match e.op with
  | none => s.homeWrite e.pa e.bytes
  | some (op, ty) =>
    let data := BitVec.ofNat 64 (ofBytes e.bytes)
    match op with
    | some op => s.homeWrite e.pa (bytesOf (homeArith op ty (kRead s e.pa ty.bytes) data.toNat) ty.bytes)
    | none => binAdd s e.pa ty data

/-- Engine writes of a wave in ascending sequence number, each command's in the order it made them. -/
def writesOf (s : State) (key : Nat) : List EWrite :=
  let mine := s.replay.buffer.filter fun e => e.wave == key
  (sortBy (fun (a b : Nat) => decide (a ≤ b)) (mine.map EWrite.seq).eraseDups).flatMap fun q => mine.filter fun e => e.seq == q

/-- The buffers of all waves, those that ended in the interval among them, in ascending order (R408). -/
def commitBuffers (s : State) (no : Nat) : State :=
  let live := (recWaves s no).map fun p => (p.1, p.2.quantum.heldTx)
  let gone := s.replay.left.map fun p => (p.1, p.2.heldTx)
  let keys := sortBy (fun (a b : Nat) => decide (a ≤ b)) ((live ++ gone).map Prod.fst ++ s.replay.buffer.map EWrite.wave).eraseDups
  keys.foldl (fun s k =>
    let txs := ((gone ++ live).filter fun p => p.1 == k).flatMap Prod.snd
    (writesOf s k).foldl commitWrite (txs.foldl commitTx s)) s

/-- Bins and gathering slots of the launch that had an entry before this round form their waves (R407). -/
def formOld (s : State) (no : Nat) : State :=
  let old := fun (since : Nat) => decide (since < s.replay.round)
  s.cores.foldl (fun s p =>
    let s := (p.2.bins.filter fun b => b.launch == no && old b.since).foldl (fun s b => formBin s p.1 b) s
    (p.2.gathering.filter fun g => g.2.launch == no && old g.2.since).foldl (fun s g => formGather s p.1 g.1) s) s

/-! ### The round (R408) -/

/-- Pauses of streams noted in the log, or taken from it; none while the log holds the round. -/
def notePauses (s : State) (mode : Nat) : List (Nat × Cmd) → Option State
  | [] => some s
  | (_, x) :: rest =>
    if mode == 1 then
      if s.logStalls (dieOf x.wave) 1 then none
      else notePauses (s.logPut x.wave logPause 0 x.pos 0 0) mode rest
    else
      match s.logTake x.wave logPause 0 0 0 with
      | .value s _ => notePauses s mode rest
      | .wait => none
      | .diverged s => some s

/-- The start of a round: side copies, then buffers, are committed, and the held words are granted. -/
def openRound (s : State) (no mode : Nat) : Option State :=
  match notePauses s mode (restingStreams s no) with
  | none => none
  | some s =>
    let s := (sideRuns s.replay.side).foldl (fun s r => s.homeWrite r.1 r.2) s
    let s := formOld (commitBuffers s no) no
    let s := { s with replay := { s.replay with side := [], orders := [], left := [], buffer := [], phase := 1 } }
    some ((recWaves s no).foldl (fun s p =>
      beginQuantum s p.1 { ended := true, grant := p.2.quantum.wants &&& p.2.live }) s)

/-- Barrier releases (R332, R375, R408). -/
def roundBarriers (s : State) (no : Nat) : State :=
  let s := (s.teams.filter fun p => p.2.launch == no).foldl (fun s p =>
    (List.range 5).foldl (fun s i => barTestNow s p.1 i) s) s
  { (releaseLaunch s no).getD s with replay := { s.replay with phase := 2 } }

/-- A message between a wave of the launch and the Leash: a registration, or a reply to a leashed wave. -/
def leashPending (s : State) (no : Nat) (reply : Bool) : Bool :=
  s.msgs.any fun p =>
    match p.2 with
    | .register w k _ => !reply && (match s.waveAt w k with | some x => x.launch == no && recMode s x != 0 | none => false)
    | .reply w k t _ _ _ =>
      reply && (match s.waveAt w k with
        | some x => x.launch == no && recMode s x != 0 && x.save == .none && x.leash.any fun r => r.token == t
        | none => false)
    | _ => false

/-- The wakes and timeouts that the log of a die gives for this round, each with its logged value (R408). -/
def loggedWakes (s : State) (d : Nat) : Nat → State
  | 0 => s
  | n + 1 =>
    if s.logStalls d 2 then s
    else
      let a := s.rpAddr d
      let x := ringRead s a 8
      let kind := x / 2 ^ 60
      let key := waveNo (coreNo (x / 2 ^ 58 % 4) (x / 2 ^ 52 % 64)) (x / 2 ^ 49 % 8) (x / 2 ^ 44 % 32)
      if (kind != logWake && kind != logTimeout) || x % 2 ^ 32 != s.replay.round % 2 ^ 32 then s
      else
        match s.wave? key with
        | some w =>
          match w.leash with
          | some r =>
            match s.logTake key kind 0 r.pa 0 with
            | .value s v =>
              let s := s.post (.cancel key w.serial r.token r.pa)
              loggedWakes (deliver s key w.serial r.token (if kind == logWake then some v else none)) d n
            | .wait => s
            | .diverged s => s
          | none => s.diverge d
        | none => s.diverge d

/-- Commands of a queue that start now, behind those that have started, in the order of R408. -/
def startOrder (s : State) (ns : List Nat) : List Nat :=
  let held := fun (n : Nat) => match s.cmds.find? n with | some x => x.held | none => false
  let key := fun (n : Nat) => match s.cmds.find? n with | some x => x.wave | none => 0
  (ns.filter fun n => !held n) ++ sortBy (fun (a b : Nat) => key a < key b || (key a == key b && decide (a ≤ b))) (ns.filter held)

/-- The end of a round: held commands start, every wave begins its next quantum, and the dies count the round. -/
def closeRound (s : State) (no : Nat) : State :=
  let s := { s with
    dies := s.dies.map fun (p : Nat × Die) => (p.1, { p.2 with copyq := p.2.copyq.map fun (q : Nat × List Nat) => (q.1, startOrder s q.2) }),
    cores := s.cores.map fun (p : Nat × Core) => (p.1, { p.2 with
      stream0 := startOrder s p.2.stream0, stream1 := startOrder s p.2.stream1,
      mq := p.2.mq.map fun (q : MOp) => { q with held := q.held && (s.team q.team).launch != no },
      beam := { p.2.beam with walks := p.2.beam.walks.map fun (b : Nat × BWalk) => (b.1, { b.2 with held := b.2.held && (s.wave b.2.wave).launch != no }) } }) }
  let s := { s with cmds := s.cmds.map fun (p : Nat × Cmd) => if ofLaunch no p.2 then (p.1, { p.2 with held := false }) else p }
  let s := (recWaves s no).foldl (fun s p => beginQuantum s p.1 {}) s
  let s := { s with replay := { s.replay with round := s.replay.round + 1, phase := 0 } }
  (List.range 4).foldl (fun s d => (s.updReg d 0x6028 (s.reg d 0x6028 + 1)).note d 23) s

/-- COMMIT_ROUND (R408): the next part of a round. It starts once every wave has ended its quantum and every started
command has completed; the held words then issue, registrations are made, and wakes are decided before it ends. -/
def execCommitRound (s : State) : Host.Outcome State Fault Refusal :=
  let name := "COMMIT_ROUND"
  match recLaunch s with
  | none => notNow name
  | some (no, x) =>
    if s.dev != .running || !s.replay.struck.isEmpty then notNow name
    else
      match s.replay.phase with
      | 0 =>
        if wavesQuiet s no && workDone s no x.rec_ then
          match openRound s no x.rec_ with | some t => .next t | none => notNow name
        else notNow name
      | 1 =>
        if ((recWaves s no).any fun p => p.2.quantum.grant != 0) || wordsPending s no then notNow name
        else .next (roundBarriers s no)
      | 2 =>
        if leashPending s no false then notNow name
        else
          let s := { s with replay := { s.replay with phase := 3 } }
          .next (if x.rec_ == 2 then (List.range 4).foldl (fun s d => loggedWakes s d (recWaves s no).length) s else s)
      | _ => if x.rec_ == 1 && leashPending s no true then notNow name else .next (closeRound s no)

/-! ### Re-execution (R410) -/

/-- Commands that never started are discarded: their places in queues and their credits are free. -/
def dropCmds (s : State) (nos : List Nat) : State :=
  let keep := fun (n : Nat) => !nos.contains n
  let credits := fun (core : Nat) => (nos.filter fun n =>
    match s.cmds.find? n with
    | some x => x.core == core && (match x.kind with | .gath | .scat | .scatr => true | _ => false)
    | none => false).length
  { s with
    cmds := s.cmds.filter fun p => keep p.1,
    dies := s.dies.map fun (p : Nat × Die) => (p.1, { p.2 with copyq := p.2.copyq.map fun (q : Nat × List Nat) => (q.1, q.2.filter keep) }),
    cores := s.cores.map fun (p : Nat × Core) => (p.1, { p.2 with
      stream0 := p.2.stream0.filter keep, stream1 := p.2.stream1.filter keep, credits := p.2.credits - credits p.1 }) }

/-- Eight words to a fragment. -/
def fragmentsOf : List Word → List (List Word)
  | a :: b :: c :: d :: e :: f :: g :: h :: rest => [a, b, c, d, e, f, g, h] :: fragmentsOf rest
  | _ => []

/-- What a wave did in its quantum at its array and beam engine is discarded: operations and walks that were held,
fragments that it took. -/
def undoEngines (s : State) (key : Nat) (w : Wave) : State :=
  let got := fragmentsOf ((w.quantum.memo.filter fun m => m.1 == logFragment).map fun m => m.2.2)
  let mineQ := fun (q : MOp) => q.held && q.wave == key && q.serial == w.serial
  let mineW := fun (b : BWalk) => b.held && b.wave == key && b.serial == w.serial
  let mineP := fun (p : BPop) => p.wave == key && p.serial == w.serial && decide (w.quantum.start ≤ p.tx)
  let s := { s with cores := s.cores.map fun (p : Nat × Core) => (p.1, { p.2 with mq := p.2.mq.filter fun q => !mineQ q }) }
  s.updCore (coreOf key) fun c => { c with beam := { c.beam with
    walks := c.beam.walks.filter fun b => !mineW b.2,
    frags := got ++ ((c.beam.pops.filter mineP).flatMap fun p => p.got.map Prod.snd) ++ c.beam.frags,
    pops := c.beam.pops.filter fun p => !mineP p } }

/-- Arrivals that a wave made in its quantum are withdrawn from its team's barriers and scoreboard. -/
def undoArrivals (t : Team) (w v : Wave) : Team :=
  let bars := t.bars.zipIdx.map fun p =>
    let new := w.lanesWhere fun l => l.wait == .bar p.2
    let old := v.lanesWhere fun l => l.wait == .bar p.2
    let la := p.1.la.getD w.waveId 0 &&& ~~~(new &&& ~~~old)
    let back := p.1.mask.getLsbD w.waveId && v.live &&& ~~~la != 0
    { p.1 with la := p.1.la.set w.waveId la, count := if back then p.1.count - 1 else p.1.count,
               mask := if back then p.1.mask &&& ~~~(BitVec.ofNat 384 (2 ^ w.waveId)) else p.1.mask }
  let scb := t.scb.zipIdx.map fun p =>
    match scbBit p.1 w.waveId with
    | some b =>
      if (lanesOf v.live).all fun l => (v.lane l).wait == .mrdy p.2 then p.1 else { p.1 with arrived := p.1.arrived &&& ~~~b }
    | none => p.1
  { t with bars, scb }

/-- The operations of a wave that go on although its quantum is undone: they hold their flags, and are not queued
again. -/
def opsGoingOn (s : State) (key : Nat) (w : Wave) : List MOp :=
  (s.cores.vals.flatMap Core.mq).filter fun q =>
    !q.held && !q.mirror && q.wave == key && q.serial == w.serial && decide (w.quantum.start ≤ q.no)

/-- A wave goes back to the start of its quantum (R410): its buffer and held commands are discarded, and the results
that were logged are kept for the re-execution. -/
def rollback (s : State) (key : Nat) : State :=
  match s.wave? key, List.find? (fun (p : Nat × Wave) => p.1 == key) s.replay.snap with
  | some w, some (_, v) =>
    if v.serial != w.serial then s
    else
      let q := w.quantum
      let mine := fun (p : Nat × Tx) => p.2.wave == key && p.2.serial == w.serial && decide (q.start ≤ p.1) && (p.2.held || p.2.kind != .store)
      let reg := fun (m : Nat × Msg) =>
        match m.2 with
        | .register a k e => a == key && k == w.serial && !(v.leash.any fun r => r.token == e.token)
        | _ => false
      let s := dropCmds (undoEngines s key w) q.heldCmd
      let s := { s with txs := s.txs.filter fun p => !mine p, msgs := s.msgs.filter fun m => !reg m }
      let s := s.updTeam w.team fun t => undoArrivals t w v
      let back : Wave := { v with
        traps := w.traps, stopped := w.stopped, watch := w.watch, vhits := w.vhits, save := w.save,
        quantum := { v.quantum with memo := q.memo, redo := q.memo.filter fun m => m.1 != logFragment } }
      s.setWave key ((opsGoingOn s key w).foldl (fun w q => w.raise q.seta q.setb) back)
  | _, _ => s

/-- QUANTUM_REEXECUTE (R410): a wave that an event has struck is reloaded once the event has been serviced. -/
def execQuantumReexecute (s : State) : Host.Outcome State Fault Refusal :=
  let name := "QUANTUM_REEXECUTE"
  let key := s.subj.a
  match s.wave? key with
  | none => notNow name
  | some w =>
    if !s.replay.struck.contains key || (lanesOf w.live).any fun l => (w.lane l).st == .parked then notNow name
    else
      let d := dieOf key
      let s := rollback s key
      let s := { s with replay := { s.replay with struck := s.replay.struck.filter fun k => k != key } }
      .next (s.setReg d 0x6030 (s.reg d 0x6030 + 1))

end Sys2Proof.Machine
end

