-- ==== Sys2Proof/Machine/Preempt.lean ====
section
/-! DEFINITION. Pre-emption (19_faults_preemption.md R386 to R391): requests on teams, the entry of waves into save
routines, and the end of a save. -/

namespace Sys2Proof.Machine

/-! ### Requests (R386) -/

/-- The fields of a request: team, queue, record slot. -/
structure PReq where
  team : Nat
  queue : Nat
  slot : Nat
deriving DecidableEq, Repr

def preqOf (x : Word) : PReq := { team := bits x 63 32, queue := bits x 31 26, slot := bits x 25 16 }
def PReq.launch (q : PReq) : Nat := launchNo q.queue q.slot

/-- The resident team that a request names. -/
def residentTeam (s : State) (q : PReq) : Option (Nat × Team) :=
  List.find? (fun (p : Nat × Team) => p.2.launch == q.launch && p.2.number == q.team && p.2.slot) s.teams

/-- Every unplaced team that waits in a line or a message, changed. -/
def mapSaved (s : State) (q : PReq) (f : Saved → Saved) : State :=
  let g := fun (v : Saved) => if v.launch == q.launch && v.number == q.team then f v else v
  { s with dies := s.dies.map fun (p : Nat × Die) => (p.1, { p.2 with
      line := p.2.line.map g, flight := p.2.flight.map fun v => (v.1, g v.2), returned := p.2.returned.map fun v => (v.1, g v.2) }) }

/-- The unplaced team that a request names, where it has left the dealing order. -/
def savedTeam (s : State) (q : PReq) : Option Saved :=
  (s.dies.vals.flatMap fun d => d.line ++ (d.flight.toList ++ d.returned.toList).map Prod.snd).find? fun v =>
    v.launch == q.launch && v.number == q.team

/-- The die to whose share a team of a launch that has not left the dealing order belongs. -/
def undealt (x : Launch) (team : Nat) : Option Nat :=
  (diesOf x).find? fun d =>
    match shareOf x d with
    | some (_, n) =>
      let j := team / (diesOf x).length
      teamOf x d j == team && decide (j < n) && decide ((x.dealt[d]?).getD 0 ≤ j) && !x.taken.contains team
    | none => false

/-- A request to save a team, and to hold it with op 2. -/
def preqSave (s : State) (d : Nat) (hold : Bool) (q : PReq) : State :=
  match s.launches.find? q.launch with
  | none => preqDone s d
  | some x =>
    if x.st != .running then preqDone s d
    else
      match residentTeam s q with
      | some (tn, t) =>
        if t.save != .none then preqDone s d else s.updTeam tn fun t => { t with save := .pending hold d }
      | none =>
        if !hold then preqDone s d
        else
          match savedTeam s q, undealt x q.team with
          | some _, _ => preqDone (mapSaved s q fun v => { v with hold := true }) d
          | none, some e =>
            let s := s.updLaunch q.launch fun x => { x with taken := q.team :: x.taken }
            let v : Saved := { launch := q.launch, number := q.team, saved := false, pair := x.kernel.pair, hold := true }
            preqDone (s.updDie e fun k => { k with line := k.line ++ [v] }) d
          | none, none => preqDone s d

/-- Cancel: a request on which no wave has entered its routine is finished. -/
def preqCancel (s : State) (q : PReq) : State :=
  match residentTeam s q with
  | some (tn, t) => if t.saving then s else (preqEnds s t).updTeam tn fun t => { t with save := .none }
  | none => s

/-- Whether a launch has nothing left of a team: it has ended, or there never was one. -/
def teamOver (s : State) (q : PReq) : Bool :=
  match s.launches.find? q.launch with
  | some x => x.st != .running || ((residentTeam s q).isNone && (savedTeam s q).isNone && (undealt x q.team).isNone)
  | none => true

/-- Release: a held team goes to the tail of its die's restore line. -/
def preqRelease (s : State) (d : Nat) (q : PReq) : State :=
  match savedTeam s q with
  | some v =>
    if !v.hold then s
    else
      let mine := fun (u : Saved) => u.launch == v.launch && u.number == v.number
      let s := mapSaved s q fun v => { v with hold := false }
      preqDone { s with dies := s.dies.map fun (p : Nat × Die) =>
        (p.1, { p.2 with line := (p.2.line.filter fun u => !mine u) ++ p.2.line.filter mine }) } d
  | none => if teamOver s q then preqDone s d else s

/-- A write of TR_PREQ whose op and fields the event names. -/
def preq (name : String) (s : State) (op : Nat) (effect : State → Nat → PReq → State) : Host.Outcome State Fault Refusal :=
  let d := s.subj.a
  let q : PReq := { team := s.subj.b, queue := s.subj.c, slot := s.subj.d }
  ctlEvent name s d Off.trPreq (fun x => bits x 2 0 == op && preqOf x == q) fun s x _ => effect s d (preqOf x)

/-- PREQ_CANCEL (R386). -/
def execPreqCancel (s : State) : Host.Outcome State Fault Refusal := preq "PREQ_CANCEL" s 0 fun s _ q => preqCancel s q
/-- PREQ_SAVE (R386). -/
def execPreqSave (s : State) : Host.Outcome State Fault Refusal := preq "PREQ_SAVE" s 1 fun s d q => preqSave s d false q
/-- PREQ_SAVE_HOLD (R386). -/
def execPreqSaveHold (s : State) : Host.Outcome State Fault Refusal :=
  preq "PREQ_SAVE_HOLD" s 2 fun s d q => preqSave s d true q
/-- PREQ_RELEASE (R386). -/
def execPreqRelease (s : State) : Host.Outcome State Fault Refusal := preq "PREQ_RELEASE" s 3 preqRelease
/-- PREQ_ABORT (R386): the launch of the team ends FAULTED (R382). -/
def execPreqAbort (s : State) : Host.Outcome State Fault Refusal :=
  preq "PREQ_ABORT" s 4 fun s d q => preqDone (abortLaunch s q.launch) d

/-! ### Entry into a save routine (R387, R388) -/

/-- The index of the safe point that a lane group stands at: its header is listed, and its SP bit stands (R161). -/
def safeAt (s : State) (k : Kernel) (ctx d : Nat) (pc : Word) : Option Nat :=
  match k.safe.findIdx? fun r => BitVec.ofNat 64 (k.va + r.1) == pc with
  | none => none
  | some i =>
    match xlNow s d ctx pc .fetch with
    | (_, .ok pa) =>
      match physRead s pa 8 with
      | .ok x => if x / 2 ^ 62 == 3 && x / 2 ^ 37 % 2 == 1 then some i else none
      | _ => none
    | _ => none

/-- The safe-point record with which a wave enters: that of a safe point where one of its groups stands, else record 0
once every group waits, is parked or is held. A recorded wave enters record 0 wherever it stands (R410). -/
def entryRecord (s : State) (key : Nat) (w : Wave) (k : Kernel) : Option Nat :=
  if recMode s w != 0 then some 0
  else
    let ls := lanesOf w.live
    let atPoint := fun (l : Nat) =>
      let x := w.lane l
      if x.st == .active && x.cl == .header && !Wave.blocked x then safeAt s k w.ctx (dieOf key) x.pc else none
    match ls.findSome? atPoint with
    | some i => some i
    | none =>
      if ls.all fun l => (w.lane l).st == .parked || ((w.lane l).wait != .none && (w.lane l).wait != .walk) || w.holds.any fun h => h.2.getLsbD l then some 0
      else none

/-- Where the save area of a team lies, by the entry of tid255 (R389). -/
def saveArea (s : State) (d : Nat) (x : Launch) (number : Nat) : State × Except EErr Nat :=
  match unitRead s d x.ctx (x.tnbase + 64 * 255) 64 with
  | (s, .error e) => (s, .error e)
  | (s, .ok bs) =>
    let ws := wordsOf bs
    (s, .ok ((bits (wordAt ws 1) 55 0 + number * bits (wordAt ws 3) 47 0) % 2 ^ 64))

/-- Smax and H of a save header (R389). -/
def saveMax (k : Kernel) : Nat := k.safe.foldl (fun m r => max m r.2.2.2) 0
def saveHead (n : Nat) : Nat := (0x20 + 16 * n + 31) / 32 * 32

/-- The first 32 bytes of a save header. -/
def headerBytes (t : Team) (x : Launch) (n : Nat) : List Byte :=
  [t.number % 2 ^ 32 * 2 ^ 32 + n * 2 ^ 16 + t.pair.toNat, x.queue * 2 ^ 26 + x.slot * 2 ^ 16 + x.ctx,
    saveMax x.kernel * 2 ^ 32, 0].flatMap fun v => bytesOf v 8

/-- The pair of words of wave i of a save header: lanes, safe-point record, WAVEID and the offset of its save area. -/
def pairBytes (k : Kernel) (n i : Nat) (live : Mask) (record waveId : Nat) : List Byte :=
  bytesOf live.toNat 8 ++ bytesOf (record * 2 ^ 48 + waveId * 2 ^ 32 + (saveHead n + i * saveMax k) % 2 ^ 32) 8

/-- The save header of a team before its first routine: its area is known, and its waves are counted. -/
def startSave (s : State) (tn : Nat) : State × Option EErr :=
  let t := s.team tn
  let x := s.launch t.launch
  let d := dieOfCore t.core
  if t.saving then (s, none)
  else
    match saveArea s d x t.number with
    | (s, .error e) => (s, some e)
    | (s, .ok area) =>
      let ws := (liveWaves s t).map Prod.fst
      match unitWrite s d x.ctx area (headerBytes t x ws.length) with
      | (s, some e) => (s, some e)
      | (s, none) => (s.updTeam tn fun t => { t with saving := true, area, saveWs := ws }, none)

/-- The words of a wave in its team's save header. -/
def writePair (s : State) (tn waveId : Nat) (live : Mask) (record : Nat) : State × Option EErr :=
  let t := s.team tn
  let x := s.launch t.launch
  let i := t.saveWs.idxOf waveId
  unitWrite s (dieOfCore t.core) x.ctx (t.area + 0x20 + 16 * i) (pairBytes x.kernel t.saveWs.length i live record waveId)

/-- A lane as its wave's save routine begins (R388): it remembers where it stopped and what it waited for. A lane
released from the launch barrier is past its wait. -/
def enterLane (pc : Word) (l : Lane) : Lane :=
  if l.st == .exited then l
  else
    { pc, dd := 0, st := .active, cl := .header, was := l.wait,
      stop := some (if l.wait == .inRound then l.pc + 8 else l.pc, l.dd) }

/-- Lanes of a wave leave the fault entries and the walks that they wait on (R57). -/
def detachLanes (s : State) (key serial : Nat) : State :=
  let mine := fun (a : Attached) => match a with | .lanes k n _ => k == key && n == serial | _ => false
  { s with
    dies := s.dies.map fun (p : Nat × Die) => (p.1, { p.2 with
      faultWait := p.2.faultWait.filter fun f => !mine f.who,
      faults := p.2.faults.map fun (f : FaultEntry) => { f with who := f.who.filter fun a => !mine a } }),
    walking := s.walking.map fun (p : Nat × Walking) =>
      (p.1, { p.2 with waiting := p.2.waiting.filter fun q => !(q.1 == key && q.2.1 == serial) }) }

/-- A wave in its save routine: one lane group at the routine's header. -/
def enterRoutine (s : State) (key : Nat) (w : Wave) (k : Kernel) (record : Nat) : State :=
  let pc := BitVec.ofNat 64 (k.va + ((k.safe[record]?).map fun r => r.2.1).getD 0)
  let rec_ := recMode s w != 0
  let s := detachLanes s key w.serial
  let s := s.updWave key fun w =>
    let w := w.uncount (BitVec.allOnes 64)
    { w with lanes := w.lanes.map (enterLane pc), holds := [], xfault := [], save := .saving record,
             quantum := if rec_ then { routine := true } else w.quantum }
  let s := { s with replay := { s.replay with struck := s.replay.struck.filter fun n => n != key } }
  s.updTeam w.team fun t => { t with entered := t.entered ++ [w.waveId] }

/-- SAVE_ENTRY (R387 to R389): a wave of a team to be saved enters a save routine. -/
def execSaveEntry (s : State) : Host.Outcome State Fault Refusal :=
  let name := "SAVE_ENTRY"
  let key := s.subj.a
  match s.wave? key with
  | none => notNow name
  | some w =>
    let t := s.team w.team
    let k := (s.launch w.launch).kernel
    if isCtl key || !mayEnter s key w t || k.safe.isEmpty || !coreOn s (coreOf key) || (recMode s w != 0 && s.replay.phase != 0) then notNow name
    else
      match entryRecord s key w k with
      | none => notNow name
      | some record =>
        let fail := fun (s' : State) (e : EErr) =>
          if e == .gated then (if s' == s then notNow name else .next s') else .next (abortLaunch s' w.launch)
        let s0 := if recMode s w != 0 then rollback s key else s
        let w := s0.wave key
        match startSave s0 w.team with
        | (s', some e) => fail s' e
        | (s', none) =>
          match writePair s' w.team w.waveId w.live record with
          | (s', some e) => fail s' e
          | (s', none) => .next (enterRoutine s' key w k record)

/-! ### The end of a save (R391) -/

/-- Stores of a launch's waves that are no longer resident and that have still to be performed at their home slices. -/
def strayStores (s : State) (no : Nat) : Bool :=
  s.txs.any fun p => p.2.launch == no && !isCtl p.2.wave && (s.waveAt p.2.wave p.2.serial).isNone
    && (p.2.accs.any (fun a => reached p.2 a < 3) || !p.2.owed.isEmpty)

/-- The words of counted waves that ended before they entered a routine: they hold no lane. -/
def writeAbsent (s : State) (tn : Nat) : List Nat → State × Option EErr
  | [] => (s, none)
  | wi :: rest =>
    match writePair s tn wi 0 0 with
    | (s, some e) => (s, some e)
    | (s, none) => writeAbsent s tn rest

/-- TEAM_SAVED (R391): the last wave has left its routine and every store has been performed; what the team held is
released, and it goes to the restore line of its die, or is held. -/
def execTeamSaved (s : State) : Host.Outcome State Fault Refusal :=
  let name := "TEAM_SAVED"
  let tn := s.subj.a
  match s.teams.find? tn with
  | none => notNow name
  | some t =>
    if !t.saving || !t.waves.isEmpty || strayStores s t.launch then notNow name
    else
      match t.save with
      | .none => notNow name
      | .pending hold d =>
        match writeAbsent s tn (t.saveWs.filter fun wi => !t.entered.contains wi) with
        | (s', some .gated) => if s' == s then notNow name else .next s'
        | (s', some _) => .next (abortLaunch s' t.launch)
        | (s', none) =>
          let s := { releaseTeam s' tn with teams := s'.teams.del tn }
          let v : Saved := { launch := t.launch, number := t.number, saved := true, pair := t.pair, hold, area := t.area }
          .next (preqDone (s.updDie (dieOfCore t.core) fun k => { k with line := k.line ++ [v] }) d)

end Sys2Proof.Machine
end

