-- ==== Sys2Proof/Machine/Retriever.lean ====
section
/-! DEFINITION. The Retriever traversal engine (05_retriever.md R82 to R94): descriptors, slots and migration, rules,
faults and results. -/

namespace Sys2Proof.Machine

/-! ### Descriptors and rules (R82 to R86) -/

/-- The fields of a walk descriptor. -/
structure WalkDesc where
  plen : Nat
  prog : Nat
  rbase : Nat
  limit : Nat
  policy : Nat
  scope : Scope
  rstride : Nat
  poff : Int
  prlen : Nat
  bad : Bool
deriving DecidableEq, Repr

/-- A descriptor of four words; the scope of an invalid one is .k (R83). -/
def walkDesc (ws : List Word) : WalkDesc :=
  let a := wordAt ws 0
  let b := wordAt ws 1
  let c := wordAt ws 2
  let d := wordAt ws 3
  let rstride := bits c 31 16
  let bad := bits a 59 56 != 0 || bits b 63 56 != 0 || bits c 47 42 != 0 || bits c 37 32 != 0 || bits c 15 0 != 0
    || bits d 63 32 != 0 || bits d 15 9 != 0 || bits c 41 40 == 3 || bits c 39 38 == 3 || bits a 6 0 != 0
    || bits b 3 0 != 0 || bits d 8 0 > 256 || rstride % 16 != 0 || rstride < 16
  { plen := bits a 63 60, prog := bits a 55 0, rbase := bits b 55 0, limit := bits c 63 48, policy := bits c 41 40,
    scope := if bad then .k else match bits c 39 38 with | 0 => .d | 1 => .k | _ => .s,
    rstride, poff := sext (bits d 31 16) 16, prlen := bits d 8 0, bad }

/-- The fields of a rule. -/
structure WRule where
  op : Nat
  w : Nat
  sg : Bool
  ta : Nat
  tb : Nat
  off : Int
  imm : Nat
deriving DecidableEq, Repr

def wrule (x : Word) : WRule :=
  { op := bits x 63 60, w := bits x 59 58, sg := bit x 57, ta := bits x 55 52, tb := bits x 51 48,
    off := sext (bits x 47 32) 16, imm := bits x 31 0 }

/-- Whether rule i of a program is defective (R86). -/
def ruleBad (plen i : Nat) (x : Word) : Bool :=
  let r := wrule x
  let noW := r.w == 0
  let noSg := !r.sg
  let noT := r.ta == 0 && r.tb == 0
  let noOff := r.off == 0
  let next := i + 1 ≤ plen
  let goT := r.ta ≤ plen && r.tb ≤ plen
  bit x 56 || !(match r.op with
    | 1 => noT && r.imm == 0 && next
    | 2 => noW && noOff && r.imm == 0 && goT && next
    | 3 => noW && noOff && goT && next
    | 4 => r.w == 3 && noSg && r.imm == 0 && goT
    | 5 => noW && noSg && noT && noOff && bits x 15 5 == 0 && next
    | 6 => noW && noSg && noT && bits x 31 9 == 0 && r.imm ≠ 0 && r.imm ≤ 256
    | 7 => noW && noSg && noT && noOff && r.imm == 0
    | _ => false)

/-! ### Walks -/

def updWalk (s : State) (n : Nat) (f : WalkRec → WalkRec) : State := { s with walks := s.walks.upd n f }
def walkCmd (s : State) (w : WalkRec) : Option Cmd := s.cmds.find? w.cmd
/-- The descriptor of a walk's command, once read. -/
def descOf (s : State) (w : WalkRec) : WalkDesc := walkDesc (((walkCmd s w).map Cmd.src).getD [])

/-- A walk ends: its header, pointer and record are formed, the record cut short to its slot (R83, R93). -/
def endWalk (s : State) (n : Nat) (w : WalkRec) (status fault rule : Nat) (ptr : Word) (rec_ : List Byte) : State :=
  let rec_ := rec_.take ((descOf s w).rstride - 16)
  let head := BitVec.ofNat 64 (status * 2 ^ 56 + fault * 2 ^ 48 + rule % 16 * 2 ^ 44 + w.n % 2 ^ 16 * 2 ^ 16 + rec_.length)
  updWalk s n fun w => { w with st := .ending, result := some (head, ptr, rec_) }

/-- Why a walk's read did not happen: a code of R93 and the address. -/
structure WFault where
  code : Nat
  va : Nat
deriving DecidableEq, Repr

def wcode : Trap → Nat
  | .notPresent => 1 | .permission => 2 | .badEntry => 3 | .vaRange => 4 | .walkUnmapped => 5 | .memUncorr => 6
  | .unmappedPhys => 7 | .ctxInvalid => 9
  | _ => 8

/-- The physical address of a walk's read, on the die of the Retriever that holds it; memory of a peer and the map are no
targets of a pointer, nor of a field or record at an offset from it (R87, R88; log entry 50). -/
def walkXl (s : State) (w : WalkRec) (va : Nat) : State × Except WFault Nat :=
  match xlNow s (w.retr / 8) w.ctx (BitVec.ofNat 64 va) .read with
  | (s, .error t) => (s, .error { code := wcode t, va })
  | (s, .ok pa) =>
    match place pa with
    | .dev _ | .host | .hole => (s, .ok pa)
    | _ => (s, .error { code := 8, va })

/-- Bytes that a walk reads, piece by piece, at a scope, at one moment; a fault names the first byte of its piece (R87,
R93; log entry 50). -/
def walkPieces (s : State) (w : WalkRec) (sc : Scope) : List (Nat × Nat) → State × Except WFault (List Byte)
  | [] => (s, .ok [])
  | (va, n) :: rest =>
    match walkXl s w va with
    | (s, .error f) => (s, .error f)
    | (s, .ok pa) =>
      let d := w.retr / 8
      match readAt s (64 * d) d sc pa n with
      | .unmapped => (logFail s d pa n .unmapped, .error { code := 7, va })
      | .bad => (logFail s d pa n .bad, .error { code := 6, va })
      | .ok x =>
        match walkPieces (arriveLines (readLeaves s (64 * d) d sc pa n) d pa n) w sc rest with
        | (s, .ok bs) => (s, .ok (bytesOf x n ++ bs))
        | e => e

def walkRead (s : State) (w : WalkRec) (sc : Scope) (va n : Nat) : State × Except WFault (List Byte) :=
  walkPieces s w sc (piecesOf (va % 2 ^ 64) n)

/-- The fault of a walk that a plain read of its command makes (R84, R91). -/
def plainFault (va : Nat) : EErr → WFault
  | .xl t a => { code := wcode t, va := a }
  | .unmapped => { code := 7, va }
  | .bad => { code := 6, va }
  | .width a => { code := 8, va := a }
  | .gated => { code := 8, va }

/-- A fault on a walk's read (R91): the policy aborts it, returns the record at G, or parks it. The header of a record at G
names no fault (log entry 50). -/
def walkFault (s : State) (n : Nat) (w : WalkRec) (rule : Nat) (f : WFault) : State :=
  let d := descOf s w
  let abort := fun (s : State) => endWalk s n w 3 f.code rule (BitVec.ofNat 64 f.va) []
  if d.policy = 1 then
    match w.g with
    | none => abort s
    | some g =>
      match walkRead s w d.scope (g + word d.poff).toNat d.prlen with
      | (s, .ok bs) => endWalk s n w 2 0 rule g bs
      | (s, .error _) => abort s
  else if d.policy = 2 && f.code ≤ 2 && !failFast s (w.retr / 8) w.ctx then
    match walkCmd s w with
    | some x =>
      queueFault (updWalk s n fun w => { w with st := .parked, fault := f.code, faultVa := f.va }) (w.retr / 8)
        { ctx := w.ctx, va := f.va, access := Need.read.code, fault := f.code, requester := 4, origin := originOf x.wave,
          lanes := 1, pc := x.pc, seq := x.seq, who := .walk n }
    | none => s
  else abort s

/-- The Retriever that serves the home of a physical address. -/
def retrOf (pa d : Nat) : Nat := 8 * homeDie pa d + homeSlice pa / 3

/-- A walk goes to the Retriever of HOME(P) (R88); one whose P cannot be translated, or is no target, stays, and faults at
its next read there. -/
def settleWalk (s : State) (n : Nat) (w : WalkRec) : State :=
  match walkXl s w w.p.toNat with
  | (s, .error _) => s
  | (s, .ok pa) =>
    match place pa with
    | .hole => s
    | _ =>
      if retrOf pa (w.retr / 8) = w.retr then s
      else
        let (no, s) := s.takeNo
        updWalk s n fun w =>
          { w with st := .moving, hasSlot := false, reserved := false, retr := retrOf pa (w.retr / 8), arrived := no }

/-- Slots of a Retriever in use, of one kind. -/
def slotsUsed (s : State) (r : Nat) (reserved : Bool) : Nat :=
  (s.walks.filter fun p => p.2.hasSlot && p.2.retr == r && p.2.reserved == reserved).length

/-! ### Starting (R82, R83, R89, R90) -/

/-- The walks of a command. -/
def walksOf (s : State) (no : Nat) : List (Nat × WalkRec) := s.walks.filter fun p => p.2.cmd == no

/-- A command that ends before any walk runs. -/
def endTrav (s : State) (no status : Nat) : State :=
  let s := { s with walks := s.walks.filter fun p => p.2.cmd != no }
  updCmd s no fun x => { x.failWith status with st := .finished, walks := 0 }

/-- DESCRIPTOR_READ (R82, R83, R91, R209). -/
def execDescriptorRead (s : State) : Host.Outcome State Fault Refusal :=
  let name := "DESCRIPTOR_READ"
  let no := s.subj.a
  match s.cmds.find? no with
  | none => notNow name
  | some x =>
    let d := cmdDie x
    let va := (wordAt x.words 0).toNat
    if x.kind != .trav || x.held || x.st != .queued then notNow name
    else if va % 32 != 0 then .next (endTrav s no 5)
    else
      match unitRead s d x.ctx va 32 with
      | (s, .ok bs) =>
        let s := updCmd s no fun x => { x with st := .running, src := wordsOf bs }
        .next (if (walkDesc (wordsOf bs)).bad then
            (walksOf s no).foldl (fun s p => endWalk s p.1 p.2 7 0 0 p.2.p []) s
          else s)
      | (s, .error e) =>
        if e == .gated then .next s
        else if parksUnit s d x.ctx e then
          match e with
          | .xl t va => .next (queueFault (updCmd s no fun x => { x with st := .parked }) d (cmdFault x no 0 va .read t 4))
          | _ => .next s
        else .next (endTrav s no (statusOf e))

/-- The first of a list by a number, or none. -/
def isFirst (s : State) (n : Nat) (f : WalkRec → Bool) : Bool := s.walks.all fun p => !f p.2 || n ≤ p.1

/-- WALK_START (R84, R86, R88 to R90): a slot at the first Retriever, the rule program read and checked. The order of
commands is among those whose descriptor has been read (log entry 50). -/
def execWalkStart (s : State) : Host.Outcome State Fault Refusal :=
  let name := "WALK_START"
  let n := s.subj.a
  match s.walks.find? n with
  | none => notNow name
  | some w =>
    let started := match walkCmd s w with | some x => x.st == .running | none => false
    let waits := fun (v : WalkRec) => v.st == .queued && v.retr == w.retr && !v.hasSlot
      && (match walkCmd s v with | some x => x.st == .running | none => false)
    let movers := s.walks.any fun p => p.2.retr == w.retr
      && ((p.2.st == .parked && p.2.reserved) || (p.2.st == .moving && slotsUsed s w.retr true < 16))
    if w.st != .queued || !started
        || (!w.hasSlot && (slotsUsed s w.retr false ≥ 48 || movers || !isFirst s n waits)) then notNow name
    else
      let q := { w with hasSlot := true }
      let w := { q with st := .running }
      let s := updWalk s n fun _ => w
      let d := descOf s w
      match unitRead s (w.retr / 8) w.ctx d.prog (8 * (d.plen + 1)) with
      | (s, .error e) => .next (if e == .gated then updWalk s n fun _ => q else walkFault s n w 0 (plainFault d.prog e))
      | (s, .ok bs) =>
        let rules := wordsOf bs
        let w := { w with rules }
        let s := updWalk s n fun _ => w
        match (rules.zipIdx.find? fun p => ruleBad d.plen p.2 p.1) with
        | some p => .next (endWalk s n w 5 0 p.2 w.p [])
        | none =>
          if w.p == 0 then .next (endWalk s n w 1 0 0 w.p [])
          else .next (settleWalk s n w)

/-- WALK_MIGRATE (R88, R89): a walk that has arrived takes a reserved slot, in arrival order. -/
def execWalkMigrate (s : State) : Host.Outcome State Fault Refusal :=
  let n := s.subj.a
  match s.walks.find? n with
  | none => notNow "WALK_MIGRATE"
  | some w =>
    let first := s.walks.all fun p => p.2.st != .moving || p.2.retr != w.retr || w.arrived ≤ p.2.arrived
    if w.st != .moving || !first || slotsUsed s w.retr true ≥ 16 then notNow "WALK_MIGRATE"
    else .next (updWalk s n fun w => { w with st := .running, hasSlot := true, reserved := true })

/-- PARKED_WALK_SLOT_MOVE (R89): a walk parked in a reserved slot takes a free ordinary one. -/
def execParkedWalkSlotMove (s : State) : Host.Outcome State Fault Refusal :=
  let n := s.subj.a
  match s.walks.find? n with
  | none => notNow "PARKED_WALK_SLOT_MOVE"
  | some w =>
    if w.st != .parked || !w.reserved || slotsUsed s w.retr false ≥ 48 then notNow "PARKED_WALK_SLOT_MOVE"
    else .next (updWalk s n fun w => { w with reserved := false })

/-! ### Rules (R85, R86) -/

/-- What a rule that has run does to its walk. -/
inductive RuleRes
  /-- the walk goes on at a rule, with or without a step; `moved` says that P changed -/
  | on (s : State) (w : WalkRec) (next : Nat) (stepped moved : Bool)
  | ended (s : State)

/-- The shared frame of the rules: the walk runs, its next rule has the op, and it is at the home of P. -/
def runRule (s : State) (name : String) (op : Nat) (k : State → WalkRec → WRule → WalkDesc → RuleRes) :
    Host.Outcome State Fault Refusal :=
  let n := s.subj.a
  match s.walks.find? n with
  | none => notNow name
  | some w =>
    let r := wrule (wordAt w.rules w.rule)
    if w.st != .running || w.rules.isEmpty || r.op != op then notNow name
    else
      let t := settleWalk s n w
      if ((t.walks.find? n).map WalkRec.st) != some .running then .next t
      else
        match k t w r (descOf t w) with
        | .ended s => onTime name (.next s)
        | .on s w' next stepped moved =>
          let since := if stepped then 0 else w.since + 1
          let w' := { w' with rule := next, since }
          let s := updWalk s n fun _ => w'
          onTime name (.next
            (if since ≥ 64 then endWalk s n w' 6 0 w.rule w'.p [] else if moved then settleWalk s n w' else s))

/-- The address of a rule's field. -/
def fieldAt (w : WalkRec) (r : WRule) : Nat := (w.p + word r.off).toNat

/-- A read at an offset from P: that P has a home is part of it (R88). -/
def readAtP (s : State) (n : Nat) (w : WalkRec) (d : WalkDesc) (va len : Nat) (k : State → List Byte → RuleRes) : RuleRes :=
  match walkXl s w w.p.toNat with
  | (s, .error f) => .ended (walkFault s n w w.rule f)
  | (s, .ok _) =>
    match walkRead s w d.scope va len with
    | (s, .error f) => .ended (walkFault s n w w.rule f)
    | (s, .ok bs) => k s bs

/-- A field read; one that is not aligned ends the walk. -/
def readField (s : State) (n : Nat) (w : WalkRec) (r : WRule) (d : WalkDesc) (k : State → Nat → RuleRes) : RuleRes :=
  let va := fieldAt w r
  let len := 2 ^ r.w
  if va % len != 0 then .ended (endWalk s n w 5 0 w.rule w.p [])
  else readAtP s n w d va len fun s bs => k s (ofBytes bs)

/-- RULE_LDF (R85). -/
def execRuleLdf (s : State) : Host.Outcome State Fault Refusal :=
  runRule s "RULE_LDF" 1 fun s w r d =>
    readField s s.subj.a w r d fun s v =>
      .on s { w with t := if r.sg then word (sext v (8 * 2 ^ r.w)) else BitVec.ofNat 64 v } (w.rule + 1) false false

/-- The next rule of a comparison. -/
def compareRule (w : WalkRec) (r : WRule) (y : Word) : Nat :=
  if w.t == y then r.ta
  else if (if r.sg then w.t.toInt < y.toInt else w.t.toNat < y.toNat) then r.tb
  else w.rule + 1

/-- RULE_CMPK (R85). -/
def execRuleCmpk (s : State) : Host.Outcome State Fault Refusal :=
  runRule s "RULE_CMPK" 2 fun s w r _ => .on s w (compareRule w r w.k) false false

/-- RULE_CMPI (R85). -/
def execRuleCmpi (s : State) : Host.Outcome State Fault Refusal :=
  runRule s "RULE_CMPI" 3 fun s w r _ => .on s w (compareRule w r (word (sext r.imm 32))) false false

/-- RULE_FOLLOW (R85). -/
def execRuleFollow (s : State) : Host.Outcome State Fault Refusal :=
  runRule s "RULE_FOLLOW" 4 fun s w r d =>
    readField s s.subj.a w r d fun s v =>
      if v = 0 then .on s w r.ta false false
      else if w.n = d.limit then .ended (endWalk s s.subj.a w 4 0 w.rule w.p [])
      else
        .on s { w with g := if w.n ≥ 1 then some w.p else w.g, p := BitVec.ofNat 64 v, n := w.n + 1 } r.tb true true

/-- RULE_HASHK (R85). -/
def execRuleHashk (s : State) : Host.Outcome State Fault Refusal :=
  runRule s "RULE_HASHK" 5 fun s w r _ =>
    let h := (bits w.k 31 0 ^^^ bits w.k 63 32) % 2 ^ (r.imm % 32)
    .on s { w with p := w.p + BitVec.ofNat 64 (h * (r.imm / 2 ^ 16)) } (w.rule + 1) false true

/-- RULE_RET (R85). -/
def execRuleRet (s : State) : Host.Outcome State Fault Refusal :=
  runRule s "RULE_RET" 6 fun s w r d =>
    readAtP s s.subj.a w d (fieldAt w r) (r.imm % 512) fun s bs => .ended (endWalk s s.subj.a w 0 0 w.rule w.p bs)

/-- RULE_MISS (R85). -/
def execRuleMiss (s : State) : Host.Outcome State Fault Refusal :=
  runRule s "RULE_MISS" 7 fun s w _ _ => .ended (endWalk s s.subj.a w 1 0 w.rule w.p [])

/-! ### Results (R92 to R94) -/

/-- A result stored: header, pointer and record, or nothing where the slot cannot be written. -/
def walkResult (s : State) : Host.Outcome State Fault Refusal :=
  let name := "WALK_RESULT_WRITE"
  let n := s.subj.a
  match s.walks.find? n with
  | none => notNow name
  | some w =>
    match w.st, w.result with
    | .ending, some (head, ptr, rec_) =>
      let d := descOf s w
      let bs := bytesOf head.toNat 8 ++ bytesOf ptr.toNat 8 ++ rec_
      let va := (d.rbase + w.lane * d.rstride) % 2 ^ 64
      let done := fun (s : State) (failed : Bool) =>
        updCmd { s with walks := s.walks.del n } w.cmd fun x =>
          { (if failed then x.failWith 6 else x) with walks := x.walks - 1 }
      match unitXl s (w.retr / 8) w.ctx .write (piecesOf va bs.length) with
      | (s, .error .gated) => .next s
      | (s, .error _) => .next (done s true)
      | (s, .ok ps) =>
        match physWrites s (((walkCmd s w).map cmdDie).getD (w.retr / 8)) w.ctx ps bs with
        | (s, none) => .next (done s false)
        | (s, some _) => .next (done s true)
    | _, _ => notNow name

/-- WALK_RESULT_WRITE (R92, R93): header, pointer and record are stored, or the slot is not written and the command
completes with RESULT_FAULT. -/
def execWalkResultWrite (s : State) : Host.Outcome State Fault Refusal :=
  buffered "WALK_RESULT_WRITE" s ((s.walks.find? s.subj.a).bind fun w => s.cmds.find? w.cmd) walkResult

end Sys2Proof.Machine
end

