-- ==== Sys2Proof/Machine/Resolve.lean ====
section
/-! DEFINITION. The resolution of fault queue entries (03_translation.md R56, R57): what RETRY and FAIL do to the
requests that are attached to an entry (R91, R141, R269, R295, R367). -/

namespace Sys2Proof.Machine

/-! ### Lanes (R54, R56) -/

/-- Lanes of a wave are attached to nothing any more, and wait for no entry. -/
def dropAttached (s : State) (key serial : Nat) (m : Mask) : State :=
  let cut := fun (a : Attached) =>
    match a with
    | .lanes k n x => if k == key && n == serial then (if x &&& ~~~m == 0 then none else some (Attached.lanes k n (x &&& ~~~m))) else some a
    | a => some a
  { s with dies := s.dies.map fun (p : Nat × Die) => (p.1, { p.2 with
      faultWait := p.2.faultWait.filterMap fun f => (cut f.who).map fun who => { f with who },
      faults := p.2.faults.map fun (f : FaultEntry) => { f with who := f.who.filterMap cut } }) }

/-- The parked lanes of a mask become active at their word. -/
def unpark (w : Wave) (m : Mask) : Wave :=
  w.mapLanes m fun _ l => if l.st == .parked then { l with st := .active, wait := .none } else l

/-- Attached lanes: on RETRY they issue their word again, on FAIL they take PAGE_FAULT. -/
def resolveLanes (s : State) (key serial : Nat) (m : Mask) (retry : Bool) : State :=
  match s.waveAt key serial with
  | none => s
  | some w =>
    let m := m &&& w.lanesWhere fun l => l.st == .parked
    if m == 0 then s
    else
      let s := (dropAttached s key serial m).updWave key fun w => unpark w m
      if retry then s
      else
        let s := { s with replay := { s.replay with struck := s.replay.struck.filter fun k => k != key } }
        s.takeTrap key .pageFault 0 [(m, m, (w.lane (lowest m)).pc, 0)]

/-! ### Engines -/

/-- A command whose access failed for good. -/
def failCmd (s : State) (no : Nat) (x : Cmd) : State :=
  match x.kind with
  | .stream => badStream s no 3
  | .trav => endTrav s no 3
  | _ =>
    let s := endCmd s no 3
    { s with dies := s.dies.map fun (p : Nat × Die) =>
        (p.1, { p.2 with copyq := p.2.copyq.map fun (q : Nat × List Nat) => (q.1, q.2.filter fun n => n != no) }) }

/-- A parked access of a command, or a command that is parked as a whole before it began. -/
def resolveCmd (s : State) (no unit : Nat) (retry : Bool) : State :=
  match s.cmds.find? no with
  | none => s
  | some x =>
    if x.st == .parked then if retry then updCmd s no fun x => { x with st := .queued } else failCmd s no x
    else
      let un := x.units.getD unit {}
      if !un.parked then s
      else
        let un := { un with parked := false }
        let un := if retry then un else if x.kind == .copy || x.kind == .stream then un.without un.part else { un with failed := some 3 }
        updCmd s no fun x =>
          let x := { x with units := x.units.set unit un,
                            phase := if !retry && un.got.isNone && x.phase == unit && (match x.kind with | .gath | .scat | .scatr => true | _ => false)
                                     then unit + 1 else x.phase }
          if retry then x else x.failWith 3

/-- A parked walk: it runs its rule again, or ends as under ABORT. -/
def resolveWalk (s : State) (n : Nat) (retry : Bool) : State :=
  match s.walks.find? n with
  | none => s
  | some w =>
    if w.st != .parked then s
    else if retry then
      updWalk s n fun w => { w with st := if w.rules.isEmpty then .queued else .running, fault := 0, faultVa := 0 }
    else endWalk s n w 3 w.fault w.rule (BitVec.ofNat 64 w.faultVa) []

/-- A parked operation of an array. -/
def resolveMatrix (s : State) (core : Nat) (retry : Bool) : State :=
  match headOp s core with
  | none => s
  | some o =>
    if !o.parked then s
    else if retry then setOp s core { o with parked := false }
    else setOp s core { o with parked := false, ended := true, status := 3 }

/-- A parked beam engine. -/
def resolveBeam (s : State) (core : Nat) (retry : Bool) : State :=
  if !(s.core core).beam.parked then s
  else
    let ws := (s.core core).beam.walks.filter fun p => p.2.parked
    let s := updBeam s core fun e => { e with parked := false }
    if retry then ws.foldl (fun s p => setWalk s core p.1 { p.2 with parked := false }) s
    else ws.foldl (fun s p => failWalk s core p.1 p.2 3) s

/-- One request attached to an entry of a context. -/
def resolveOne (s : State) (ctx : Nat) (retry : Bool) (a : Attached) : State :=
  match a with
  | .lanes key serial m => resolveLanes s key serial m retry
  | .cmd no unit => resolveCmd s no unit retry
  | .walk n => resolveWalk s n retry
  | .matrix core => resolveMatrix s core retry
  | .beam core => resolveBeam s core retry
  | .dispatch core no =>
    if retry then s.updCore core fun c => { c with dqStall := c.dqStall.filter fun n => n != no } else abortLaunch s no
  | .ready core d =>
    let s' := s.updCore core fun c => { c with rqStall := c.rqStall.filter fun n => n != d }
    if retry then s'
    else match taskLaunch s ctx (dieOfCore core) with | some (no, _) => abortLaunch s' no | none => s'

/-- An action on a ring index: the entry is resolved, with every request attached to it; an index that is not unresolved
is left alone. -/
def resolveEntry (s : State) (d : Nat) (idx : BitVec 32) (retry : Bool) : State :=
  match (s.die d).faults.find? fun e => e.idx == idx with
  | none => s
  | some e =>
    let s := s.updDie d fun x => { x with faults := x.faults.filter fun f => f.idx != idx }
    e.who.foldl (fun s a => resolveOne s e.ctx retry a) s

/-- A write of XL_FRESOLVE; one of a context other than 0 has no effect (R46). -/
def fresolve (name : String) (s : State) (action : Nat) (retry : Bool) : Host.Outcome State Fault Refusal :=
  let d := s.subj.a
  ctlEvent name s d Off.xlFresolve (fun x => bits x 63 62 == action && bits x 31 0 == s.subj.b) fun s x ctx =>
    if ctx == 0 then resolveEntry s d (BitVec.ofNat 32 (bits x 31 0)) retry else s

/-- XL_FRESOLVE_RETRY (R56). -/
def execXlFresolveRetry (s : State) : Host.Outcome State Fault Refusal := fresolve "XL_FRESOLVE_RETRY" s 1 true
/-- XL_FRESOLVE_FAIL (R56). -/
def execXlFresolveFail (s : State) : Host.Outcome State Fault Refusal := fresolve "XL_FRESOLVE_FAIL" s 2 false

end Sys2Proof.Machine
end

