-- ==== Sys2Proof/Machine/Dispatch.lean ====
section
/-! DEFINITION. One arm per constructor of `Instr`: the meaning of each instruction and event. -/

namespace Sys2Proof.Machine

def exec (i : Instr) (s : State) : Host.Outcome State Fault Refusal :=
  match i with
  | .ld o m => Sys2Proof.Machine.execLd o m s
  | .st o m => Sys2Proof.Machine.execSt o m s
  | .ldsc o m words => Sys2Proof.Machine.execLdsc o m words s
  | .stsc o m words => Sys2Proof.Machine.execStsc o m words s
  | .lds o m => Sys2Proof.Machine.execLds o m s
  | .sts o m => Sys2Proof.Machine.execSts o m s
  | .ldt o m tb => Sys2Proof.Machine.execLdt o m tb s
  | .stt o m tb => Sys2Proof.Machine.execStt o m tb s
  | .ldbc o m => Sys2Proof.Machine.execLdbc o m s
  | .pref o m => Sys2Proof.Machine.execPref o m s
  | .aadd o m => Sys2Proof.Machine.execAadd o m s
  | .amin o m => Sys2Proof.Machine.execAmin o m s
  | .amax o m => Sys2Proof.Machine.execAmax o m s
  | .aand o m => Sys2Proof.Machine.execAand o m s
  | .aor o m => Sys2Proof.Machine.execAor o m s
  | .axor o m => Sys2Proof.Machine.execAxor o m s
  | .aexch o m => Sys2Proof.Machine.execAexch o m s
  | .acas o m => Sys2Proof.Machine.execAcas o m s
  | .redadd o m => Sys2Proof.Machine.execRedadd o m s
  | .redmin o m => Sys2Proof.Machine.execRedmin o m s
  | .redmax o m => Sys2Proof.Machine.execRedmax o m s
  | .redand o m => Sys2Proof.Machine.execRedand o m s
  | .redor o m => Sys2Proof.Machine.execRedor o m s
  | .redxor o m => Sys2Proof.Machine.execRedxor o m s
  | .badd o m => Sys2Proof.Machine.execBadd o m s
  | .bread o m => Sys2Proof.Machine.execBread o m s
  | .gath o m => Sys2Proof.Machine.execGath o m s
  | .scat o m => Sys2Proof.Machine.execScat o m s
  | .scatr o m => Sys2Proof.Machine.execScatr o m s
  | .waitc o ctr => Sys2Proof.Machine.execWaitc o ctr s
  | .waitu o cmp wide st => Sys2Proof.Machine.execWaitu o cmp wide st s
  | .copy o => Sys2Proof.Machine.execCopy o s
  | .stream o eng => Sys2Proof.Machine.execStream o eng s
  | .tnset o tid => Sys2Proof.Machine.execTnset o tid s
  | .tnget o tid => Sys2Proof.Machine.execTnget o tid s
  | .ttrdy o tb => Sys2Proof.Machine.execTtrdy o tb s
  | .ttrel o tb => Sys2Proof.Machine.execTtrel o tb s
  | .ttsub o tb => Sys2Proof.Machine.execTtsub o tb s
  | .ttstop o eng => Sys2Proof.Machine.execTtstop o eng s
  | .ttget o tb => Sys2Proof.Machine.execTtget o tb s
  | .trav o => Sys2Proof.Machine.execTrav o s
  | .add o t => Sys2Proof.Machine.execAdd o t s
  | .sub o t => Sys2Proof.Machine.execSub o t s
  | .addsat o t => Sys2Proof.Machine.execAddsat o t s
  | .subsat o t => Sys2Proof.Machine.execSubsat o t s
  | .mul o t => Sys2Proof.Machine.execMul o t s
  | .mulhi o t => Sys2Proof.Machine.execMulhi o t s
  | .mad o t => Sys2Proof.Machine.execMad o t s
  | .madw o t => Sys2Proof.Machine.execMadw o t s
  | .div o t => Sys2Proof.Machine.execDiv o t s
  | .rem o t => Sys2Proof.Machine.execRem o t s
  | .neg o t => Sys2Proof.Machine.execNeg o t s
  | .abs o t => Sys2Proof.Machine.execAbs o t s
  | .min o t => Sys2Proof.Machine.execMin o t s
  | .max o t => Sys2Proof.Machine.execMax o t s
  | .clamp o t => Sys2Proof.Machine.execClamp o t s
  | .absdiff o t => Sys2Proof.Machine.execAbsdiff o t s
  | .and o t => Sys2Proof.Machine.execAnd o t s
  | .or o t => Sys2Proof.Machine.execOr o t s
  | .xor o t => Sys2Proof.Machine.execXor o t s
  | .not o t => Sys2Proof.Machine.execNot o t s
  | .andn o t => Sys2Proof.Machine.execAndn o t s
  | .shl o t => Sys2Proof.Machine.execShl o t s
  | .shr o t => Sys2Proof.Machine.execShr o t s
  | .sar o t => Sys2Proof.Machine.execSar o t s
  | .rotl o t => Sys2Proof.Machine.execRotl o t s
  | .funshr o t => Sys2Proof.Machine.execFunshr o t s
  | .bfx o t => Sys2Proof.Machine.execBfx o t s
  | .bfi o t => Sys2Proof.Machine.execBfi o t s
  | .popc o t => Sys2Proof.Machine.execPopc o t s
  | .clz o t => Sys2Proof.Machine.execClz o t s
  | .ctz o t => Sys2Proof.Machine.execCtz o t s
  | .brev o t => Sys2Proof.Machine.execBrev o t s
  | .permb o t => Sys2Proof.Machine.execPermb o t s
  | .sel o t => Sys2Proof.Machine.execSel o t s
  | .mov o t => Sys2Proof.Machine.execMov o t s
  | .lea o t => Sys2Proof.Machine.execLea o t s
  | .icmp o t cond any => Sys2Proof.Machine.execIcmp o t cond any s
  | .fadd o t => Sys2Proof.Machine.execFadd o t s
  | .fsub o t => Sys2Proof.Machine.execFsub o t s
  | .fmul o t => Sys2Proof.Machine.execFmul o t s
  | .fma o t => Sys2Proof.Machine.execFma o t s
  | .fms o t => Sys2Proof.Machine.execFms o t s
  | .fnma o t => Sys2Proof.Machine.execFnma o t s
  | .fmin o t => Sys2Proof.Machine.execFmin o t s
  | .fmax o t => Sys2Proof.Machine.execFmax o t s
  | .fabs o t => Sys2Proof.Machine.execFabs o t s
  | .fneg o t => Sys2Proof.Machine.execFneg o t s
  | .fdiv o t => Sys2Proof.Machine.execFdiv o t s
  | .fsqrt o t => Sys2Proof.Machine.execFsqrt o t s
  | .frcp o t => Sys2Proof.Machine.execFrcp o t s
  | .frsq o t => Sys2Proof.Machine.execFrsq o t s
  | .fexp2 o t => Sys2Proof.Machine.execFexp2 o t s
  | .flog2 o t => Sys2Proof.Machine.execFlog2 o t s
  | .fsin o t => Sys2Proof.Machine.execFsin o t s
  | .fcos o t => Sys2Proof.Machine.execFcos o t s
  | .ftanh o t => Sys2Proof.Machine.execFtanh o t s
  | .fsigm o t => Sys2Proof.Machine.execFsigm o t s
  | .frnd o t => Sys2Proof.Machine.execFrnd o t s
  | .ffrac o t => Sys2Proof.Machine.execFfrac o t s
  | .fcmp o t cond any => Sys2Proof.Machine.execFcmp o t cond any s
  | .fclass o t any => Sys2Proof.Machine.execFclass o t any s
  | .fdot2 o t => Sys2Proof.Machine.execFdot2 o t s
  | .fdot4 o t => Sys2Proof.Machine.execFdot4 o t s
  | .fscale o t => Sys2Proof.Machine.execFscale o t s
  | .fcvt o t src => Sys2Proof.Machine.execFcvt o t src s
  | .ftoi o t src => Sys2Proof.Machine.execFtoi o t src s
  | .itof o t src => Sys2Proof.Machine.execItof o t src s
  | .icvt o t src => Sys2Proof.Machine.execIcvt o t src s
  | .pack o t => Sys2Proof.Machine.execPack o t s
  | .unpk o t => Sys2Proof.Machine.execUnpk o t s
  | .qcvt o t src => Sys2Proof.Machine.execQcvt o t src s
  | .qdeq o t src => Sys2Proof.Machine.execQdeq o t src s
  | .mxcvt o t => Sys2Proof.Machine.execMxcvt o t s
  | .pand o => Sys2Proof.Machine.execPand o s
  | .por o => Sys2Proof.Machine.execPor o s
  | .pxor o => Sys2Proof.Machine.execPxor o s
  | .pandn o => Sys2Proof.Machine.execPandn o s
  | .pset o zero => Sys2Proof.Machine.execPset o zero s
  | .pairedWord h1 h2 => Sys2Proof.Machine.execPairedWord h1 h2 s
  | .shfl o t => Sys2Proof.Machine.execShfl o t s
  | .shflx o t => Sys2Proof.Machine.execShflx o t s
  | .shflu o t => Sys2Proof.Machine.execShflu o t s
  | .shfld o t => Sys2Proof.Machine.execShfld o t s
  | .shfls o t => Sys2Proof.Machine.execShfls o t s
  | .push o t => Sys2Proof.Machine.execPush o t s
  | .pushs o t => Sys2Proof.Machine.execPushs o t s
  | .bcast o t => Sys2Proof.Machine.execBcast o t s
  | .voteany o t => Sys2Proof.Machine.execVoteany o t s
  | .voteall o t => Sys2Proof.Machine.execVoteall o t s
  | .voteeq o t => Sys2Proof.Machine.execVoteeq o t s
  | .ballot o => Sys2Proof.Machine.execBallot o s
  | .pcount o => Sys2Proof.Machine.execPcount o s
  | .matchv o t => Sys2Proof.Machine.execMatchv o t s
  | .scani o t op => Sys2Proof.Machine.execScani o t op s
  | .scanx o t op => Sys2Proof.Machine.execScanx o t op s
  | .wred o t op => Sys2Proof.Machine.execWred o t op s
  | .wredv o t op => Sys2Proof.Machine.execWredv o t op s
  | .segscan o t op => Sys2Proof.Machine.execSegscan o t op s
  | .compact o t => Sys2Proof.Machine.execCompact o t s
  | .firstl o => Sys2Proof.Machine.execFirstl o s
  | .mbind o => Sys2Proof.Machine.execMbind o s
  | .mzero o => Sys2Proof.Machine.execMzero o s
  | .mldw o tb => Sys2Proof.Machine.execMldw o tb s
  | .mswap o => Sys2Proof.Machine.execMswap o s
  | .mma o w => Sys2Proof.Machine.execMma o w s
  | .mmas o w mode => Sys2Proof.Machine.execMmas o w mode s
  | .mmaq o w => Sys2Proof.Machine.execMmaq o w s
  | .mmax o ty w entry => Sys2Proof.Machine.execMmax o ty w entry s
  | .mrdy o entry => Sys2Proof.Machine.execMrdy o entry s
  | .mdrn o => Sys2Proof.Machine.execMdrn o s
  | .mdrnc o => Sys2Proof.Machine.execMdrnc o s
  | .msta o tb rz => Sys2Proof.Machine.execMsta o tb rz s
  | .mlda o tb => Sys2Proof.Machine.execMlda o tb s
  | .mpget o idx stop => Sys2Proof.Machine.execMpget o idx stop s
  | .mpset o => Sys2Proof.Machine.execMpset o s
  | .mscbSet o entry => Sys2Proof.Machine.execMscbSet o entry s
  | .mscbRead o entry => Sys2Proof.Machine.execMscbRead o entry s
  | .mscbWrite o entry => Sys2Proof.Machine.execMscbWrite o entry s
  | .mpair o paired => Sys2Proof.Machine.execMpair o paired s
  | .munbind o => Sys2Proof.Machine.execMunbind o s
  | .mscale o => Sys2Proof.Machine.execMscale o s
  | .mcvt o toInt => Sys2Proof.Machine.execMcvt o toInt s
  | .bmake o => Sys2Proof.Machine.execBmake o s
  | .bmakea o => Sys2Proof.Machine.execBmakea o s
  | .bwalk o tb scr keep => Sys2Proof.Machine.execBwalk o tb scr keep s
  | .bsplit o write => Sys2Proof.Machine.execBsplit o write s
  | .bpop o st nowait => Sys2Proof.Machine.execBpop o st nowait s
  | .brefl o => Sys2Proof.Machine.execBrefl o s
  | .bkalloc o => Sys2Proof.Machine.execBkalloc o s
  | .bkfree o => Sys2Proof.Machine.execBkfree o s
  | .bkget o mode => Sys2Proof.Machine.execBkget o mode s
  | .bkput o mode => Sys2Proof.Machine.execBkput o mode s
  | .bovf o => Sys2Proof.Machine.execBovf o s
  | .bstatRead o => Sys2Proof.Machine.execBstatRead o s
  | .bstatStop o => Sys2Proof.Machine.execBstatStop o s
  | .bstatResume o => Sys2Proof.Machine.execBstatResume o s
  | .br o cond hint off => Sys2Proof.Machine.execBr o cond hint off s
  | .bri o cond hint => Sys2Proof.Machine.execBri o cond hint s
  | .call o hint off => Sys2Proof.Machine.execCall o hint off s
  | .calli o hint => Sys2Proof.Machine.execCalli o hint s
  | .ret o hint => Sys2Proof.Machine.execRet o hint s
  | .rejoin o => Sys2Proof.Machine.execRejoin o s
  | .exit o => Sys2Proof.Machine.execExit o s
  | .nop o => Sys2Proof.Machine.execNop o s
  | .bar o idx => Sys2Proof.Machine.execBar o idx s
  | .barl o => Sys2Proof.Machine.execBarl o s
  | .bara o idx => Sys2Proof.Machine.execBara o idx s
  | .barget o idx wavePart => Sys2Proof.Machine.execBarget o idx wavePart s
  | .barset o idx wavePart => Sys2Proof.Machine.execBarset o idx wavePart s
  | .spawn o => Sys2Proof.Machine.execSpawn o s
  | .spawnl o => Sys2Proof.Machine.execSpawnl o s
  | .qput o => Sys2Proof.Machine.execQput o s
  | .qtake o st => Sys2Proof.Machine.execQtake o st s
  | .qsteal o st => Sys2Proof.Machine.execQsteal o st s
  | .tasknew o nreg => Sys2Proof.Machine.execTasknew o nreg s
  | .taskdec o => Sys2Proof.Machine.execTaskdec o s
  | .suspend o nreg => Sys2Proof.Machine.execSuspend o nreg s
  | .trap o code => Sys2Proof.Machine.execTrap o code s
  | .srget o num => Sys2Proof.Machine.execSrget o num s
  | .srset o num => Sys2Proof.Machine.execSrset o num s
  | .divget o => Sys2Proof.Machine.execDivget o s
  | .divset o => Sys2Proof.Machine.execDivset o s
  | .flgget o => Sys2Proof.Machine.execFlgget o s
  | .flgset o => Sys2Proof.Machine.execFlgset o s
  | .lsdet o => Sys2Proof.Machine.execLsdet o s
  | .lsatt o => Sys2Proof.Machine.execLsatt o s
  | .pcget o off => Sys2Proof.Machine.execPcget o off s
  | .clkget o => Sys2Proof.Machine.execClkget o s
  | .yield o => Sys2Proof.Machine.execYield o s
  | .brkpt o code => Sys2Proof.Machine.execBrkpt o code s
  | .pwrhint o code => Sys2Proof.Machine.execPwrhint o code s
  | .ratio o code => Sys2Proof.Machine.execRatio o code s
  | .seqget o => Sys2Proof.Machine.execSeqget o s
  | .seqset o => Sys2Proof.Machine.execSeqset o s
  | .clauseHeaderPass h => Sys2Proof.Machine.execClauseHeaderPass h s
  | .unassignedOpcode w => Sys2Proof.Machine.execUnassignedOpcode w s
  | .loadComplete => Sys2Proof.Machine.execLoadComplete s
  | .storeAck => Sys2Proof.Machine.execStoreAck s
  | .dieSliceStore => Sys2Proof.Machine.execDieSliceStore s
  | .homeStore => Sys2Proof.Machine.execHomeStore s
  | .homeAtomic => Sys2Proof.Machine.execHomeAtomic s
  | .binnedContribution => Sys2Proof.Machine.execBinnedContribution s
  | .binnedRead => Sys2Proof.Machine.execBinnedRead s
  | .leashRegister => Sys2Proof.Machine.execLeashRegister s
  | .heldRegistrationAdmit => Sys2Proof.Machine.execHeldRegistrationAdmit s
  | .leashTimeout => Sys2Proof.Machine.execLeashTimeout s
  | .leashCancel => Sys2Proof.Machine.execLeashCancel s
  | .waituReply => Sys2Proof.Machine.execWaituReply s
  | .wakeAck => Sys2Proof.Machine.execWakeAck s
  | .leashDetach => Sys2Proof.Machine.execLeashDetach s
  | .leashAttach => Sys2Proof.Machine.execLeashAttach s
  | .decrementAck => Sys2Proof.Machine.execDecrementAck s
  | .taskDecrement => Sys2Proof.Machine.execTaskDecrement s
  | .readyQueueInsert => Sys2Proof.Machine.execReadyQueueInsert s
  | .queueStep => Sys2Proof.Machine.execQueueStep s
  | .queueReply => Sys2Proof.Machine.execQueueReply s
  | .gatherScatterRun => Sys2Proof.Machine.execGatherScatterRun s
  | .gatherElement => Sys2Proof.Machine.execGatherElement s
  | .pageWalkComplete => Sys2Proof.Machine.execPageWalkComplete s
  | .faultEntryWrite => Sys2Proof.Machine.execFaultEntryWrite s
  | .xlFresolveRetry => Sys2Proof.Machine.execXlFresolveRetry s
  | .xlFresolveFail => Sys2Proof.Machine.execXlFresolveFail s
  | .xlCtxbaseWrite => Sys2Proof.Machine.execXlCtxbaseWrite s
  | .invPage => Sys2Proof.Machine.execInvPage s
  | .invContext => Sys2Proof.Machine.execInvContext s
  | .invAll => Sys2Proof.Machine.execInvAll s
  | .invNone => Sys2Proof.Machine.execInvNone s
  | .invalidationComplete => Sys2Proof.Machine.execInvalidationComplete s
  | .lsPurge => Sys2Proof.Machine.execLsPurge s
  | .lsSpillbaseWrite => Sys2Proof.Machine.execLsSpillbaseWrite s
  | .msElogClear => Sys2Proof.Machine.execMsElogClear s
  | .registerWrite => Sys2Proof.Machine.execRegisterWrite s
  | .windowAccess => Sys2Proof.Machine.execWindowAccess s
  | .cacheCopyDrop => Sys2Proof.Machine.execCacheCopyDrop s
  | .dramReadComplete => Sys2Proof.Machine.execDramReadComplete s
  | .partialWriteMerge => Sys2Proof.Machine.execPartialWriteMerge s
  | .bankRefresh => Sys2Proof.Machine.execBankRefresh s
  | .thermalReading => Sys2Proof.Machine.execThermalReading s
  | .copyAccept => Sys2Proof.Machine.execCopyAccept s
  | .engineAccess => Sys2Proof.Machine.execEngineAccess s
  | .fillDone => Sys2Proof.Machine.execFillDone s
  | .drainDone => Sys2Proof.Machine.execDrainDone s
  | .commandComplete => Sys2Proof.Machine.execCommandComplete s
  | .streamStart => Sys2Proof.Machine.execStreamStart s
  | .streamTileFill => Sys2Proof.Machine.execStreamTileFill s
  | .streamDrainSlot => Sys2Proof.Machine.execStreamDrainSlot s
  | .streamComplete => Sys2Proof.Machine.execStreamComplete s
  | .descriptorRead => Sys2Proof.Machine.execDescriptorRead s
  | .walkStart => Sys2Proof.Machine.execWalkStart s
  | .walkMigrate => Sys2Proof.Machine.execWalkMigrate s
  | .parkedWalkSlotMove => Sys2Proof.Machine.execParkedWalkSlotMove s
  | .ruleLdf => Sys2Proof.Machine.execRuleLdf s
  | .ruleCmpk => Sys2Proof.Machine.execRuleCmpk s
  | .ruleCmpi => Sys2Proof.Machine.execRuleCmpi s
  | .ruleFollow => Sys2Proof.Machine.execRuleFollow s
  | .ruleHashk => Sys2Proof.Machine.execRuleHashk s
  | .ruleRet => Sys2Proof.Machine.execRuleRet s
  | .ruleMiss => Sys2Proof.Machine.execRuleMiss s
  | .walkResultWrite => Sys2Proof.Machine.execWalkResultWrite s
  | .planeLoad => Sys2Proof.Machine.execPlaneLoad s
  | .matrixStep => Sys2Proof.Machine.execMatrixStep s
  | .matrixStreamedRead => Sys2Proof.Machine.execMatrixStreamedRead s
  | .matrixComplete => Sys2Proof.Machine.execMatrixComplete s
  | .beamWalkStart => Sys2Proof.Machine.execBeamWalkStart s
  | .beamStep => Sys2Proof.Machine.execBeamStep s
  | .fragmentAppend => Sys2Proof.Machine.execFragmentAppend s
  | .beamWalkComplete => Sys2Proof.Machine.execBeamWalkComplete s
  | .hostWrite => Sys2Proof.Machine.execHostWrite s
  | .hostRead => Sys2Proof.Machine.execHostRead s
  | .hostAtomicop => Sys2Proof.Machine.execHostAtomicop s
  | .bar0Access => Sys2Proof.Machine.execBar0Access s
  | .launchAccept => Sys2Proof.Machine.execLaunchAccept s
  | .launchEnd => Sys2Proof.Machine.execLaunchEnd s
  | .teamPlace => Sys2Proof.Machine.execTeamPlace s
  | .teamAdvert => Sys2Proof.Machine.execTeamAdvert s
  | .teamSend => Sys2Proof.Machine.execTeamSend s
  | .teamReceive => Sys2Proof.Machine.execTeamReceive s
  | .teamReturned => Sys2Proof.Machine.execTeamReturned s
  | .binTimeout => Sys2Proof.Machine.execBinTimeout s
  | .dispatchTake => Sys2Proof.Machine.execDispatchTake s
  | .readyRecordTake => Sys2Proof.Machine.execReadyRecordTake s
  | .gatheringTimeout => Sys2Proof.Machine.execGatheringTimeout s
  | .wavePlace => Sys2Proof.Machine.execWavePlace s
  | .launchBarrierRelease => Sys2Proof.Machine.execLaunchBarrierRelease s
  | .clusterAdmitRound => Sys2Proof.Machine.execClusterAdmitRound s
  | .trapRecordWrite => Sys2Proof.Machine.execTrapRecordWrite s
  | .trBaseWrite => Sys2Proof.Machine.execTrBaseWrite s
  | .trapResume => Sys2Proof.Machine.execTrapResume s
  | .trapSkip => Sys2Proof.Machine.execTrapSkip s
  | .trapAbort => Sys2Proof.Machine.execTrapAbort s
  | .controlCoreTrap => Sys2Proof.Machine.execControlCoreTrap s
  | .controlCoreRestart => Sys2Proof.Machine.execControlCoreRestart s
  | .preqCancel => Sys2Proof.Machine.execPreqCancel s
  | .preqSave => Sys2Proof.Machine.execPreqSave s
  | .preqSaveHold => Sys2Proof.Machine.execPreqSaveHold s
  | .preqRelease => Sys2Proof.Machine.execPreqRelease s
  | .preqAbort => Sys2Proof.Machine.execPreqAbort s
  | .saveEntry => Sys2Proof.Machine.execSaveEntry s
  | .teamSaved => Sys2Proof.Machine.execTeamSaved s
  | .teamRestore => Sys2Proof.Machine.execTeamRestore s
  | .tsHalt => Sys2Proof.Machine.execTsHalt s
  | .tsRelease => Sys2Proof.Machine.execTsRelease s
  | .tsStateWrite => Sys2Proof.Machine.execTsStateWrite s
  | .sequencerCycle => Sys2Proof.Machine.execSequencerCycle s
  | .stallSample => Sys2Proof.Machine.execStallSample s
  | .rpCtlWrite => Sys2Proof.Machine.execRpCtlWrite s
  | .commitRound => Sys2Proof.Machine.execCommitRound s
  | .quantumReexecute => Sys2Proof.Machine.execQuantumReexecute s
  | .pcSetWrite => Sys2Proof.Machine.execPcSetWrite s
  | .regulatorStep => Sys2Proof.Machine.execRegulatorStep s
  | .sliceRatioUpdate => Sys2Proof.Machine.execSliceRatioUpdate s
  | .grantWindow => Sys2Proof.Machine.execGrantWindow s
  | .clusterGate => Sys2Proof.Machine.execClusterGate s
  | .rampEnd => Sys2Proof.Machine.execRampEnd s
  | .loadFw => Sys2Proof.Machine.execLoadFw s
  | .attest => Sys2Proof.Machine.execAttest s
  | .idkey => Sys2Proof.Machine.execIdkey s
  | .resetCc => Sys2Proof.Machine.execResetCc s
  | .fpCtlWrite => Sys2Proof.Machine.execFpCtlWrite s
  | .peerRequest => Sys2Proof.Machine.execPeerRequest s
  | .portDown => Sys2Proof.Machine.execPortDown s
  | .reset => Sys2Proof.Machine.execReset s
  | .monitorReady => Sys2Proof.Machine.execMonitorReady s

end Sys2Proof.Machine
end

