-- ==== Sys2Proof/Machine/Duties.lean ====
section
/-! DEFINITION. The events that work in flight waits for, which the machine tries by itself when its agenda names
nothing. An event from outside the module, of the sensors or of the memory cells is no duty: only an agenda brings it. -/

namespace Sys2Proof.Machine

abbrev Duty := Instr × Subj

/-- What the accesses in flight wait for: the points on the way of stores, the home slices, and arriving data. -/
def txDuties (s : State) : List Duty :=
  s.txs.flatMap fun (p : Nat × Tx) =>
    let each := fun (i : Instr) => (List.range p.2.accs.length).map fun k => ((i, { a := p.1, b := k }) : Duty)
    let acks := (p.2.owed ++ [Scope.w]).map fun sc => ((Instr.storeAck, { a := p.1, scope := sc }) : Duty)
    if p.2.held then []
    else
      acks ++ match p.2.kind with
      | .load => each .windowAccess ++ each .loadComplete
      | .store => each .dieSliceStore ++ each .homeStore ++ each .windowAccess
      | .atomic _ | .exch | .cas => each .homeAtomic ++ each .loadComplete
      | .reduce _ => each .homeAtomic
      | .badd => each .binnedContribution
      | .bread => each .binnedRead ++ each .loadComplete

/-- The event that applies a value stored to a control register. -/
def regDuty (d off : Nat) (x : Word) : Duty :=
  if off == Off.msElog && x == 0 then (.msElogClear, { a := d })
  else if off == Off.xlCtxbase then (.xlCtxbaseWrite, { a := d, val := x })
  else if off == Off.xlInvcmd then
    match bits x 63 62 with
    | 0 => (.invPage, { a := d, b := bits x 11 0, val := BitVec.ofNat 64 (bits x 59 16 * 2 ^ 12) })
    | 1 => (.invContext, { a := d, b := bits x 11 0 })
    | 2 => (.invAll, { a := d })
    | _ => (.invNone, { a := d })
  else if off == Off.xlFresolve && bits x 63 62 == 1 then (.xlFresolveRetry, { a := d, b := bits x 31 0 })
  else if off == Off.xlFresolve && bits x 63 62 == 2 then (.xlFresolveFail, { a := d, b := bits x 31 0 })
  else if off == Off.lsSpillbase then (.lsSpillbaseWrite, { a := d, val := x })
  else if off == Off.lsPurge then (.lsPurge, { a := d, b := bits x 11 0 })
  else if off == Off.trBase then (.trBaseWrite, { a := d, val := x })
  else if off == Off.trAct && bits x 63 61 == 1 then (.trapResume, { a := d, b := bits x 31 0 })
  else if off == Off.trAct && bits x 63 61 == 2 then (.trapSkip, { a := d, b := bits x 31 0 })
  else if off == Off.trAct && bits x 63 61 == 3 then (.trapAbort, { a := d, b := bits x 31 0 })
  else if off == Off.trPreq && bits x 2 0 ≤ 4 then
    let q := preqOf x
    let u : Subj := { a := d, b := q.team, c := q.queue, d := q.slot }
    match bits x 2 0 with
    | 0 => (.preqCancel, u)
    | 1 => (.preqSave, u)
    | 2 => (.preqSaveHold, u)
    | 3 => (.preqRelease, u)
    | _ => (.preqAbort, u)
  else if off == tsCtl then (if bit x 61 then .tsHalt else .tsRelease, { a := d })
  else if off == tsState then (.tsStateWrite, { a := d, val := x })
  else if off == 0x6000 then (.rpCtlWrite, { a := d, val := x })
  else if 0x4000 ≤ off && off < 0x4060 then (.pcSetWrite, { a := d, b := (off - 0x4000) / 8, val := x })
  else (.registerWrite, { a := d, b := off, val := x })

/-- Stores to control registers that have come to their registers. -/
def regDuties (s : State) : List Duty :=
  (s.txs.flatMap fun (p : Nat × Tx) => p.2.accs.filterMap fun a =>
    match place a.pa with
    | .ctl d o => if p.2.kind == .store && a.stage < 3 then some (regDuty d o a.data) else none
    | _ => none)
  ++ s.msgs.filterMap fun (p : Nat × Msg) =>
    match p.2 with
    | .ctlWrite d o x _ => some (regDuty d o x)
    | _ => none

/-- What a message on its way comes to. -/
def msgDuties (s : State) : List Duty :=
  s.msgs.flatMap fun (p : Nat × Msg) =>
    let u : Subj := { a := p.1 }
    match p.2 with
    | .register _ _ _ => [((Instr.leashRegister, u) : Duty)]
    | .cancel _ _ _ _ => [(.leashCancel, u)]
    | .reply _ _ _ _ _ _ => [(.waituReply, u)]
    | .wakeAck _ _ _ => [(.wakeAck, u)]
    | .detach _ _ _ _ _ _ => [(.leashDetach, u)]
    | .attach _ _ _ _ _ => [(.leashAttach, u)]
    | .decrement _ _ _ _ (some _) => [(.taskDecrement, u)]
    | .decrement _ _ _ _ none => [(.decrementAck, u)]
    | .taskDec _ _ => [(.taskDecrement, u)]
    | .queue => [(.queueStep, u)]
    | .queueReply _ _ _ => [(.queueReply, u)]
    | .readyHeld d _ => [(.readyQueueInsert, { a := d })]
    | .ctlWrite _ _ _ _ => []

/-- The next accesses of a command. -/
def unitDuties (s : State) (no : Nat) (x : Cmd) : List Duty :=
  let open_ := fun (u : Nat) => !((x.units.getD u {}).over || (x.units.getD u {}).parked)
  match x.kind with
  | .copy | .stream => (((List.range (cmdJob s x).units).find? open_).map fun u => ((Instr.engineAccess, { a := no, b := u }) : Duty)).toList
  | .tnset | .tnget => [(.engineAccess, { a := no })]
  | .gath | .scat | .scatr =>
    let waits := fun (u : Nat) => open_ u && (x.units.getD u {}).got.isSome
    (Instr.gatherScatterRun, { a := no }) ::
      ((x.phase :: ((List.range x.count).find? waits).toList).map fun u => ((Instr.gatherElement, { a := no, b := u }) : Duty))
  | .trav => [(.descriptorRead, { a := no })]

/-- What the commands of engines wait for. -/
def cmdDuties (s : State) : List Duty :=
  s.cmds.flatMap fun (p : Nat × Cmd) =>
    unitDuties s p.1 p.2 ++ [(.fillDone, { a := p.1 }), (.drainDone, { a := p.1 }), (.commandComplete, { a := p.1 })]

/-- What the walks of the Retrievers wait for. -/
def walkDuties (s : State) : List Duty :=
  s.walks.flatMap fun (p : Nat × WalkRec) =>
    [Instr.parkedWalkSlotMove, .walkStart, .walkMigrate, .ruleLdf, .ruleCmpk, .ruleCmpi, .ruleFollow, .ruleHashk, .ruleRet,
      .ruleMiss, .walkResultWrite].map fun i => (i, { a := p.1 })

/-- What the units of a core wait for. -/
def coreDuties (s : State) : List Duty :=
  s.cores.flatMap fun (p : Nat × Core) =>
    let at_ := fun (i : Instr) => ((i, { a := p.1 }) : Duty)
    let streams := fun (e : Bool) =>
      [Instr.streamStart, .streamTileFill, .streamDrainSlot, .streamComplete].map fun i => ((i, { a := p.1, flag := e }) : Duty)
    (if p.2.stream0.isEmpty then [] else streams false) ++ (if p.2.stream1.isEmpty then [] else streams true)
    ++ (if p.2.mq.isEmpty then [] else [Instr.matrixComplete, .matrixStreamedRead, .matrixStep, .planeLoad].map at_)
    ++ (if p.2.beam.walks.isEmpty then []
        else [at_ .fragmentAppend, at_ .beamWalkStart, at_ .beamStep]
          ++ p.2.beam.walks.map fun w => ((Instr.beamWalkComplete, { a := p.1, b := w.1 }) : Duty))
    ++ ((List.range p.2.bins.length).map fun i => ((Instr.binTimeout, { a := p.1, b := i }) : Duty))
    ++ (p.2.gathering.map fun g => ((Instr.gatheringTimeout, { a := p.1, b := g.1 }) : Duty))
    ++ (if p.2.formed.isEmpty then [] else [at_ .wavePlace])
    ++ (if p.2.sampleFrom.isSome then (List.range 6).map fun sl => ((Instr.stallSample, { a := p.1, b := sl }) : Duty) else [])

/-- What the dispatchers of the dies' cores take: items of dispatch queues and ready records. -/
def dispatchDuties (s : State) : List Duty :=
  let takes := s.launches.any fun p => p.2.st == .running && p.2.dq != 0
  (List.range 4).flatMap fun d =>
    let ready := !(s.die d).ready.isEmpty
    if takes || ready then
      (List.range 48).flatMap fun n =>
        (if takes then [((Instr.dispatchTake, { a := coreNo d n }) : Duty)] else [])
          ++ (if ready then [(.readyRecordTake, { a := coreNo d n })] else [])
    else []

/-- What the waves wait for. -/
def waveDuties (s : State) : List Duty :=
  s.waves.flatMap fun (p : Nat × Wave) =>
    (if p.2.leash.isSome || p.2.adopted.isSome then [((Instr.leashTimeout, { a := p.1 }) : Duty)] else [])
      ++ (if (s.team p.2.team).save == .none then [] else [(.saveEntry, { a := p.1 })])
      ++ (if s.replay.struck.contains p.1 then [(.quantumReexecute, { a := p.1 })] else [])

/-- What teams and launches wait for. -/
def launchDuties (s : State) : List Duty :=
  (s.teams.filterMap fun (p : Nat × Team) => if p.2.saving then some ((Instr.teamSaved, { a := p.1 }) : Duty) else none)
  ++ s.launches.flatMap fun (p : Nat × Launch) =>
    if p.2.st == .ended then []
    else
      ((Instr.launchBarrierRelease, { a := p.1 }) : Duty) :: (p.2.rounds.map fun r => ((Instr.clusterAdmitRound, { a := r.1, b := p.1 }) : Duty))
        ++ (if p.2.rec_ == 0 then [] else [(.commitRound, { a := p.1 })]) ++ [(.launchEnd, { a := p.1 })]

/-- What a die's own units wait for. -/
def dieDuties (s : State) : List Duty :=
  (List.range 4).flatMap fun d =>
    let x := s.die d
    let at_ := fun (i : Instr) => ((i, { a := d }) : Duty)
    let each := fun (i : Instr) => (List.range 12).map fun c => ((i, { a := d, b := c }) : Duty)
    (if x.inval.isEmpty then [] else [at_ .invalidationComplete])
    ++ (if x.faultWait.isEmpty then [] else [at_ .faultEntryWrite])
    ++ (if x.traps.isEmpty then [] else [at_ .trapRecordWrite, (.controlCoreTrap, { a := d }), (.controlCoreTrap, { a := d, b := 1 })])
    ++ ((x.leashHeld.map Prod.fst).eraseDups.map fun sl => ((Instr.heldRegistrationAdmit, { a := d, b := sl }) : Duty))
    ++ (x.copyq.filterMap fun q => if q.2.isEmpty then none else some ((Instr.copyAccept, { a := d, b := q.1 }) : Duty))
    ++ (if s.dev == .running then
          [(.controlCoreRestart, { a := d }), (.controlCoreRestart, { a := d, b := 1 }), at_ .teamReceive, at_ .teamReturned,
            at_ .teamRestore, at_ .teamPlace, at_ .teamSend, at_ .teamAdvert]
        else [])
    ++ (if bit (s.reg d tsCtl) 63 then [at_ .sequencerCycle] else [])
    ++ each .rampEnd ++ each .regulatorStep ++ each .clusterGate

/-- Every event to try. -/
def duties (s : State) : List Duty :=
  ([Instr.loadFw, .attest, .idkey, .resetCc].map fun i => ((i, {}) : Duty))
  ++ (s.walking.map fun (p : Nat × Walking) => ((Instr.pageWalkComplete, { a := p.1 }) : Duty))
  ++ regDuties s ++ txDuties s ++ msgDuties s ++ cmdDuties s ++ walkDuties s ++ coreDuties s ++ waveDuties s ++ dieDuties s
  ++ (if s.dev == .running then
        ((List.range 64).map fun q => ((Instr.launchAccept, { a := q }) : Duty)) ++ launchDuties s ++ dispatchDuties s
      else [])
  ++ (List.range 192).map fun c => (.sliceRatioUpdate, { a := coreNo (c / 48) (c % 48) })

end Sys2Proof.Machine
end

