-- ==== Sys2Proof/Machine/Step.lean ====
section
/-! DEFINITION. The step of the machine, and a state in which it fetches a given instruction next. -/

namespace Sys2Proof.Machine

/-- One step: the first entry of the agenda moves, or what moves by itself (`stepWith`). -/
def step (s : State) : Host.Outcome State Fault Refusal := stepWith exec duties s

/-- A state whose next step issues the words of w: a wave of 16 lanes stands at them on core 0 of die 0, in a page that
its context may execute, inside a clause, or before it where the words are a clause header (log entry 1). -/
def State.withFetchWord (s : State) (_nbits w : Nat) : State :=
  let pc : Word := 0x1000
  let cl : Clause := if w / 2 ^ 62 % 4 = 3 then .header else .inside (pc + 128) none none
  let lane : Lane := { pc, cl }
  let wave : Wave := { width := 16, teamSize := 16, nv := 320, ns := 256, lanes := List.replicate 16 lane }
  let s := { s with mem := Memory.writeBytes (Memory.writeBytes s.mem 0x1000 (bytesOf (w % 2 ^ 128) 16)) 0x10000 (bytesOf 1 8) }
  let s := s.updDie 0 fun d =>
    { d with ctxbase := 0x10001, tlb := { ctx := 0, size := 12, va := 1, pa := 1, rd := true, w := true, x := true } :: d.tlb }
  { s with dev := .running, agenda := [.slice 0 0], waves := s.waves.set 0 wave,
           teams := s.teams.set 0 { waves := [(0, 0)] }, launches := s.launches.set 0 {} }

end Sys2Proof.Machine
end

