-- ==== Sys2Proof/Safety.lean ====
section
/-! DEFINITION. What counts as a safe run, and the terms that claims about one instruction are made in: what it takes
to issue, how a lane group goes on, and what an instruction leaves alone. -/

namespace Sys2Proof.Machine

/-- Memory keeps its canonical form: addresses rise strictly and no listed byte is what an unlisted one reads as. -/
def MemInv (s : State) : Prop := Memory.wf s.mem = true

/-- A step that stops neither with a fault nor with a refusal. -/
def Goes (o : Host.Outcome State Fault Refusal) : Prop := ∃ s, o = .next s

/-- Lane group c issues i: the group is the issuing one, its wave's quantum lets it issue and no event has struck it
(R406, R408), the checks of R173 that need the wave pass, no cross-lane result on its way is named (R243), and its flags
have room (R153). -/
structure Issues (s : State) (i : Instr) (c : Iss) : Prop where
  group : s.issuer i = some c
  quantum : (c.w.quantum.ended && c.w.quantum.grant &&& c.mask == 0) = false
  calm : s.replay.struck.contains c.key = false
  checks : waveCheck i (isCtl c.key) c.w = none
  free : interlocked i c.w = false
  room : flagAtMost i c.w c.seta c.setb = true

/-- No die has taken or ended a trap. -/
def NoTrap (s t : State) : Prop := ∀ d, (t.die d).traps = (s.die d).traps

/-- Every lane of the group stands at its next word and waits for nothing; every other lane stands where it stood. -/
structure GoneOn (t : State) (c : Iss) : Prop where
  mine : ∀ l, l < c.w.lanes.length → c.mask.getLsbD l = true →
    ((t.wave c.key).lane l).pc = (c.w.lane l).pc + BitVec.ofNat 64 (8 * c.k) ∧ ((t.wave c.key).lane l).wait = .none
      ∧ ((t.wave c.key).lane l).st = (c.w.lane l).st ∧ ((t.wave c.key).lane l).dd = (c.w.lane l).dd
  others : ∀ l, c.mask.getLsbD l = false →
    ((t.wave c.key).lane l).pc = (c.w.lane l).pc ∧ ((t.wave c.key).lane l).wait = (c.w.lane l).wait
      ∧ ((t.wave c.key).lane l).st = (c.w.lane l).st ∧ ((t.wave c.key).lane l).dd = (c.w.lane l).dd

/-- Every lane of the group stands where it stood, held with a wait. -/
structure HeldAt (t : State) (c : Iss) (x : Wait) : Prop where
  mine : ∀ l, l < c.w.lanes.length → c.mask.getLsbD l = true →
    ((t.wave c.key).lane l).pc = (c.w.lane l).pc ∧ ((t.wave c.key).lane l).wait = x
  others : ∀ l, c.mask.getLsbD l = false → (t.wave c.key).lane l = c.w.lane l

/-- Every lane of the group stands where it stood and waits, its word performed; every other lane stands where it
stood. -/
structure WaitsAt (t : State) (c : Iss) (x : Wait) : Prop where
  mine : ∀ l, l < c.w.lanes.length → c.mask.getLsbD l = true →
    ((t.wave c.key).lane l).pc = (c.w.lane l).pc ∧ ((t.wave c.key).lane l).wait = x
      ∧ ((t.wave c.key).lane l).st = (c.w.lane l).st ∧ ((t.wave c.key).lane l).dd = (c.w.lane l).dd
  others : ∀ l, c.mask.getLsbD l = false →
    ((t.wave c.key).lane l).pc = (c.w.lane l).pc ∧ ((t.wave c.key).lane l).wait = (c.w.lane l).wait
      ∧ ((t.wave c.key).lane l).st = (c.w.lane l).st ∧ ((t.wave c.key).lane l).dd = (c.w.lane l).dd

/-- Everything outside the waves and the cores is as it was. -/
structure SameDevice (s t : State) : Prop where
  mem : t.mem = s.mem
  bad : t.bad = s.bad
  dies : t.dies = s.dies
  teams : t.teams = s.teams
  launches : t.launches = s.launches
  txs : t.txs = s.txs
  cmds : t.cmds = s.cmds
  walks : t.walks = s.walks
  walking : t.walking = s.walking
  msgs : t.msgs = s.msgs
  queues : t.queues = s.queues
  port : t.port = s.port
  out : t.out = s.out
  hostL2 : t.hostL2 = s.hostL2
  claims : t.claims = s.claims
  lost : t.lost = s.lost

/-- Every wave but one is as it was. -/
def OtherWaves (s t : State) (k : Nat) : Prop := ∀ j, j ≠ k → t.wave? j = s.wave? j

/-- The registers of a wave that an instruction does not name as a destination keep their values: a vector register in
every lane that is not its destination lane, every other scalar register and predicate. -/
structure OtherRegs (w w' : Wave) (dst : List Opd) (lanes : Mask) : Prop where
  v : ∀ n : Fin 320, ∀ l, l < 64 → (.v n ∉ dst ∨ lanes.getLsbD l = false) → w'.vraw n.val l = w.vraw n.val l
  s : ∀ n : Fin 256, .s n ∉ dst → w'.sraw n.val = w.sraw n.val
  p : ∀ n : Fin 15, .p n ∉ dst → w'.p[n.val]? = w.p[n.val]?

/-- The flags, counters, status registers and control registers of a wave keep their values. -/
structure SameStatus (w w' : Wave) : Prop where
  flags : w'.flags = w.flags
  fst : w'.fst = w.fst
  fpctl : w'.fpctl = w.fpctl
  srseed : w'.srseed = w.srseed
  seq : w'.seq = w.seq
  ldc : w'.ldc = w.ldc
  stc : w'.stct = w.stct ∧ w'.stcd = w.stcd ∧ w'.stck = w.stck ∧ w'.stcs = w.stcs
  engc : w'.engc = w.engc
  leash : w'.leash = w.leash
  xlc : w'.xlc = w.xlc
  xl : w'.xl = w.xl

/-- Everything that a memory instruction leaves alone as it issues: memory, the teams and launches, the work of engines
and the outside, and the traps of every die. -/
structure SameStores (s t : State) : Prop where
  mem : t.mem = s.mem
  bad : t.bad = s.bad
  teams : t.teams = s.teams
  launches : t.launches = s.launches
  cmds : t.cmds = s.cmds
  walks : t.walks = s.walks
  walking : t.walking = s.walking
  msgs : t.msgs = s.msgs
  queues : t.queues = s.queues
  port : t.port = s.port
  out : t.out = s.out
  hostL2 : t.hostL2 = s.hostL2
  claims : t.claims = s.claims
  traps : NoTrap s t

/-- An instruction with no lane to serve has gone on: what it raised stays raised until the next cycle begins (R161,
R190), and nothing else happened. -/
structure Idled (s t : State) (c : Iss) (flags ldc : Bool) (stc : List Scope) : Prop where
  gone : GoneOn t c
  stores : SameStores s t
  txs : t.txs = s.txs
  others : OtherWaves s t c.key
  flags : (t.wave c.key).flags = if flags then (c.w.raise c.seta c.setb).flags else c.w.flags
  ldc : (t.wave c.key).ldc = c.w.ldc + if ldc then 1 else 0
  stc : ∀ z, (t.wave c.key).stc z = c.w.stc z + if stc.contains z then 1 else 0
  falls : c.w.fall = [] → let w := (t.wave c.key).beginCycle
    w.flags = c.w.flags ∧ w.ldc = c.w.ldc ∧ ∀ z, w.stc z = c.w.stc z

/-- A write of n bytes at a in device memory is not lost: it covers no part of a failing sector that its home slice does not
hold (R36). -/
def Writable (s : State) (a n : Nat) : Prop :=
  ∀ k ∈ sectors a n, (s.bad.find? k).isSome = true → l2Has s k = true ∨ (a ≤ 32 * k ∧ 32 * k + 32 ≤ a + n)

/-- No register of a wave changed. -/
def SameRegs (w w' : Wave) : Prop := OtherRegs w w' [] 0

/-- Each access of an instruction, a lane and an address, is canonical, aligned and translated with the rights it needs,
and `ok` lists them with their physical addresses (R49, R53, R189). -/
structure Translated (s : State) (c : Iss) (need : Need) (align : Nat) (xs : List (Nat × Word))
    (ok : List (Nat × Word × Nat)) : Prop where
  canon : ∀ x ∈ xs, bits x.2 63 56 = 0
  aligned : ∀ x ∈ xs, x.2.toNat % align = 0
  gate : gate s c.key c.w need xs = .go ok []
  some : ok ≠ []

/-- The lane group has trapped precisely (R377): the die holds one more trap, with the lanes, launch site and value,
not yet written to the ring; the wave is stopped with every lane where it stood; and nothing was performed. -/
structure Trapped (s t : State) (c : Iss) (k : Trap) (lanes : Mask) (value : Word) : Prop where
  trap : ∃ r, (t.die (dieOf c.key)).traps = (s.die (dieOf c.key)).traps ++ [r] ∧ r.trap = k ∧ r.lanes = lanes
    ∧ r.group = c.mask ∧ r.pc = c.pc ∧ r.value = value ∧ r.wave = c.key ∧ r.serial = c.w.serial ∧ r.written = none
    ∧ r.parts = 1 ∧ (t.wave c.key).traps = c.w.traps ++ [r.id]
  stopped : (t.wave c.key).stopped = true
  lanes : ∀ l, ((t.wave c.key).lane l).pc = (c.w.lane l).pc ∧ ((t.wave c.key).lane l).st = (c.w.lane l).st
  regs : SameRegs c.w (t.wave c.key)
  status : SameStatus c.w (t.wave c.key)
  mem : t.mem = s.mem
  txs : t.txs = s.txs
  cmds : t.cmds = s.cmds
  teams : t.teams = s.teams
  others : OtherWaves s t c.key

/-- The lanes whose destination an instruction may write: the selected lanes, and with Z = 1 every lane of the group
(R149, R168). -/
def touched (s : State) (c : Iss) (o : Ops) : Mask := if (o.pfx.map Pfx.zero).getD false then c.mask else selOf s c o

/-- The destination of lane l holds a value. A register that is not written (ZERO) holds none. -/
def DestIs (t : State) (c : Iss) (d : Opd) (l : Nat) (x : Word) : Prop :=
  match d with
  | .v n => (t.wave c.key).vraw n.val l = x
  | .s n => (t.wave c.key).sraw n.val = x
  | _ => True

/-- The bit of lane l in a predicate destination, or 1 or 0 in a scalar one. -/
def DestBit (t : State) (c : Iss) (d : Opd) (l : Nat) (b : Bool) : Prop :=
  match d with
  | .p n => l < c.w.width → (((t.wave c.key).p[n.val]?).getD 0).getLsbD l = b
  | .s n => (t.wave c.key).sraw n.val = if b then 1 else 0
  | _ => True

/-- What a cross-lane result on its way writes to a register, by its number of `Out`: the last of its writes there (R243,
R245). -/
def lastWrite (r : XRes) (k : Nat) : Option Word := (r.writes.reverse.find? fun p => p.1 == k).map Prod.snd

/-- The result that a cross-lane instruction has on its way writes a value, or where `x` is none nothing, to the destination
of lane l. A destination that is not written (ZERO) receives none. -/
def LandsAs (r : XRes) (d : Opd) (l : Nat) (x : Option Word) : Prop :=
  match d with
  | .v n => lastWrite r (Wave.vkey n.val l) = x
  | .s n => lastWrite r (Wave.skey n.val) = x
  | .p n => lastWrite r (Wave.pkey n.val l) = x
  | _ => True

/-- A cross-lane instruction has raised XLC and has its result on its way (R243). -/
structure Sent (t : State) (c : Iss) (r : XRes) : Prop where
  xlc : (t.wave c.key).xlc = c.w.xlc + 1
  xl : (t.wave c.key).xl = c.w.xl ++ [r]

/-- Whether an instruction reads ACCDRAIN (R271). -/
def readsDrain (o : Ops) : Bool :=
  [o.d, o.a, o.b, o.c].contains .accdrain || (o.pfx.bind Pfx.e) == some .accdrain

end Sys2Proof.Machine
end

