-- ==== Sys2Proof/Certificates/Slice0/Obligations.lean ====
section
/-! DEFINITION. The statements for the provers, each a `Prop` named after what it states. Each docstring names the
rules it formalises. A statement about a next state says what the instruction or event leaves, under conditions on the
state and the operands alone. -/

section
open Sys2Proof Sys2Proof.Machine

/-! ### Encoding (10_encoding.md) -/

/-- Every well-formed instruction that has an encoding decodes from its words, with every operand as it was
(R158 to R176). The word after an instruction of one word does not matter. -/
def Obligations.DecodeOfEncode : Prop :=
  ∀ (i : Instr) (w : Word) (next : Option Word), i.Wf = true → encode i = some (w, next) →
    ∀ x : Word, decode w (next.getD x) = .ok i

/-- Every word that decodes is the encoding of the instruction that it decodes to, which is well-formed: no bit of a
word is dropped, and no two words of an instruction's length decode alike (R158 to R176). -/
def Obligations.EncodeOfDecode : Prop :=
  ∀ (w next : Word) (i : Instr), decode w next = .ok i →
    i.Wf = true ∧ encode i = some (w, if bits w 63 62 = 2 then some next else none)
      ∧ i.words = if bits w 63 62 = 2 then 2 else 1

/-- A full word whose opcode is not assigned decodes to the step that raises ILLEGAL_INSTRUCTION, and so does a paired
word with an opcode of 0x18 or more in either half. That step completes for every lane group that issues it: it takes the
precise trap, with every lane of the group at the word and nothing performed (R172, R174, R377). -/
def Obligations.UnassignedWordsDecode : Prop :=
  (∀ w next : Word, bits w 63 62 = 0 → opAssigned (bits w 61 52) = false → decode w next = .ok (.unassignedOpcode w))
  ∧ (∀ w next : Word, bits w 63 62 = 1 → 0x18 ≤ bits w 61 55 ∨ 0x18 ≤ bits w 30 24 →
      decode w next = .ok (.unassignedOpcode w))
  ∧ (∀ w next : Word, bits w 63 62 = 2 → bits next 63 62 ≠ 0 → decode w next = .error .illegalInstruction)
  ∧ (∀ (s : State) (x : Word) (c : Iss), s.issuer (.unassignedOpcode x) = some c →
      ∃ t, exec (.unassignedOpcode x) s = .next t ∧ Trapped s t c .illegalInstruction c.mask 0 ∧ t.issued = true)

/-- Words written out from the encodings of the spec decode to their instructions: the header, pair and paired word of
R176's example, and one word each of the memory, wait, cross-lane, conversion, matrix, beam and control forms from the
examples of R194, R204, R235, R251, R264, R307 and R329 (R158 to R172). -/
def Obligations.DecodeWords : Prop :=
  let z := Opd.zero
  decode 0xC023FCC000000000 0 = .ok (.clauseHeaderPass { wait := 8, seta := none, setb := none, len := 3, sp := false })
  ∧ (let lit : Lit := { sel := .c, kind := .f32, val := 0x0FF00000 }
     let x : Pfx := { mask := some 1, zero := true, rnd := .rz, scope := none, e := none, lit := some lit }
     decode 0x864000D00FF00000 0x0A801005019402AD
       = .ok (.fma { pred := .sel 2 true, pfx := some x, d := .v 4, a := .v 5, b := .v 6, c := z } { ty := .f32, cnt := .x2 }))
  ∧ decode 0x40040484920D0E2D 0 = .ok (.pairedWord { op := .add, d := 8, a := 9, t := { ty := .i32, cnt := .x2 } }
      { op := .fmul, d := 13, a := 14, t := { ty := .f32, cnt := .x2 } })
  ∧ decode 0x00001005E4140226 0 = .ok (.ld { pred := .sel 2 false, pfx := none, d := .v 4, a := .v 5, b := .imm 16, c := z }
      { scope := .d, ty := .i32 })
  ∧ (let x : Pfx := { mask := none, zero := false, rnd := .rne, scope := none, e := some (.s 9), lit := none }
     decode 0xBC06090000000000 0x01E82A0280D40F1C = .ok (.waitu
       { pred := .always, pfx := some x, d := .s 10, a := .s 2, b := .s 3, c := z } .ges true (some 5)))
  ∧ decode 0x1850180200D40124 0 = .ok (.push { pred := .sel 1 false, pfx := none, d := .v 6, a := .v 2, b := .v 3, c := z }
      { ty := .b64, cnt := .x1 })
  ∧ decode 0x0C002802E042BF3F 0 = .ok (.fcvt { pred := .always, pfx := none, d := .v 10, a := .v 2, b := .imm 1, c := z }
      { ty := .e4m3, cnt := .x8 } { ty := .f32, cnt := .x2 })
  ∧ decode 0x1C654A0402540F00 0 = .ok (.mmaq { pred := .always, pfx := none, d := .acc 2, a := .s 4, b := z, c := z }
      { tb := 9, z := false })
  ∧ decode 0x2040514050003100 0 = .ok (.bpop { pred := .sel 1 false, pfx := none, d := .v 20, a := z, b := z, c := z }
      (some 3) false)
  ∧ decode 0x2205014000004100 0 = .ok (.br { pred := .sel 1 false, pfx := none, d := z, a := z, b := z, c := z }
      .always false 4)

/-! ### Fetch and step (10_encoding.md, 18_scheduling.md) -/

/-- A lane group inside a clause whose fetched word decodes runs the decoded instruction: a full or paired word, a full
word that a leading word leads, and a clause header where one is due. Lanes of the group that stand at a word which is no
header after a transfer or the end of their clause, or at a header inside their clause, take ILLEGAL_INSTRUCTION instead
(R161). -/
def Obligations.LaneGroupRunsDecoded : Prop :=
  ∀ (s s1 : State) (key : Nat) (w : Wave) (g : Mask) (x : Word) (i : Instr),
    s.wave? key = some w → w.stopped = false → (isCtl key = true ∨ s.halts (dieOf key) w.ctx = false) →
    s.lost.contains w.ctx = false →
    fetchAt s key w g (w.lane (lowest g)).pc (w.lane (lowest g)).pc = .word s1 x →
      let pc := (w.lane (lowest g)).pc
      (∀ stop a b, clauseOf w g = .inside stop a b → strayLanes w g false = 0 → bits x 63 62 < 2 → decode x 0 = .ok i →
        tryGroup exec s key g =
          match exec i (issuing s1 { wave := key, mask := g, pc, seta := a, setb := b }) with
          | .next t => if t.issued then .did (settled t) (some i) else .no (settled t)
          | o => .stop o)
      ∧ (∀ stop a b s2 y, clauseOf w g = .inside stop a b → strayLanes w g false = 0 → bits x 63 62 = 2 → pc + 8 ≠ stop →
          fetchAt s1 key w g pc (pc + 8) = .word s2 y → decode x y = .ok i →
          tryGroup exec s key g =
            match exec i (issuing s2 { wave := key, mask := g, pc, seta := a, setb := b }) with
            | .next t => if t.issued then .did (settled t) (some i) else .no (settled t)
            | o => .stop o)
      ∧ (clauseOf w g = .header → strayLanes w g true = 0 → bits x 63 62 = 3 → decode x 0 = .ok i →
          tryGroup exec s key g =
            match exec i (issuing s1 { wave := key, mask := g, pc }) with
            | .next t => if t.issued then .pass (settled t) else .no (settled t)
            | o => .stop o)
      ∧ (let stray := strayLanes w g (decide (bits x 63 62 = 3))
         stray ≠ 0 → tryGroup exec s key g = .did (settled (s1.takeTrap key .illegalInstruction 0 [(stray, g, pc, 0)])) none)

/-- One step whose agenda (log entry 1) names a control core runs the instruction that stands at the core's program
counter: the outcome of the step is that of `exec` of it, with the issuing lane group settled. At a clause header, which
takes no issue cycle, the core's cycle goes on (R162). -/
def Obligations.StepRunsDecoded : Prop :=
  ∀ (s s1 : State) (rest : List Act) (die k : Nat) (w : Wave) (c : Cur) (i : Instr),
    s.agenda = .control die k :: rest →
    let key := ctlNo die k
    let sa : State := ({ s with epoch := s.epoch + 1, agenda := rest } : State).updWave key unyield
    let sb : State := sa.updWave key Wave.beginCycle
    w.stopped = false → openGroups w = [1] → w.holds = [] → s.lost.contains w.ctx = false →
      (sb.wave? key = some w → (w.lane 0).cl ≠ .header → peek sb key w 1 = .instr s1 c i →
        (∀ t, exec i (issuing s1 c) = .next t → t.issued = true →
          step s = .next (if isHeader i then { settled t with agenda := .controlOn die k :: t.agenda } else settled t))
        ∧ (∀ f, exec i (issuing s1 c) = .fault f → step s = .fault f))
      ∧ (sa.wave? key = some w → (w.lane 0).cl = .header → peek sa key w 1 = .instr s1 c i →
        ∀ t, exec i (issuing s1 c) = .next t → t.issued = true →
          let u := (settled t).updWave key Wave.beginCycle
          step s = .next { u with agenda := .controlOn die k :: u.agenda })

/-- One step whose agenda (log entry 1) names a slice with one resident wave, all of whose lanes that can move form one
lane group, runs the instruction that stands at the group's program counter: the outcome is that of `exec` of it; the slice notes
its issue and the slot it issued from (R371). At a clause header, which takes no issue cycle, the slice's cycle goes on
(R162). -/
def Obligations.SliceStepRunsDecoded : Prop :=
  ∀ (s s1 : State) (rest : List Act) (core sl slot : Nat) (w : Wave) (g : Mask) (c : Cur) (i : Instr),
    s.agenda = .slice core sl :: rest → slot < 32 → sl < 8 → core < 2 ^ 12 →
    coreOn { s with epoch := s.epoch + 1, agenda := rest } core = true →
    let key := waveNo core sl slot
    let sa : State := onSlice { s with epoch := s.epoch + 1, agenda := rest } core sl unyield
    let sb : State := onSlice sa core sl Wave.beginCycle
    ((s.waves.map Prod.fst).filter fun n => n / 32 == 8 * core + sl) = [key] →
    w.stopped = false → s.halts (dieOf key) w.ctx = false → s.lost.contains w.ctx = false →
    openGroups w = [g] → w.holds = [] → g ≠ 0 →
      (sb.wave? key = some w → (w.lane (lowest g)).cl ≠ .header → peek sb key w g = .instr s1 c i →
        (∀ t, exec i (issuing s1 c) = .next t → t.issued = true →
          step s = .next (if isHeader i then { settled t with agenda := .sliceOn core sl :: t.agenda }
            else (noteIssue (settled t) key (w.lane (lowest g)).pc).updCore core fun k => { k with last := k.last.set sl slot }))
        ∧ (∀ f, exec i (issuing s1 c) = .fault f → step s = .fault f))
      ∧ (sa.wave? key = some w → (w.lane (lowest g)).cl = .header → peek sa key w g = .instr s1 c i →
        ∀ t, exec i (issuing s1 c) = .next t → t.issued = true →
          let u := onSlice (settled t) core sl Wave.beginCycle
          step s = .next { u with agenda := .sliceOn core sl :: u.agenda })

/-- The word that a fetch of device memory gives is the eight bytes at the translated address, lowest first; the read goes
through the stacked layer (R1, R31, R158). -/
def Obligations.FetchReadsMemory : Prop :=
  ∀ (s : State) (key : Nat) (w : Wave) (g : Mask) (pc va : Word) (pa d : Nat),
    gate s key w .fetch [(lowest g, va)] = .go [(lowest g, va, pa)] [] → place pa = .dev d →
    pa % 8 = 0 → inSpill s d pa = false → inSpill s d (pa + 7) = false → place (pa + 7) = .dev d → anyBad s pa 8 = false →
      fetchAt s key w g pc va = .word (s.layerRead pa 8) (BitVec.ofNat 64 (Memory.read s.mem pa 8))

/-! ### Memory (02_main_memory.md, 04_home_slices.md) -/

/-- Reset memory has the canonical form. -/
def Obligations.ResetMemoryCanonical : Prop := MemInv State.reset

/-- Every step keeps memory in its canonical form. -/
def Obligations.StepKeepsMemoryCanonical : Prop :=
  ∀ s t : State, MemInv s → step s = .next t → MemInv t

/-- Bytes written at an address are read there in little-endian order, and every byte outside them reads as before
(R1). -/
def Obligations.ReadAfterWrite : Prop :=
  ∀ (s : State) (a n x : Nat), MemInv s →
    Memory.read (s.poke a (bytesOf x n)).mem a n = x % 256 ^ n
    ∧ (∀ k, k < n → Memory.byte (s.poke a (bytesOf x n)).mem (a + k) = BitVec.ofNat 8 (x / 256 ^ k))
    ∧ (∀ b, b < a ∨ a + n ≤ b → Memory.byte (s.poke a (bytesOf x n)).mem b = Memory.byte s.mem b)

/-- Reset (R427, R435): DEV_STATE is that of step 1 of bring-up, no wave, team or launch exists, no queue is served,
every byte of memory reads as zero and every control register of every die reads 0 but PC_HOLD (R413) and PC_GRANT
(R416). That a register to which the spec gives no reset value reads 0, and the thermal register 0x000005F0000005F0, is
the model's choice (log entry 4), and so is that memory reads as zero before the monitor has cleared it (log entry 5); a
host reads none of it then (R435). -/
def Obligations.ResetState : Prop :=
  State.reset.dev = .resetting ∧ State.reset.waves = [] ∧ State.reset.teams = [] ∧ State.reset.launches = []
  ∧ State.reset.txs = [] ∧ State.reset.cmds = [] ∧ State.reset.bad = []
  ∧ (∀ a, Memory.byte State.reset.mem a = 0)
  ∧ (∀ d off, State.reset.reg d off = if off = 0x41E8 then 0x139 else if off = 0x41F0 then 0x444444444444 else 0)
  ∧ (∀ c, (State.reset.core c).thermal = 0x000005F0000005F0)
  ∧ (∀ d, (State.reset.die d).traps = [] ∧ (State.reset.die d).faults = [] ∧ (State.reset.die d).leash = [])

/-! ### The vector group (12_isa_vector.md) -/

/-- Every instruction of the vector group, ADD to PSET, once it issues, completes and keeps everything it does not name:
the lane group goes on at the next word, memory and the device are as they were, no other wave changes, and of its own
wave only the destination registers, in the selected lanes or under Z = 1 in the lanes of the group, the sticky flags
of FPFLAGS, and SRCNT under stochastic rounding, may change (R149, R161, R214, R216). -/
def Obligations.VectorGroupCompletes : Prop :=
  ∀ (s : State) (c : Iss) (i : Instr) (p : Parts),
    i.parts = some p → 0x080 ≤ p.op → p.op < 0x180 → Issues s i c →
    let dst := if p.op = 0x0C8 then [p.ops.d, p.ops.c] else [p.ops.d]
    ∃ t, exec i s = .next t ∧ GoneOn t c ∧ SameDevice s t ∧ OtherWaves s t c.key
      ∧ (readsDrain p.ops = false → t.cores = s.cores)
      ∧ OtherRegs c.w (t.wave c.key) dst (touched s c p.ops) ∧ SameStatus c.w (t.wave c.key)
      ∧ (∀ b, c.w.fpflags.getLsbD b = true → (t.wave c.key).fpflags.getLsbD b = true)
      ∧ (t.wave c.key).srcnt =
          if (p.ops.pfx.map Pfx.rnd).getD .rne = .sr ∧ p.movPred = false then BitVec.ofNat 64 ((c.w.srcnt.toNat + 1) % 2 ^ 48)
          else c.w.srcnt

/-- The integer instructions write in each selected lane, to each sub-element, the value that R218 gives, with
operands read as two's complement for .i types and as unsigned for .n types, and set no flag. DIV and REM truncate toward zero, and the cases of R219 are decided: by zero DIV gives all ones and REM the
dividend, and the least value by −1 gives the least value and 0. -/
def Obligations.IntegerResults : Prop :=
  (∀ (s : State) (c : Iss) (o : Ops) (t : VTy) (i : Instr) (f : Int → Int → Int → Int),
      let n := t.ty.width
      let lo : Int := if t.ty.isSigned then -(2 ^ (n - 1)) else 0
      let hi : Int := if t.ty.isSigned then 2 ^ (n - 1) - 1 else 2 ^ n - 1
      ((i = .add o t ∧ f = fun a b _ => a + b) ∨ (i = .sub o t ∧ f = fun a b _ => a - b)
        ∨ (i = .addsat o t ∧ f = fun a b _ => max lo (min (a + b) hi))
        ∨ (i = .subsat o t ∧ f = fun a b _ => max lo (min (a - b) hi))
        ∨ (i = .mul o t ∧ f = fun a b _ => a * b) ∨ (i = .mulhi o t ∧ f = fun a b _ => (a * b).fdiv (2 ^ n))
        ∨ (i = .mad o t ∧ f = fun a b x => a * b + x) ∨ (i = .neg o t ∧ f = fun a _ _ => -a)
        ∨ (i = .abs o t ∧ f = fun a _ _ => if a < 0 then -a else a)
        ∨ (i = .min o t ∧ f = fun a b _ => min a b) ∨ (i = .max o t ∧ f = fun a b _ => max a b)
        ∨ (i = .clamp o t ∧ f = fun a b x => min (max a b) x)
        ∨ (i = .absdiff o t ∧ f = fun a b _ => if a < b then b - a else a - b)) →
      i.Wf = true → Issues s i c →
      ∃ u, exec i s = .next u ∧ (u.wave c.key).fpflags = c.w.fpflags
        ∧ ∀ l ∈ vecLanes o (selOf s c o),
            DestIs u c o.d l (packElems n ((List.range t.cnt.n).map fun j =>
              (f (tyInt t.ty (elem n (readSrc s c.w o .a t l) j)) (tyInt t.ty (elem n (readSrc s c.w o .b t l) j))
                (tyInt t.ty (elem n (readSrc s c.w o .c t l) j)) % 2 ^ n).toNat)))
  ∧ (∀ (s : State) (c : Iss) (o : Ops) (t : VTy) (i : Instr) (f : Int → Int → Int),
      let n := t.ty.width
      ((i = .div o t ∧ f = fun a b => if b = 0 then -1 else Int.tdiv a b)
        ∨ (i = .rem o t ∧ f = fun a b => if b = 0 then a else a - b * Int.tdiv a b)) →
      i.Wf = true → Issues s i c →
      ∃ u, exec i s = .next u
        ∧ (∀ l ∈ vecLanes o (selOf s c o),
            DestIs u c o.d l (packElems n ((List.range t.cnt.n).map fun j =>
              (f (tyInt t.ty (elem n (readSrc s c.w o .a t l) j)) (tyInt t.ty (elem n (readSrc s c.w o .b t l) j))
                % 2 ^ n).toNat)))
        ∧ (t.ty.isSigned = true → (Int.tdiv (-(2 ^ (n - 1))) (-1) % 2 ^ n).toNat = 2 ^ (n - 1)
            ∧ (-(2 ^ (n - 1)) - (-1) * Int.tdiv (-(2 ^ (n - 1))) (-1) : Int) = 0))

/-- MADW multiplies the lowest sub-elements of a and b into an addend of twice the width (R220), and LEA adds a
shifted index, read as its type says, to a 64-bit base (R221). -/
def Obligations.WideningAndAddressResults : Prop :=
  ∀ (s : State) (c : Iss) (o : Ops) (t : VTy),
    let n := t.ty.width
    ((Instr.madw o t).Wf = true → Issues s (.madw o t) c → ∃ u, exec (.madw o t) s = .next u
      ∧ ∀ l ∈ vecLanes o (selOf s c o),
          DestIs u c o.d l (packElems (2 * n) ((List.range t.cnt.n).map fun j =>
            ((tyInt t.ty (elem n (readSrc s c.w o .a t l) j) * tyInt t.ty (elem n (readSrc s c.w o .b t l) j)
              + (elem (2 * n) (readSrc s c.w o .c { ty := twiceTy t.ty, cnt := t.cnt } l) j : Int)) % 2 ^ (2 * n)).toNat)))
    ∧ ((Instr.lea o t).Wf = true → Issues s (.lea o t) c → ∃ u, exec (.lea o t) s = .next u
      ∧ ∀ l ∈ vecLanes o (selOf s c o),
          DestIs u c o.d l (readSrc s c.w o .a b64 l
            + BitVec.ofInt 64 (tyInt t.ty (readSrc s c.w o .b t l).toNat * 2 ^ ((readSrc s c.w o .c b64 l).toNat % 64))))

/-- The logic and shift instructions write, to each sub-element of each selected lane, what R222 gives: bit by bit for
the logic, for shifts and for rotations, and counts of bits. -/
def Obligations.LogicAndShiftResults : Prop :=
  ∀ (s : State) (c : Iss) (o : Ops) (t : VTy) (i : Instr) (f : Nat → Nat → Nat → Nat → Bool),
    let n := t.ty.width
    ((i = .and o t ∧ f = fun a b _ k => a.testBit k && b.testBit k) ∨ (i = .or o t ∧ f = fun a b _ k => a.testBit k || b.testBit k)
      ∨ (i = .xor o t ∧ f = fun a b _ k => a.testBit k != b.testBit k) ∨ (i = .andn o t ∧ f = fun a b _ k => a.testBit k && !b.testBit k)
      ∨ (i = .not o t ∧ f = fun a _ _ k => !a.testBit k)
      ∨ (i = .shl o t ∧ f = fun a b _ k => b ≤ k && a.testBit (k - b))
      ∨ (i = .shr o t ∧ f = fun a b _ k => b + k < n && a.testBit (k + b))
      ∨ (i = .sar o t ∧ f = fun a b _ k => a.testBit (min (k + b) (n - 1)))
      ∨ (i = .rotl o t ∧ f = fun a b _ k => a.testBit ((k + n - b % n) % n))
      ∨ (i = .funshr o t ∧ f = fun a b x k => if k + x % n < n then b.testBit (k + x % n) else a.testBit (k + x % n - n))
      ∨ (i = .popc o t ∧ f = fun a _ _ k => ((List.range n).filter a.testBit).length.testBit k)
      ∨ (i = .clz o t ∧ f = fun a _ _ k => ((List.range n).reverse.takeWhile fun j => !a.testBit j).length.testBit k)
      ∨ (i = .ctz o t ∧ f = fun a _ _ k => ((List.range n).takeWhile fun j => !a.testBit j).length.testBit k)
      ∨ (i = .brev o t ∧ f = fun a _ _ k => a.testBit (n - 1 - k))) →
    i.Wf = true → Issues s i c →
    ∃ u, exec i s = .next u ∧ ∀ l ∈ vecLanes o (selOf s c o),
      ∃ x, DestIs u c o.d l x ∧ (∀ j k, j < t.cnt.n → k < n →
          x.getLsbD (j * n + k) = f (elem n (readSrc s c.w o .a t l) j) (elem n (readSrc s c.w o .b t l) j)
            (elem n (readSrc s c.w o .c t l) j) k)
        ∧ ∀ k, t.cnt.n * n ≤ k → x.getLsbD k = false

/-- BFX extracts a bit field with the extension of its type, and BFI inserts one (R223). PERMB, SEL and MOV act as R224
says; MOV to a predicate writes it whole. -/
def Obligations.BitFieldAndSelectionResults : Prop :=
  ∀ (s : State) (c : Iss) (o : Ops) (t : VTy),
    let n := t.ty.width
    ((Instr.bfx o t).Wf = true → Issues s (.bfx o t) c → ∃ u, exec (.bfx o t) s = .next u
      ∧ ∀ l ∈ vecLanes o (selOf s c o), ∃ x, DestIs u c o.d l x ∧ ∀ j k, j < t.cnt.n → k < n →
          let a := elem n (readSrc s c.w o .a t l) j
          let off := elem n (readSrc s c.w o .b t l) j % 256
          let wid := min (elem n (readSrc s c.w o .c t l) j % 256) n
          let src := fun p => if p < n then a.testBit p else t.ty.isSigned && a.testBit (n - 1)
          x.getLsbD (j * n + k) =
            (decide (0 < wid) && (if k < wid then src (off + k) else t.ty.isSigned && src (off + wid - 1))))
    ∧ ((Instr.bfi o t).Wf = true → Issues s (.bfi o t) c → ∃ u, exec (.bfi o t) s = .next u
      ∧ ∀ l ∈ vecLanes o (selOf s c o), ∃ x, DestIs u c o.d l x ∧ ∀ j k, j < t.cnt.n → k < n →
          let off := elem n (readSrc s c.w o .c t l) j % 256
          let wid := min (elem n (readE s c.w o t l) j % 256) n
          x.getLsbD (j * n + k) =
            if off ≤ k ∧ k < off + wid then (elem n (readSrc s c.w o .b t l) j).testBit (k - off)
            else (elem n (readSrc s c.w o .a t l) j).testBit k)
    ∧ ((Instr.permb o t).Wf = true → Issues s (.permb o t) c → ∃ u, exec (.permb o t) s = .next u
      ∧ ∀ l ∈ vecLanes o (selOf s c o), ∃ x, DestIs u c o.d l x ∧ ∀ j, j < 8 →
          let k := elem 8 (readSrc s c.w o .c t l) j
          elem 8 x j = if k.testBit 7 then 0
            else elem 8 (if k % 16 < 8 then readSrc s c.w o .a t l else readSrc s c.w o .b t l) (k % 8))
    ∧ ((Instr.sel o t).Wf = true → Issues s (.sel o t) c → ∃ u, exec (.sel o t) s = .next u
      ∧ ∀ l ∈ vecLanes o (selOf s c o), ∃ x, DestIs u c o.d l x ∧ ∀ j, j < t.cnt.n →
          elem t.ty.width x j = elem t.ty.width
            (if (readSrc s c.w o .c b64 l).getLsbD l then readSrc s c.w o .a t l else readSrc s c.w o .b t l) j)
    ∧ ((Instr.mov o t).Wf = true → Issues s (.mov o t) c → ∃ u, exec (.mov o t) s = .next u
      ∧ (∀ l ∈ vecLanes o (selOf s c o), (∀ n, o.d ≠ .p n) → ∃ x, DestIs u c o.d l x ∧ ∀ j, j < t.cnt.n →
          elem t.ty.width x j = elem t.ty.width (readSrc s c.w o .a t l) j)
      ∧ (∀ n, o.d = .p n → n.val < c.w.p.length →
          ∀ l, l < c.w.width → (((u.wave c.key).p[n.val]?).getD 0).getLsbD l
            = (decide (l < t.cnt.n * t.ty.width) && (readSrc s c.w o .a t 0).getLsbD l)))

/-- ICMP compares by the signedness of its type and combines the sub-elements of a lane (R225); PAND, POR, PXOR,
PANDN and PSET act on the bits of their selected lanes (R227). -/
def Obligations.CompareAndPredicateResults : Prop :=
  ∀ (s : State) (c : Iss) (o : Ops) (i : Instr) (f : Nat → Bool),
    ((∃ t cond any, i = .icmp o t cond any ∧ f = fun l =>
        let rel : Int → Int → Bool := match cond with
          | .eq => fun a b => decide (a = b) | .ne => fun a b => decide (a ≠ b) | .lt => fun a b => decide (a < b)
          | .le => fun a b => decide (a ≤ b) | .gt => fun a b => decide (b < a) | .ge => fun a b => decide (b ≤ a)
          | .un | .ord => fun _ _ => false
        let holds := (List.range t.cnt.n).map fun j => rel (tyInt t.ty (elem t.ty.width (readSrc s c.w o .a t l) j))
          (tyInt t.ty (elem t.ty.width (readSrc s c.w o .b t l) j))
        if any then holds.contains true else !holds.contains false)
      ∨ (i = .pand o ∧ f = fun l => (readSrc s c.w o .a b64 l).getLsbD l && (readSrc s c.w o .b b64 l).getLsbD l)
      ∨ (i = .por o ∧ f = fun l => (readSrc s c.w o .a b64 l).getLsbD l || (readSrc s c.w o .b b64 l).getLsbD l)
      ∨ (i = .pxor o ∧ f = fun l => (readSrc s c.w o .a b64 l).getLsbD l != (readSrc s c.w o .b b64 l).getLsbD l)
      ∨ (i = .pandn o ∧ f = fun l => (readSrc s c.w o .a b64 l).getLsbD l && !(readSrc s c.w o .b b64 l).getLsbD l)
      ∨ (∃ zero, i = .pset o zero ∧ f = fun l => decide (readSrc s c.w o .a b64 l = 0) == zero)) →
    i.Wf = true → Issues s i c → c.w.p.length = 15 →
    ∃ u, exec i s = .next u ∧ (u.wave c.key).fpflags = c.w.fpflags
      ∧ ∀ l ∈ vecLanes o (selOf s c o), DestBit u c o.d l (f l)

/-- FNEG and FABS invert or clear the sign bit of a value that is no NaN, and set no flag for it, where subnormals are
not flushed (R229). FADD, FSUB, FMUL, FMA, FMS, FNMA, FDIV, FSQRT, FRCP and FRSQ form the value exactly and round it once
by the mode (R228, R230). FMIN, FMAX, FEXP2, FLOG2, FSIN, FCOS, FTANH, FSIGM, FRND, FFRAC, FSCALE, FDOT2 and FDOT4 write
in every lane what their element gives (R229, R231 to R233), and the flags of each element are set. FCMP and FCLASS
write the combined condition of the lane (R225, R226). -/
def Obligations.FloatResults : Prop :=
  (∀ (s : State) (c : Iss) (o : Ops) (t : VTy) (i : Instr) (f : Nat → Nat),
      let n := t.ty.width
      ((i = .fneg o t ∧ f = fun a => a ^^^ 2 ^ (n - 1)) ∨ (i = .fabs o t ∧ f = fun a => a % 2 ^ (n - 1))) →
      i.Wf = true → Issues s i c → c.w.fz = false →
      (∀ l ∈ vecLanes o (selOf s c o), ∀ j, j < t.cnt.n →
        (srcVal t.ty false (elem n (readSrc s c.w o .a t l) j)).isNan = false) →
      ∃ u, exec i s = .next u ∧ (u.wave c.key).fpflags = c.w.fpflags
        ∧ ∀ l ∈ vecLanes o (selOf s c o),
            DestIs u c o.d l (packElems n ((List.range t.cnt.n).map fun j => f (elem n (readSrc s c.w o .a t l) j))))
  ∧ (∀ (s : State) (c : Iss) (o : Ops) (t : VTy) (i : Instr) (v : Bool → Val → Val → Val → Val × Fl),
      ((i = .fadd o t ∧ v = fun dn a b _ => Val.add dn a b) ∨ (i = .fsub o t ∧ v = fun dn a b _ => Val.add dn a b.negate)
        ∨ (i = .fmul o t ∧ v = fun _ a b _ => Val.mul a b) ∨ (i = .fma o t ∧ v = fun dn a b x => Val.fma dn a b x)
        ∨ (i = .fms o t ∧ v = fun dn a b x => Val.fma dn a b x.negate)
        ∨ (i = .fnma o t ∧ v = fun dn a b x => Val.fma dn a.negate b x) ∨ (i = .fdiv o t ∧ v = fun _ a b _ => Val.div a b)
        ∨ (i = .fsqrt o t ∧ v = fun _ a _ _ => Val.sqrt a) ∨ (i = .frcp o t ∧ v = fun _ a _ _ => Val.div (.ofNat 1) a)
        ∨ (i = .frsq o t ∧ v = fun _ a _ _ => Val.rsqrt a)) →
      i.Wf = true → Issues s i c →
      ∃ u, exec i s = .next u ∧ ∀ l ∈ vecLanes o (selOf s c o),
        let src := fun k j => srcVal t.ty c.w.fz (elem t.ty.width (readSrc s c.w o k t l) j)
        let res := fun j => El.fin t.ty (rcOf c o l j) (v (decide (rndOf o = .rdn)) (src .a j) (src .b j) (src .c j))
        DestIs u c o.d l (packElems t.ty.width ((List.range t.cnt.n).map fun j => (res j).1))
        ∧ ∀ j < t.cnt.n, ∀ k, (res j).2.getLsbD k = true → (u.wave c.key).fpflags.getLsbD k = true)
  ∧ (∀ (s : State) (c : Iss) (o : Ops) (t : VTy) (i : Instr) (f : Rc → Nat → Nat → Nat × Fl),
      ((i = .fmin o t ∧ f = El.fmin t.ty) ∨ (i = .fmax o t ∧ f = El.fmax t.ty)
        ∨ (i = .fexp2 o t ∧ f = fun r a _ => El.fexp2 t.ty r a) ∨ (i = .flog2 o t ∧ f = fun r a _ => El.flog2 t.ty r a)
        ∨ (i = .fsin o t ∧ f = fun r a _ => El.fsin t.ty r a) ∨ (i = .fcos o t ∧ f = fun r a _ => El.fcos t.ty r a)
        ∨ (i = .ftanh o t ∧ f = fun r a _ => El.ftanh t.ty r a) ∨ (i = .fsigm o t ∧ f = fun r a _ => El.fsigm t.ty r a)
        ∨ (i = .frnd o t ∧ f = fun r a _ => El.frnd t.ty r a) ∨ (i = .ffrac o t ∧ f = fun r a _ => El.ffrac t.ty r a)
        ∨ (i = .fscale o t ∧ f = El.fscale t.ty)) →
      i.Wf = true → Issues s i c →
      ∃ u, exec i s = .next u ∧ ∀ l ∈ vecLanes o (selOf s c o),
        let n := t.ty.width
        let tb : VTy := if i = .fscale o t then { t with ty := if n = 64 then .i64 else if n = 32 then .i32 else .i16 } else t
        let res := fun j => f (rcOf c o l j) (elem n (readSrc s c.w o .a t l) j) (elem n (readSrc s c.w o .b tb l) j)
        DestIs u c o.d l (packElems n ((List.range t.cnt.n).map fun j => (res j).1))
        ∧ ∀ j < t.cnt.n, ∀ k, (res j).2.getLsbD k = true → (u.wave c.key).fpflags.getLsbD k = true)
  ∧ (∀ (s : State) (c : Iss) (o : Ops) (t : VTy) (i : Instr) (k : Nat),
      ((i = .fdot2 o t ∧ k = 2) ∨ (i = .fdot4 o t ∧ k = 4)) → i.Wf = true → Issues s i c →
      ∃ u, exec i s = .next u ∧ ∀ l ∈ vecLanes o (selOf s c o),
        let n := t.ty.width
        DestIs u c o.d l (packElems 32 ((List.range 2).map fun j =>
          let as := (List.range k).map fun p => elem n (readSrc s c.w o .a t l) (k * j + p)
          let bs := (List.range k).map fun p => elem n (readSrc s c.w o .b t l) (k * j + p)
          let x := elem 32 (readSrc s c.w o .c { ty := if t.ty.isInt then .i32 else .f32, cnt := .x2 } l) j
          if t.ty.isInt then dotInt t.ty as bs x else (dotElem t.ty (rcOf c o l j) as bs x).1)))
  ∧ (∀ (s : State) (c : Iss) (o : Ops) (t : VTy) (i : Instr) (any : Bool) (f : Word → Nat → Nat → Bool),
      ((∃ cond, i = .fcmp o t cond any ∧ f = fun _ a b => (El.fcmp t.ty c.w.fz cond a b).1)
        ∨ (i = .fclass o t any ∧ f = fun m a _ => m.getLsbD (El.classBit t.ty a))) →
      i.Wf = true → Issues s i c → c.w.p.length = 15 →
      ∃ u, exec i s = .next u ∧ ∀ l ∈ vecLanes o (selOf s c o),
        let holds := (List.range t.cnt.n).map fun j => f (readSrc s c.w o .b b64 l)
          (elem t.ty.width (readSrc s c.w o .a t l) j) (elem t.ty.width (readSrc s c.w o .b t l) j)
        DestBit u c o.d l (if any then holds.contains true else !holds.contains false))

/-- FCVT, FTOI, ITOF, ICVT and UNPK convert element by element and place the elements as R234 says, and so do QCVT and
QDEQ with the scale and zero point of b (R237); PACK joins the halves of its sources (R236); MXCVT gives every quad of
selected lanes one scale and each of these lanes its codes (R238). -/
def Obligations.ConversionResults : Prop :=
  (∀ (s : State) (c : Iss) (o : Ops) (t src : VTy) (i : Instr) (ws wd : Nat) (part : Word → Nat)
      (f : Rc → Word → Nat → Nat),
      ((i = .fcvt o t src ∨ i = .ftoi o t src ∨ i = .itof o t src ∨ i = .icvt o t src)
          ∧ ws = src.ty.width ∧ wd = t.ty.width ∧ part = (fun b => b.toNat % 8)
          ∧ f = fun r _ x => (convert src.ty t.ty r x).1)
        ∨ (i = .qcvt o t src ∧ ws = src.ty.width ∧ wd = 8 ∧ part = (fun b => bits b 26 24)
          ∧ f = fun r b x => (toQ (if t.ty = .q8 then 8 else 4) r (bits b 15 0)
              (if t.ty = .q8 then bits b 23 16 else bits b 19 16) (srcVal src.ty r.fz x)).1)
        ∨ (i = .qdeq o t src ∧ ws = 8 ∧ wd = t.ty.width ∧ part = (fun b => bits b 26 24)
          ∧ f = fun r b x => (El.fin t.ty r (qVal (bits b 15 0) (if src.ty = .q8 then bits b 23 16 else bits b 19 16)
              (x % 2 ^ (if src.ty = .q8 then 8 else 4)))).1) →
      i.Wf = true → Issues s i c →
      ∃ u, exec i s = .next u ∧ ∀ l ∈ vecLanes o (selOf s c o),
        let sc := src.cnt.n
        let dc := t.cnt.n
        let a := readSrc s c.w o .a src l
        let b := readSrc s c.w o .b b64 l
        let p := part b % (max sc dc / min sc dc)
        let old := readOpd s c.w o.d t l
        DestIs u c o.d l (packElems wd ((List.range dc).map fun j =>
          if dc ≤ sc then f (rcOf c o l j) b (elem ws a (p * dc + j))
          else if p * sc ≤ j ∧ j < p * sc + sc then f (rcOf c o l j) b (elem ws a (j - p * sc))
          else elem wd old j)))
  ∧ (∀ (s : State) (c : Iss) (o : Ops) (t : VTy), (Instr.unpk o t).Wf = true → Issues s (.unpk o t) c →
      ∃ u, exec (.unpk o t) s = .next u ∧ ∀ l ∈ vecLanes o (selOf s c o),
        let n := t.ty.width
        let p := (readSrc s c.w o .b b64 l).toNat % 2
        DestIs u c o.d l (packElems n ((List.range t.cnt.n).map fun j =>
          let x := elem (n / 2) (readSrc s c.w o .a { ty := halfTy t.ty, cnt := twiceCnt t.cnt } l) (p * t.cnt.n + j)
          if t.ty.isSigned && x.testBit (n / 2 - 1) then x + 2 ^ n - 2 ^ (n / 2) else x)))
  ∧ (∀ (s : State) (c : Iss) (o : Ops) (t : VTy), (Instr.pack o t).Wf = true → Issues s (.pack o t) c →
      ∃ u, exec (.pack o t) s = .next u ∧ ∀ l ∈ vecLanes o (selOf s c o),
        let n := t.ty.width
        let h := t.cnt.n / 2
        DestIs u c o.d l (packElems n ((List.range t.cnt.n).map fun j =>
          (if j < h then elem (2 * n) (readSrc s c.w o .a t l) j else elem (2 * n) (readSrc s c.w o .b t l) (j - h)) % 2 ^ n)))
  ∧ (∀ (s : State) (c : Iss) (o : Ops) (t : VTy), (Instr.mxcvt o t).Wf = true → Issues s (.mxcvt o t) c →
      ∃ u, exec (.mxcvt o t) s = .next u ∧ ∀ l ∈ lanesOf (selOf s c o),
        let vals := fun m => (List.range 8).map fun j => srcVal .bf16 c.w.fz
          (if j < 4 then elem 16 (readSrc s c.w o .a { ty := .bf16, cnt := .x4 } m) j
            else elem 16 (readSrc s c.w o .b { ty := .bf16, cnt := .x4 } m) (j - 4))
        let scale := blockScale t.ty (((lanesOf (selOf s c o)).filter fun m => m / 4 == l / 4).flatMap vals)
        DestIs u c o.d l (packElems 8 ((vals l).zipIdx.map fun v => (toBlock t.ty (rcOf c o l v.2) scale v.1).1))
        ∧ DestIs u c o.c l (BitVec.ofNat 64 scale))

/-- A paired word completes: both halves read before either writes, each half does what the full instruction of its
name does on d and a, in every lane of the group, and all else but the sticky flags keeps its value (R171, R172). -/
def Obligations.PairedWordResults : Prop :=
  ∀ (s : State) (c : Iss) (h1 h2 : Half), (Instr.pairedWord h1 h2).Wf = true → Issues s (.pairedWord h1 h2) c →
    ∃ u, exec (.pairedWord h1 h2) s = .next u ∧ GoneOn u c ∧ SameDevice s u ∧ OtherWaves s u c.key
      ∧ SameStatus c.w (u.wave c.key)
      ∧ (∀ n l, l < 64 → ((n ≠ h1.d.toNat ∧ n ≠ h2.d.toNat) ∨ c.mask.getLsbD l = false) →
          (u.wave c.key).vraw n l = c.w.vraw n l)
      ∧ (∀ h, h = h1 ∨ h = h2 → ∀ l ∈ lanesOf c.mask,
          let n := h.t.ty.width
          let r : Rc := { fz := c.w.fz }
          (u.wave c.key).vraw h.d.toNat l = packElems n ((List.range h.t.cnt.n).map fun j =>
            let a := elem n (c.w.vread s.epoch h.d.toNat l) j
            let b := elem n (c.w.vread s.epoch h.a.toNat l) j
            match h.op with
            | .add => El.add h.t.ty a b | .sub => El.sub h.t.ty a b | .mul => El.mul h.t.ty a b
            | .min => El.min h.t.ty a b | .max => El.max h.t.ty a b | .addsat => El.addsat h.t.ty a b
            | .subsat => El.subsat h.t.ty a b | .absdiff => El.absdiff h.t.ty a b | .and => a &&& b | .or => a ||| b
            | .xor => a ^^^ b | .andn => El.andn h.t.ty a b | .shl => El.shl h.t.ty a b | .shr => El.shr h.t.ty a b
            | .sar => El.sar h.t.ty a b | .mov => b | .fadd => (El.fadd h.t.ty r a b).1 | .fsub => (El.fsub h.t.ty r a b).1
            | .fmul => (El.fmul h.t.ty r a b).1 | .fmin => (El.fmin h.t.ty r a b).1 | .fmax => (El.fmax h.t.ty r a b).1
            | .fneg => (El.fneg h.t.ty r b).1 | .fabs => (El.fabs h.t.ty r b).1 | .neg => El.neg h.t.ty b))
/-! ### The cross-lane group (13_isa_crosslane.md) -/

/-- Every cross-lane instruction, SHFL to FIRSTL, whose lane group has no pending member completes as it issues: it raises
XLC, changes no register, sets sticky flags at most, and leaves everything else; its result is on its way, and names its
destination alone, in the participants and under Z = 1 in the lanes of the group (R240, R241, R243). While its lane group has
a pending member (R242), while XLC is at its largest value (R190), and while it names a destination that an earlier one has
still to write (R243), which holds for the vector group too, it is held at issue: nothing is performed and every lane of the
group stays at the word and waits. A result that falls due as a cycle begins writes its destinations and lowers XLC, and
leaves every other register; one that does not comes one cycle nearer (R243). That a result takes up to 64 cycles, which
of them is free, is the model's choice (log entry 13). -/
def Obligations.CrossLaneCompletes : Prop :=
  (∀ (s : State) (c : Iss) (i : Instr) (p : Parts),
      i.parts = some p → 0x180 ≤ p.op → p.op < 0x1C0 → Issues s i c → c.w.pending c.mask = 0 → c.w.xlc < 15 →
      ∃ t r, exec i s = .next t ∧ GoneOn t c ∧ SameDevice s t ∧ OtherWaves s t c.key
        ∧ (readsDrain p.ops = false → t.cores = s.cores) ∧ SameRegs c.w (t.wave c.key) ∧ Sent t c r
        ∧ SameStatus c.w { t.wave c.key with xlc := c.w.xlc, xl := c.w.xl }
        ∧ (∀ (n : Fin 320) l, l < 64 → (p.ops.d ≠ .v n ∨ (touched s c p.ops).getLsbD l = false) → lastWrite r (Wave.vkey n.val l) = none)
        ∧ (∀ n : Fin 256, p.ops.d ≠ .s n → lastWrite r (Wave.skey n.val) = none)
        ∧ (∀ (n : Fin 15) l, l < 64 → (p.ops.d ≠ .p n ∨ (touched s c p.ops).getLsbD l = false) → lastWrite r (Wave.pkey n.val l) = none)
        ∧ (∀ b, c.w.fpflags.getLsbD b = true → (t.wave c.key).fpflags.getLsbD b = true))
  ∧ (∀ (s : State) (c : Iss) (i : Instr) (p : Parts),
      i.parts = some p → 0x180 ≤ p.op → p.op < 0x1C0 → Issues s i c → (c.w.pending c.mask ≠ 0 ∨ 15 ≤ c.w.xlc) →
      ∃ t, exec i s = .next t ∧ HeldAt t c (if c.w.pending c.mask ≠ 0 then .cross else .held false 7) ∧ SameDevice s t
        ∧ OtherWaves s t c.key ∧ t.cores = s.cores ∧ SameRegs c.w (t.wave c.key) ∧ SameStatus c.w (t.wave c.key)
        ∧ t.issued = s.issued)
  ∧ (∀ (s : State) (c : Iss) (i : Instr) (p : Parts),
      i.parts = some p → 0x080 ≤ p.op → p.op < 0x1C0 → s.issuer i = some c → c.w.quantum.ended = false →
      s.replay.struck.contains c.key = false → waveCheck i (isCtl c.key) c.w = none → interlocked i c.w = true →
      ∃ t y, exec i s = .next t ∧ HeldAt t c (.held false y) ∧ SameDevice s t ∧ OtherWaves s t c.key ∧ t.cores = s.cores
        ∧ SameRegs c.w (t.wave c.key) ∧ SameStatus c.w (t.wave c.key) ∧ t.issued = s.issued)
  ∧ (∀ (w : Wave) (r : XRes) (xs ys : List XRes), w.xl = xs ++ r :: ys → (∀ q ∈ xs ++ ys, q.left ≠ 0) → w.fall = [] →
      w.p.length = 15 → w.width ≤ 64 →
      let u := w.beginCycle
      let later := fun (q : XRes) => { q with left := q.left - 1 }
      if r.left = 0 then
        u.xlc = w.xlc - 1 ∧ u.xl = (xs ++ ys).map later ∧ SameStatus w { u with xlc := w.xlc, xl := w.xl }
        ∧ (∀ (n : Fin 320) l, l < 64 → u.vraw n.val l = (lastWrite r (Wave.vkey n.val l)).getD (w.vraw n.val l))
        ∧ (∀ n : Fin 256, u.sraw n.val = (lastWrite r (Wave.skey n.val)).getD (w.sraw n.val))
        ∧ (∀ (n : Fin 15) l, l < w.width → ((u.p[n.val]?).getD 0).getLsbD l =
            ((lastWrite r (Wave.pkey n.val l)).map fun x => x.getLsbD 0).getD (((w.p[n.val]?).getD 0).getLsbD l))
      else u = { w with xl := w.xl.map later })

/-- The shuffles SHFL, SHFLX, SHFLU, SHFLD, SHFLS and BCAST have on its way to each participant the elements of the lane
that R244 names, whether or not that lane takes part (R241); moved bits are not converted, and the unused bits of a byte
container are zero (R114). No flag is set. -/
def Obligations.ShuffleResults : Prop :=
  ∀ (s : State) (c : Iss) (o : Ops) (t : VTy) (i : Instr) (src : Nat → Nat → Nat × Nat),
    let W := c.w.width
    let k := t.cnt.n
    let b := fun l => readSrc s c.w o .b b64 l
    let bl := fun l => (b l).toNat % 64
    ((i = .shfl o t ∧ src = fun l j => (bl l % W, (j + (b l).toNat / 256 % 8) % k))
      ∨ (i = .shflx o t ∧ src = fun l j => (l ^^^ (bl l % W), j))
      ∨ (i = .shflu o t ∧ src = fun l j => (if (b l).toNat ≤ l then l - (b l).toNat else l, j))
      ∨ (i = .shfld o t ∧ src = fun l j => (if l + (b l).toNat < W then l + (b l).toNat else l, j))
      ∨ (i = .shfls o t ∧ src = fun l j =>
          let f := elem t.ty.width (readSrc s c.w o .b (uintTy t) l) j % (W * k)
          (f / k, f % k))
      ∨ (i = .bcast o t ∧ src = fun l j => (bl l % W, j))) →
    i.Wf = true → Issues s i c → c.w.pending c.mask = 0 → c.w.xlc < 15 →
    ∃ u r, exec i s = .next u ∧ Sent u c r ∧ (u.wave c.key).fpflags = c.w.fpflags
      ∧ (∀ l ∈ lanesOf (selOf s c o), (∀ n, o.d ≠ .s n) →
          LandsAs r o.d l (some (packElems t.ty.width ((List.range k).map fun j =>
            moved t.ty (elem t.ty.width (readSrc s c.w o .a t (src l j).1) (src l j).2)))))
      ∧ (∀ n, o.d = .s n → i = .bcast o t → LandsAs r o.d 0 (some (readSrc s c.w o .a t (bl 0 % W))))

/-- PUSH: each participant sends its whole source to the lane that its target names; of several for one participant the
highest source lane wins, one aimed at a lane that takes no part is dropped, and a participant that receives none keeps
its value. PUSHS: each sub-element of a participant goes to a flat destination element; the highest flat source wins, and
the elements of a participant that receive none keep their values where it receives any (R245). COMPACT moves the values of
the kept participants, in ascending lane order, to the lowest participants; the other participants keep their values, and no
flag is set (R250). -/
def Obligations.PushAndCompactResults : Prop :=
  (∀ (s : State) (c : Iss) (o : Ops) (t : VTy),
      (Instr.push o t).Wf = true → Issues s (.push o t) c → c.w.pending c.mask = 0 → c.w.xlc < 15 →
      let sel := selOf s c o
      let aim := fun l => (readSrc s c.w o .b b64 l).toNat % 64 % c.w.width
      ∃ u r, exec (.push o t) s = .next u ∧ Sent u c r
        ∧ ∀ q, q < 64 → sel.getLsbD q = true →
          (∀ l ∈ lanesOf sel, aim l = q → (∀ m ∈ lanesOf sel, aim m = q → m ≤ l) →
            LandsAs r o.d q (some (readSrc s c.w o .a t l)))
          ∧ ((∀ l ∈ lanesOf sel, aim l ≠ q) → LandsAs r o.d q none))
  ∧ (∀ (s : State) (c : Iss) (o : Ops) (t : VTy),
      (Instr.pushs o t).Wf = true → Issues s (.pushs o t) c → c.w.pending c.mask = 0 → c.w.xlc < 15 →
      let sel := selOf s c o
      let n := t.ty.width
      let k := t.cnt.n
      let aim := fun l i => elem n (readSrc s c.w o .b (uintTy t) l) i % (c.w.width * k)
      ∃ u r, exec (.pushs o t) s = .next u ∧ Sent u c r
        ∧ ∀ q ∈ lanesOf sel,
          ((∀ l ∈ lanesOf sel, ∀ i, i < k → aim l i / k ≠ q) → LandsAs r o.d q none)
          ∧ ((∃ l ∈ lanesOf sel, ∃ i, i < k ∧ aim l i / k = q) → ∃ x, LandsAs r o.d q (some x) ∧ ∀ j, j < k →
              (∀ l ∈ lanesOf sel, ∀ i, i < k → aim l i = q * k + j →
                (∀ m ∈ lanesOf sel, ∀ h, h < k → aim m h = q * k + j → m * k + h ≤ l * k + i) →
                elem n x j = moved t.ty (elem n (readSrc s c.w o .a t l) i))
              ∧ ((∀ l ∈ lanesOf sel, ∀ i, i < k → aim l i ≠ q * k + j) →
                elem n x j = elem n (readOpd s c.w o.d t q) j)))
  ∧ (∀ (s : State) (c : Iss) (o : Ops) (t : VTy),
      (Instr.compact o t).Wf = true → Issues s (.compact o t) c → c.w.pending c.mask = 0 → c.w.xlc < 15 →
      let part := lanesOf (selOf s c o)
      let kept := part.filter fun l => (readSrc s c.w o .b b64 0).getLsbD l
      ∃ u r, exec (.compact o t) s = .next u ∧ Sent u c r ∧ (u.wave c.key).fpflags = c.w.fpflags
        ∧ ∀ j l : Nat, part[j]? = some l →
            (∀ q, kept[j]? = some q → LandsAs r o.d l (some
              (packElems t.ty.width ((List.range t.cnt.n).map fun i => moved t.ty (elem t.ty.width (readSrc s c.w o .a t q) i)))))
            ∧ (kept[j]? = none → LandsAs r o.d l none))

/-- The votes, ballots and matches of R246. A predicate receives a vote's result in each participant, a scalar once. -/
def Obligations.VoteResults : Prop :=
  ∀ (s : State) (c : Iss) (o : Ops) (t : VTy) (i : Instr), i.Wf = true → Issues s i c → c.w.pending c.mask = 0 →
    c.w.xlc < 15 →
    let sel := selOf s c o
    let a := fun l => readSrc s c.w o .a t l
    let low := fun l => (a l).toNat % 2 ^ t.ty.width
    let votes : List (Instr × Prop) :=
      [(.voteany o t, ∃ l, sel.getLsbD l = true ∧ low l ≠ 0),
       (.voteall o t, ∀ l, sel.getLsbD l = true → low l ≠ 0),
       (.voteeq o t, ∀ l m, sel.getLsbD l = true → sel.getLsbD m = true → a l = a m)]
    let ballot := readSrc s c.w o .a b64 0 &&& sel
    let once := fun (r : XRes) (x : Word) =>
      (∀ n, o.d = .s n → LandsAs r o.d 0 (some x)) ∧ ∀ l ∈ lanesOf sel, LandsAs r o.d l (some x)
    (∀ v ∈ votes, i = v.1 → ∃ u r, exec i s = .next u ∧ Sent u c r ∧ (u.wave c.key).fpflags = c.w.fpflags
        ∧ ∀ b, (b = true ↔ v.2) → once r (if b then 1 else 0))
    ∧ (i = .ballot o → ∃ u r, exec i s = .next u ∧ Sent u c r ∧ once r ballot)
    ∧ (i = .pcount o → ∃ u r, exec i s = .next u ∧ Sent u c r
        ∧ once r (BitVec.ofNat 64 ((List.range 64).filter fun l => ballot.getLsbD l).length))
    ∧ (i = .firstl o → ∃ u r, exec i s = .next u ∧ Sent u c r
        ∧ ∀ k, (k < 64 ∧ ballot.getLsbD k = true ∧ ∀ j, j < k → ballot.getLsbD j = false) ∨ (k = 64 ∧ ballot = 0) →
            once r (BitVec.ofNat 64 k))
    ∧ (i = .matchv o t → ∃ u r, exec i s = .next u ∧ Sent u c r ∧ ∀ l ∈ lanesOf sel, ∃ x, LandsAs r o.d l (some x)
        ∧ ∀ m, m < 64 → (x.getLsbD m = true ↔ sel.getLsbD m = true ∧ low m = low l))

/-- Scans and reductions of integers: SCANI gives each participant the combination of its own element with those of the
participants below it, SCANX of those below it alone, and WRED gives every participant, or a scalar once, that of all; the empty
combination is the empty value of R247, and each operation is exact modulo 2^n (R247). -/
def Obligations.IntegerScanResults : Prop :=
  ∀ (s : State) (c : Iss) (o : Ops) (t : VTy) (op : ROp) (i : Instr) (within : Nat → Nat → Bool),
    ((i = .scani o t op ∧ within = fun l m => decide (m ≤ l)) ∨ (i = .scanx o t op ∧ within = fun l m => decide (m < l))
      ∨ (i = .wred o t op ∧ within = fun _ _ => true)) →
    i.Wf = true → Issues s i c → c.w.pending c.mask = 0 → c.w.xlc < 15 → t.ty.isFp = false →
    c.w.width = 16 ∨ c.w.width = 32 ∨ c.w.width = 64 → (∀ l, c.mask.getLsbD l = true → l < c.w.width) →
    let N := t.ty.width
    let comb : Int → Int → Int := match op with
      | .add => fun x y => x + y
      | .min => fun x y => min x y
      | .max => fun x y => max x y
      | .and => fun x y => ((x % 2 ^ N).toNat &&& (y % 2 ^ N).toNat : Nat)
      | .or => fun x y => ((x % 2 ^ N).toNat ||| (y % 2 ^ N).toNat : Nat)
      | .xor => fun x y => ((x % 2 ^ N).toNat ^^^ (y % 2 ^ N).toNat : Nat)
    let empty : Int := match op with
      | .add | .or | .xor => 0
      | .and => 2 ^ N - 1
      | .min => if t.ty.isSigned then 2 ^ (N - 1) - 1 else 2 ^ N - 1
      | .max => if t.ty.isSigned then -(2 ^ (N - 1)) else 0
    let value := fun l => packElems N ((List.range t.cnt.n).map fun j =>
      ((((lanesOf (selOf s c o)).filter (within l)).map fun m =>
        tyInt t.ty (elem N (readSrc s c.w o .a t m) j)).foldl comb empty % 2 ^ N).toNat)
    ∃ u r, exec i s = .next u ∧ Sent u c r ∧ (u.wave c.key).fpflags = c.w.fpflags
      ∧ (∀ n, o.d = .v n → ∀ l ∈ lanesOf (selOf s c o), LandsAs r o.d l (some (value l)))
      ∧ (∀ n, o.d = .s n → i = .wred o t op → LandsAs r o.d 0 (some (value 0)))
/-! ### Memory instructions as they issue (11_isa_memory.md) -/

/-- A load whose accesses are translated completes its issue: LD and LDBC access one address for each selected lane, an
LD or LDBC made once one for the wave, and LDSC one for each word. One transaction leaves with these accesses, LDC rises by
one and the clause's flags rise, and nothing else changes: memory, every register (but that Z = 1 zeroes the destination
of the lanes that are not selected), and every other counter (R189 to R195). With no selected lane it goes on, and LDC and the
flags stay raised until the next cycle (R161, R190). -/
def Obligations.LoadsIssue : Prop :=
  (∀ (s : State) (c : Iss) (o : Ops) (m : MMod) (i : Instr),
    (i = .ld o m ∨ i = .ldbc o m ∨ ∃ nw, i = .ldsc o m nw) → Issues s i c → selOf s c o = 0 → c.w.ldc < 63 →
    ∃ t, exec i s = .next t ∧ Idled s t c true true [] ∧ OtherRegs c.w (t.wave c.key) [o.d] (zeroed o c.mask 0))
  ∧ ∀ (s : State) (c : Iss) (o : Ops) (m : MMod) (i : Instr) (xs : List (Nat × Word)) (ok : List (Nat × Word × Nat)),
    let sel := selOf s c o
    let ea := fun l => readSrc s c.w o .a b64 l + readSrc s c.w o .b b64 l
    ((i = .ld o m ∧ xs = (if onceFor i then (lanesOf sel).take 1 else lanesOf sel).map fun l => (l, ea l))
      ∨ (i = .ldbc o m ∧ xs = (if onceFor i then (lanesOf sel).take 1 else lanesOf sel).map fun l =>
          (l, ea l + BitVec.ofNat 64 (l * m.ty.bytes)))
      ∨ (∃ nw : BitVec 3, i = .ldsc o m nw ∧ xs = ((lanesOf sel).take 1).flatMap fun l =>
          (List.range (nw.toNat + 1)).map fun n => (l, ea l + BitVec.ofNat 64 (8 * n)))) →
    i.Wf = true → Issues s i c → Translated s c .read m.ty.bytes xs ok →
    (∀ x ∈ ok, mapWidthBad false x.2.2 m.ty.bytes = false) → c.w.ldc < 63 →
    ∃ t x, exec i s = .next t ∧ GoneOn t c ∧ SameStores s t ∧ OtherWaves s t c.key
      ∧ t.txs.find? s.fresh = some x ∧ x.kind = .load ∧ x.wave = c.key ∧ x.serial = c.w.serial
      ∧ x.scope = scopeOf o m ∧ x.ty = m.ty ∧ x.dst = o.d ∧ x.pc = c.pc
      ∧ x.accs = ok.map (fun y => { lane := y.1, va := y.2.1, pa := y.2.2, n := m.ty.bytes })
      ∧ (∀ n, n ≠ s.fresh → t.txs.find? n = s.txs.find? n)
      ∧ OtherRegs c.w (t.wave c.key) [o.d] (zeroed o c.mask sel)
      ∧ (t.wave c.key).ldc = c.w.ldc + 1 ∧ (t.wave c.key).flags = (c.w.raise c.seta c.setb).flags
      ∧ (∀ z, (t.wave c.key).stc z = c.w.stc z) ∧ (t.wave c.key).engc = c.w.engc ∧ (t.wave c.key).seq = c.w.seq

/-- A store whose accesses are translated completes its issue: one transaction leaves with an access and its data for
each selected lane of ST (or once), and for each word of STSC; STC.x rises for each x from .t up to the scope. Memory
and every register keep their values (R189 to R195). With no selected lane it goes on, and STC stays raised until the next
cycle (R161, R190). -/
def Obligations.StoresIssue : Prop :=
  (∀ (s : State) (c : Iss) (o : Ops) (m : MMod) (i : Instr),
    (i = .st o m ∨ ∃ nw, i = .stsc o m nw) → Issues s i c → selOf s c o = 0 → (∀ z, c.w.stc z < 63) →
    ∃ t, exec i s = .next t ∧ Idled s t c false false (stcScopes (scopeOf o m)) ∧ SameRegs c.w (t.wave c.key))
  ∧ ∀ (s : State) (c : Iss) (o : Ops) (m : MMod) (i : Instr) (xs : List (Nat × Word)) (ok : List (Nat × Word × Nat))
    (data : Nat → Nat → Word),
    let sel := selOf s c o
    let ea := fun l => readSrc s c.w o .a b64 l + readSrc s c.w o .b b64 l
    ((i = .st o m ∧ xs = ((if onceFor i then (lanesOf sel).take 1 else lanesOf sel).map fun l => (l, ea l))
        ∧ data = fun l _ => readSrc s c.w o .c (mtyV m.ty) l)
      ∨ (∃ (nw : BitVec 3) (n : Fin 256), i = .stsc o m nw ∧ o.d = .s n ∧ (xs = ((lanesOf sel).take 1).flatMap fun l =>
          (List.range (nw.toNat + 1)).map fun j => (l, ea l + BitVec.ofNat 64 (8 * j)))
          ∧ data = fun _ j => c.w.sread s.epoch (n.val + j))) →
    i.Wf = true → Issues s i c → Translated s c .write m.ty.bytes xs ok →
    (∀ x ∈ ok, mapWidthBad true x.2.2 m.ty.bytes = false) → (∀ z, c.w.stc z < 63) →
    ∃ t x, exec i s = .next t ∧ GoneOn t c ∧ SameStores s t ∧ OtherWaves s t c.key
      ∧ t.txs.find? s.fresh = some x ∧ x.kind = .store ∧ x.wave = c.key ∧ x.scope = scopeOf o m ∧ x.ty = m.ty
      ∧ x.accs = ok.zipIdx.map (fun y =>
          { lane := y.1.1, va := y.1.2.1, pa := y.1.2.2, n := m.ty.bytes, data := data y.1.1 y.2 })
      ∧ (∀ n, n ≠ s.fresh → t.txs.find? n = s.txs.find? n)
      ∧ SameRegs c.w (t.wave c.key) ∧ (t.wave c.key).flags = c.w.flags ∧ (t.wave c.key).ldc = c.w.ldc
      ∧ (∀ z, (t.wave c.key).stc z = c.w.stc z + if (stcScopes (scopeOf o m)).contains z then 1 else 0)

/-- An atomic, reduction or binned request outside replay whose accesses are translated to memory completes its issue:
one transaction leaves with the operation, the address and the operands of each selected lane in ascending lane order.
Those that return a value raise LDC and the flags, those that write memory raise STC up to the scope (R190, R198 to
R200). With no selected lane one goes on, and what it raises stays raised until the next cycle (R161, R190). -/
def Obligations.AtomicsIssue : Prop :=
  (∀ (s : State) (c : Iss) (o : Ops) (m : MMod) (i : Instr) (returns stores : Bool),
    (i ∈ [Instr.aadd o m, .amin o m, .amax o m, .aand o m, .aor o m, .axor o m, .aexch o m, .acas o m] ∧ returns = true ∧ stores = true)
      ∨ (i ∈ [Instr.redadd o m, .redmin o m, .redmax o m, .redand o m, .redor o m, .redxor o m, .badd o m] ∧ returns = false
          ∧ stores = true)
      ∨ (i = .bread o m ∧ returns = true ∧ stores = false) →
    Issues s i c → selOf s c o = 0 → c.w.ldc < 63 → (∀ z, c.w.stc z < 63) →
    ∃ t, exec i s = .next t ∧ Idled s t c returns returns (if stores then stcScopes (scopeOf o m) else [])
      ∧ OtherRegs c.w (t.wave c.key) [o.d] (zeroed o c.mask 0))
  ∧ ∀ (s : State) (c : Iss) (o : Ops) (m : MMod) (i : Instr) (kind : TxKind) (align : Nat) (returns stores : Bool)
    (d2 : Nat → Word) (ok : List (Nat × Word × Nat)),
    let sel := selOf s c o
    let b := fun l => readSrc s c.w o .b (mtyV m.ty) l
    ((i = .aadd o m ∧ kind = .atomic .add ∨ i = .amin o m ∧ kind = .atomic .min ∨ i = .amax o m ∧ kind = .atomic .max
        ∨ i = .aand o m ∧ kind = .atomic .and ∨ i = .aor o m ∧ kind = .atomic .or ∨ i = .axor o m ∧ kind = .atomic .xor
        ∨ i = .aexch o m ∧ kind = .exch) ∧ align = m.ty.bytes ∧ returns = true ∧ stores = true ∧ d2 = fun _ => 0)
      ∨ (i = .acas o m ∧ kind = .cas ∧ align = m.ty.bytes ∧ returns = true ∧ stores = true
          ∧ d2 = fun l => readSrc s c.w o .c (mtyV m.ty) l)
      ∨ ((i = .redadd o m ∧ kind = .reduce .add ∨ i = .redmin o m ∧ kind = .reduce .min ∨ i = .redmax o m ∧ kind = .reduce .max
        ∨ i = .redand o m ∧ kind = .reduce .and ∨ i = .redor o m ∧ kind = .reduce .or ∨ i = .redxor o m ∧ kind = .reduce .xor)
        ∧ align = m.ty.bytes ∧ returns = false ∧ stores = true ∧ d2 = fun _ => 0)
      ∨ (i = .badd o m ∧ kind = .badd ∧ align = 32 ∧ returns = false ∧ stores = true ∧ d2 = fun _ => 0)
      ∨ (i = .bread o m ∧ kind = .bread ∧ align = 32 ∧ returns = true ∧ stores = false ∧ d2 = fun _ => 0) →
    i.Wf = true → Issues s i c → recMode s c.w = 0 →
    Translated s c (if stores then .both else .read) align
      ((if onceFor i then (lanesOf sel).take 1 else lanesOf sel).map fun l => (l, readSrc s c.w o .a b64 l)) ok →
    (∀ x ∈ ok, isMap x.2.2 = false) → c.w.ldc < 63 → (∀ z, c.w.stc z < 63) →
    ∃ t x, exec i s = .next t ∧ GoneOn t c ∧ SameStores s t ∧ OtherWaves s t c.key
      ∧ t.txs.find? s.fresh = some x ∧ x.kind = kind ∧ x.wave = c.key ∧ x.scope = scopeOf o m ∧ x.ty = m.ty
      ∧ (returns = true → x.dst = o.d) ∧ (kind = .cas → x.dst2 = o.b)
      ∧ x.accs.map (fun y => (y.lane, y.va, y.pa)) = ok
      ∧ (kind ≠ .bread → ∀ y ∈ x.accs, y.data = b y.lane) ∧ (∀ y ∈ x.accs, y.data2 = d2 y.lane ∧ y.old = none)
      ∧ OtherRegs c.w (t.wave c.key) [o.d] (if returns then zeroed o c.mask sel else 0)
      ∧ (t.wave c.key).ldc = c.w.ldc + (if returns then 1 else 0)
      ∧ (t.wave c.key).flags = (if returns then (c.w.raise c.seta c.setb).flags else c.w.flags)
      ∧ (∀ z, (t.wave c.key).stc z =
          c.w.stc z + if stores && (stcScopes (scopeOf o m)).contains z then 1 else 0)

/-- The address checks of memory instructions are made for every selected lane before anything is performed: an address
with one of bits 63:56 set raises VA_RANGE, else one that is no multiple of the access raises MISALIGNED, precisely in
the selected lanes, with the address of the lowest failing one (R189, R198, R200, R377, R380; that the record names every
selected lane is the model's reading, log entry 19). An atomic whose address lies in the on-chip map raises ATOMIC_TARGET precisely (R67, R198). -/
def Obligations.AddressChecksTrap : Prop :=
  (∀ (s : State) (c : Iss) (o : Ops) (m : MMod) (i : Instr) (align : Nat) (ea : Nat → Word),
      let sel := selOf s c o
      let sum := fun l => readSrc s c.w o .a b64 l + readSrc s c.w o .b b64 l
      ((i = .ld o m ∨ i = .st o m) ∧ align = m.ty.bytes ∧ ea = sum)
        ∨ ((i = .aadd o m ∨ i = .amin o m ∨ i = .amax o m ∨ i = .aand o m ∨ i = .aor o m ∨ i = .axor o m ∨ i = .aexch o m
            ∨ i = .redadd o m ∨ i = .redmin o m ∨ i = .redmax o m ∨ i = .redand o m ∨ i = .redor o m ∨ i = .redxor o m)
            ∧ align = m.ty.bytes ∧ (ea = fun l => readSrc s c.w o .a b64 l) ∧ recMode s c.w = 0)
        ∨ ((i = .badd o m ∨ i = .bread o m) ∧ align = 32 ∧ (ea = fun l => readSrc s c.w o .a b64 l)) →
      Issues s i c → onceFor i = false →
      let high := (lanesOf sel).filter fun l => bits (ea l) 63 56 != 0
      let odd := (lanesOf sel).filter fun l => (ea l).toNat % align != 0
      (∀ l, high.head? = some l → ∃ t, exec i s = .next t ∧ Trapped s t c .vaRange sel (ea l))
      ∧ (high = [] → ∀ l, odd.head? = some l → ∃ t, exec i s = .next t ∧ Trapped s t c .misaligned sel (ea l)))
  ∧ (∀ (s : State) (c : Iss) (o : Ops) (m : MMod) (i : Instr) (ok : List (Nat × Word × Nat)),
      (i = .aadd o m ∨ i = .amin o m ∨ i = .amax o m ∨ i = .aand o m ∨ i = .aor o m ∨ i = .axor o m ∨ i = .aexch o m
        ∨ i = .redadd o m ∨ i = .redmin o m ∨ i = .redmax o m ∨ i = .redand o m ∨ i = .redor o m ∨ i = .redxor o m) →
      Issues s i c → onceFor i = false → recMode s c.w = 0 → c.w.ldc < 63 → (∀ z, c.w.stc z < 63) →
      Translated s c .both m.ty.bytes ((lanesOf (selOf s c o)).map fun l => (l, readSrc s c.w o .a b64 l)) ok →
      let inMap := (ok.filter fun x => isMap x.2.2).map Prod.fst
      inMap ≠ [] → ∃ t, exec i s = .next t ∧ Trapped s t c .atomicTarget (selOf s c o) 0)

/-- LDS and LDT, aligned and in range, write to each selected lane the extended bytes at its offset in the scratchpad
of the team or in the READY tile, every lane reading before any writes, and change nothing else (R188, R197). STS and STT outside replay, aligned and in range, write the low bytes of each selected lane's datum at its offset,
the highest lane's where several name the same bytes, and no other byte of any core's pinned SRAM; memory and every
register keep their values (R188, R191, R197). -/
def Obligations.BufferAccessesComplete : Prop :=
  (∀ (s : State) (c : Iss) (o : Ops) (m : MMod) (i : Instr) (core base size : Nat) (off : Nat → Word),
      let sel := selOf s c o
      let t := s.team c.w.team
      ((i = .lds o m ∧ core = t.core ∧ base = t.scratch.1 * 128 ∧ size = t.scratch.2 * 128
          ∧ off = fun l => readSrc s c.w o .a b64 l + readSrc s c.w o .b b64 l)
        ∨ (∃ tb e, i = .ldt o m tb ∧ core = t.core ∧ tileAt s t.core tb.toNat = some e ∧ readyAt s t.core tb.toNat e = true ∧ base = e.base * 128
          ∧ size = e.lines * 128 ∧ off = fun l => readSrc s c.w o .a b64 l
              * BitVec.ofNat 64 (((geomAt s t.core tb.toNat).map TEnt.rowBytes).getD 0) + readSrc s c.w o .b b64 l)) →
      i.Wf = true → Issues s i c → recMode s c.w = 0 →
      (∀ l ∈ (if onceFor i then (lanesOf sel).take 1 else lanesOf sel),
        (off l).toNat % m.ty.bytes = 0 ∧ (off l).toNat + m.ty.bytes ≤ size) →
      ∃ u, exec i s = .next u ∧ GoneOn u c ∧ SameDevice s u ∧ OtherWaves s u c.key ∧ (readsDrain o = false → u.cores = s.cores)
        ∧ OtherRegs c.w (u.wave c.key) [o.d] (touched s c o) ∧ SameStatus c.w (u.wave c.key)
        ∧ ∀ l ∈ (if onceFor i then (lanesOf sel).take 1 else lanesOf sel),
            DestIs u c o.d l (extend m.ty (sramRead s core (base + (off l).toNat) m.ty.bytes)))
  ∧ (∀ (s : State) (c : Iss) (o : Ops) (m : MMod) (i : Instr) (core base size : Nat) (off data : Nat → Word),
      let sel := selOf s c o
      let t := s.team c.w.team
      ((i = .sts o m ∧ core = t.core ∧ base = t.scratch.1 * 128 ∧ size = t.scratch.2 * 128
          ∧ (off = fun l => readSrc s c.w o .a b64 l + readSrc s c.w o .b b64 l)
          ∧ data = fun l => readSrc s c.w o .c (mtyV m.ty) l)
        ∨ (∃ tb e, i = .stt o m tb ∧ core = t.core ∧ tileAt s t.core tb.toNat = some e ∧ readyAt s t.core tb.toNat e = true ∧ base = e.base * 128
          ∧ size = e.lines * 128 ∧ (off = fun l => readSrc s c.w o .a b64 l
              * BitVec.ofNat 64 (((geomAt s t.core tb.toNat).map TEnt.rowBytes).getD 0) + readSrc s c.w o .b b64 l)
          ∧ data = fun l => readOpd s c.w o.d (mtyV m.ty) l)) →
      i.Wf = true → Issues s i c → recMode s c.w = 0 → c.w.stct < 63 →
      let dry := readsDrain o = false
      let ls := if onceFor i then (lanesOf sel).take 1 else lanesOf sel
      (∀ l ∈ ls, (off l).toNat % m.ty.bytes = 0 ∧ (off l).toNat + m.ty.bytes ≤ size) →
      ∃ u, exec i s = .next u ∧ GoneOn u c ∧ SameDevice s u ∧ OtherWaves s u c.key ∧ SameRegs c.w (u.wave c.key)
        ∧ SameStatus c.w (u.wave c.key)
        ∧ (dry → ∀ l ∈ ls, (∀ j ∈ ls, off j = off l → j ≤ l) →
            sramRead u core (base + (off l).toNat) m.ty.bytes = (data l).toNat % 2 ^ (8 * m.ty.bytes))
        ∧ (dry → ∀ j b, (j ≠ core ∨ ∀ l ∈ ls, b < base + (off l).toNat ∨ base + (off l).toNat + m.ty.bytes ≤ b) →
            sramByte u j b = sramByte s j b))

/-- PREF completes whatever its addresses: no register, flag or counter changes, nor any byte of memory, and nothing is
sent (R196). WAITC goes on when its counter is at most the operand, and else is held, which counts as waiting; it performs
nothing (R202). -/
def Obligations.PrefetchAndCounterWait : Prop :=
  (∀ (s : State) (c : Iss) (o : Ops) (m : MMod), Issues s (.pref o m) c →
      ∃ t, exec (.pref o m) s = .next t ∧ GoneOn t c ∧ SameDevice s t ∧ OtherWaves s t c.key ∧ (readsDrain o = false → t.cores = s.cores)
        ∧ SameRegs c.w (t.wave c.key) ∧ SameStatus c.w (t.wave c.key))
  ∧ (∀ (s : State) (c : Iss) (o : Ops) (ctr : Counter), Issues s (.waitc o ctr) c →
      ∃ t, exec (.waitc o ctr) s = .next t ∧ SameDevice s t ∧ OtherWaves s t c.key ∧ (readsDrain o = false → t.cores = s.cores)
        ∧ SameRegs c.w (t.wave c.key) ∧ SameStatus c.w (t.wave c.key)
        ∧ (if c.w.counter ctr ≤ (readSrc s c.w o .a b64 0).toNat then GoneOn t c else HeldAt t c (.held true 2)))

/-- WAITU with a selected lane, no registration of its wave outstanding and a watchable address sends a registration of
its condition to the home slice, and the lane group is leashed (R203, R204): the message carries the comparison, the
physical address and the operand, of which a 32-bit comparison takes bits 31:0. A WAITU of a group with no selected lane goes on at once (R204). -/
def Obligations.WaituRegisters : Prop :=
  (∀ (s : State) (c : Iss) (o : Ops) (cmp : LCmp) (wide : Bool) (st : Option (Fin 15)) (pa : Nat),
      let i := Instr.waitu o cmp wide st
      let sel := selOf s c o
      let va := readSrc s c.w o .a b64 0
      Issues s i c → sel ≠ 0 → c.w.leash = none → c.w.adopted = none → recMode s c.w = 0 →
      Translated s c .read (if wide then 8 else 4) [(lowest sel, va)] [(lowest sel, va, pa)] →
      State.waitable pa = true → unmapped s pa = false → mapWidthBad false pa (if wide then 8 else 4) = false →
      ∃ t e r, exec i s = .next t ∧ WaitsAt t c .leash ∧ t.mem = s.mem
        ∧ OtherRegs c.w (t.wave c.key) [o.d] (zeroed o c.mask sel)
        ∧ t.msgs.find? s.fresh = some (.register c.key c.w.serial e) ∧ e.st = .waiting ∧ e.cmp = cmp ∧ e.wide = wide ∧ e.pa = pa
        ∧ e.operand.toNat = (readSrc s c.w o .b b64 0).toNat % (if wide then 2 ^ 64 else 2 ^ 32)
        ∧ (t.wave c.key).leash = some r ∧ r.token = e.token ∧ r.lanes = c.mask ∧ r.sel = sel ∧ r.dst = o.d ∧ r.status = st
        ∧ r.units = min (readE s c.w o b64 0).toNat (2 ^ 20) ∧ t.issued = true)
  ∧ (∀ (s : State) (c : Iss) (o : Ops) (cmp : LCmp) (wide : Bool) (st : Option (Fin 15)),
      Issues s (.waitu o cmp wide st) c → selOf s c o = 0 →
      ∃ t, exec (.waitu o cmp wide st) s = .next t ∧ GoneOn t c ∧ SameDevice s t
        ∧ OtherRegs c.w (t.wave c.key) [o.d] (zeroed o c.mask 0) ∧ SameStatus c.w (t.wave c.key))

/-- A command to an engine, issued with a lane selected and room in its queue and counters, completes its issue once for
the group (R193, R201, R205, R206, R209): the sequence number and ENGC advance by one, the clause's flags rise, and one
command with the words of its scalar registers is queued; memory and every register keep their values. With no selected lane
one goes on, and the flags stay raised until the next cycle (R161). -/
def Obligations.EngineCommandsIssue : Prop :=
  (∀ (s : State) (c : Iss) (o : Ops) (i : Instr),
    (∃ m eng tid, i ∈ [Instr.gath o m, .scat o m, .scatr o m, .copy o, .stream o eng, .tnset o tid, .tnget o tid, .trav o]) →
    Issues s i c → selOf s c o = 0 →
    ∃ t, exec i s = .next t ∧ Idled s t c true false [] ∧ SameRegs c.w (t.wave c.key) ∧ (t.wave c.key).engc = c.w.engc
      ∧ (t.wave c.key).seq = c.w.seq)
  ∧ ∀ (s : State) (c : Iss) (o : Ops) (i : Instr) (kind : CmdKind) (words : List Word),
    let run := fun n => (List.range n).map fun j => c.w.sread s.epoch (firstOf o.a + j)
    let core := coreOf c.key
    ((∃ m, (i = .gath o m ∧ kind = .gath ∨ i = .scat o m ∧ kind = .scat ∨ i = .scatr o m ∧ kind = .scatr) ∧ words = run 4
        ∧ (s.core core).credits < 16)
      ∨ (i = .copy o ∧ kind = .copy ∧ words = run 4 ∧ (copyQueue s (copyEngine c.key)).length < 64)
      ∨ (∃ eng, i = .stream o eng ∧ kind = .stream ∧ words = [readSrc s c.w o .a b64 0] ∧ (streamQueue s core eng).length < 5)
      ∨ (∃ tid, i = .tnset o tid ∧ kind = .tnset ∧ words = run 8)
      ∨ (∃ tid, i = .tnget o tid ∧ kind = .tnget ∧ words = [])
      ∨ (i = .trav o ∧ kind = .trav ∧ words = [readSrc s c.w o .c b64 0])) →
    Issues s i c → selOf s c o ≠ 0 → c.w.engc < 255 →
    ∃ t x, exec i s = .next t ∧ GoneOn t c ∧ t.mem = s.mem ∧ NoTrap s t ∧ OtherWaves s t c.key ∧ t.txs = s.txs
      ∧ t.cmds.find? s.fresh = some x ∧ x.kind = kind ∧ x.words = words ∧ x.wave = c.key ∧ x.serial = c.w.serial
      ∧ x.seq = c.w.seq + 1 ∧ x.pc = c.pc ∧ (∀ n, n ≠ s.fresh → t.cmds.find? n = s.cmds.find? n)
      ∧ (t.wave c.key).seq = c.w.seq + 1 ∧ (t.wave c.key).engc = c.w.engc + 1
      ∧ (t.wave c.key).flags = (c.w.raise c.seta c.setb).flags ∧ (t.wave c.key).ldc = c.w.ldc
      ∧ SameRegs c.w (t.wave c.key)
      ∧ (∀ m, (i = .gath o m ∨ i = .scat o m ∨ i = .scatr o m) → (t.core core).credits = (s.core core).credits + 1)
      ∧ (i = .copy o → copyQueue t (copyEngine c.key) = copyQueue s (copyEngine c.key) ++ [s.fresh])
      ∧ (∀ eng, i = .stream o eng → streamQueue t core eng = streamQueue s core eng ++ [s.fresh])
      ∧ (i = .trav o → ∀ j l, (lanesOf (selOf s c o))[j]? = some l → ∃ w, t.walks.find? (s.fresh + 1 + j) = some w
          ∧ w.cmd = s.fresh ∧ w.lane = l ∧ w.p = readSrc s c.w o .a b64 l ∧ w.k = readSrc s c.w o .b b64 l)

/-- The tile-table commands of a group with a lane selected (R207): TTRDY takes an EMPTY tile to READY and adds one to
its generation, TTREL takes a READY one to EMPTY, both are held in any other state, TTSUB records the submit of a drain
stream's slot once, TTGET writes the entry and TTSTOP stops the engine's stream. Commands of one core cycle change the table
releases first, then the others, each kind by ascending slice and wave slot: one that comes late is held for the next
cycle (R208). A release of the slot that a drain stream has marked READY counts as its submit, and the tile is skipped (R208).
A tile instruction that names an unbound tile traps with TILE_UNBOUND precisely, and LDT or STT of a tile that its issue check
does not find READY is held (R106, R197, R207). -/
def Obligations.TileCommands : Prop :=
  (∀ (s : State) (c : Iss) (o : Ops) (tb : BitVec 6) (e : TileEnt), selOf s c o ≠ 0 →
      let core := (s.team c.w.team).core
      let entry := fun (t : State) => ((t.core core).tiles.find? tb.toNat)
      tileAt s core tb.toNat = some e →
      (Issues s (.ttrdy o tb) c → ∃ t, exec (.ttrdy o tb) s = .next t
          ∧ (if e.st = .empty ∧ s.inTurn core (s.core core).tableAt (placeOf 1 c.key) = true then GoneOn t c ∧ entry t = some { e with st := .ready, gen := e.gen + 1 }.word
             else HeldAt t c (.held true (if e.st = .empty then 19 else 9)) ∧ t.cores = s.cores))
      ∧ (Issues s (.ttrel o tb) c → ∃ t, exec (.ttrel o tb) s = .next t
          ∧ (if e.st = .ready ∧ s.inTurn core (s.core core).tableAt (placeOf 0 c.key) = true then
              GoneOn t c ∧ entry t = some { e with st := .empty }.word
              ∧ ∀ no x, drainStream s core tb.toNat = some no → s.cmds.find? no = some x → marked x tb.toNat = true →
                  ∃ y, t.cmds.find? no = some y ∧ y.submits = (64 + tb.toNat) :: x.submits.filter (· != tb.toNat)
             else HeldAt t c (.held true (if e.st = .ready then 19 else 9)) ∧ t.cores = s.cores))
      ∧ (Issues s (.ttsub o tb) c → ∃ t, exec (.ttsub o tb) s = .next t ∧ t.mem = s.mem
          ∧ SameRegs c.w (t.wave c.key) ∧ (readsDrain o = false → ∀ k, (t.core k).tiles = (s.core k).tiles)
          ∧ (if s.inTurn core (s.core core).tableAt (placeOf 1 c.key) = true then
              GoneOn t c ∧ (drainStream s core tb.toNat = none → t.cmds = s.cmds)
              ∧ ∀ no x, drainStream s core tb.toNat = some no → s.cmds.find? no = some x →
                  ∃ y, t.cmds.find? no = some y ∧ y.submits =
                    if tb.toNat ∈ x.submits ∨ 64 + tb.toNat ∈ x.submits then x.submits else x.submits ++ [tb.toNat]
             else HeldAt t c (.held true 19) ∧ t.cmds = s.cmds))
      ∧ (∀ eng, Issues s (.ttstop o eng) c → ∃ t, exec (.ttstop o eng) s = .next t ∧ GoneOn t c ∧ t.mem = s.mem
          ∧ (readsDrain o = false → t.cores = s.cores) ∧ SameRegs c.w (t.wave c.key)
          ∧ ∀ no x, (streamQueue s (coreOf c.key) eng).head? = some no → s.cmds.find? no = some x →
              ∃ y, t.cmds.find? no = some y ∧ y.stopped = true)
      ∧ ((Instr.ttget o tb).Wf = true → Issues s (.ttget o tb) c → ∃ t, exec (.ttget o tb) s = .next t ∧ GoneOn t c
          ∧ SameDevice s t ∧ OtherRegs c.w (t.wave c.key) [o.d] (touched s c o)
          ∧ (∀ l ∈ lanesOf (selOf s c o), DestIs t c o.d l e.word)))
  ∧ (∀ (s : State) (c : Iss) (o : Ops) (m : MMod) (tb : BitVec 6),
      let core := (s.team c.w.team).core
      (∀ i, i = .ldt o m tb ∨ i = .stt o m tb ∨ i = .ttrdy o tb ∨ i = .ttrel o tb ∨ i = .ttsub o tb ∨ i = .ttget o tb →
        Issues s i c → tileAt s core tb.toNat = none → ∃ t, exec i s = .next t ∧ Trapped s t c .tileUnbound c.mask 0)
      ∧ (∀ i e, i = .ldt o m tb ∨ i = .stt o m tb → Issues s i c → tileAt s core tb.toNat = some e →
        readyAt s core tb.toNat e = false →
        ∃ t, exec i s = .next t ∧ HeldAt t c (.held true 9) ∧ SameDevice s t ∧ SameRegs c.w (t.wave c.key)))
/-! ### Memory instructions after their issue (04_home_slices.md, 11_isa_memory.md, 16_consistency.md) -/

/-- LOAD_COMPLETE of a load that no earlier access of its lane holds back and whose point can serve it, in time at its
slice (R68): every lane of the instruction that names the same aligned 8 bytes receives its extended bytes, laid over by the
wave's own waiting stores, at the same moment (R191); memory and every other register keep their values, and with the last
access LDC falls by one and the clause's flags fall (R64, R188, R190, R192). -/
def Obligations.LoadCompletes : Prop :=
  ∀ (s : State) (no i : Nat) (x : Nat → Nat) (t : Tx) (a : Acc) (w : Wave) (n : Fin 320),
    s.subj.a = no → s.subj.b = i → accAt s no i = some (t, a) → t.kind = .load → t.ldc = true → a.done = false →
    t.sample = none → t.run = false → t.dst = .v n → t.dst2 = .zero → s.waveAt t.wave t.serial = some w →
    let sc := pointOf s t
    let unit := t.accs.zipIdx.filter fun p => !p.1.done && p.1.pa / 8 == a.pa / 8
    (if goesHome s t.core (dieOf t.wave) sc a.pa a.n then (s.arrive (slicePort t.wave a.pa) a.pa).late else s.late) = false →
    (∀ p ∈ unit, p.1.failed = none ∧ isMap p.1.pa = false ∧ p.1.lane < 64 ∧ p.1.pa % 8 + p.1.n ≤ 8
      ∧ (∃ r, (w.outs.find? fun o => o.tx == no && o.reg == Wave.vkey n.val p.1.lane) = some r ∧ r.hit = false)
      ∧ (if t.scope = .w then behind { s with txs := s.txs.filter fun q => q.2.kind != .store } no t p.2 p.1 1
          else behind s no t p.2 p.1 (match sc with | .w => 1 | .t => 1 | .d => 2 | _ => 3)) = false
      ∧ readAt s t.core (dieOf t.wave) sc p.1.pa p.1.n = .ok (x p.2)
      ∧ ∀ q ∈ unit, q.1.lane = p.1.lane → q = p) →
    let all := ∀ p ∈ t.accs.zipIdx, p ∈ unit ∨ p.1.done = true
    ∃ u w', exec .loadComplete s = .next u ∧ u.mem = s.mem ∧ u.hostL2 = s.hostL2 ∧ u.wave? t.wave = some w'
      ∧ OtherWaves s u t.wave
      ∧ (∀ p ∈ unit, w'.vraw n.val p.1.lane = extend t.ty (ownStores s no t p.1 (x p.2)))
      ∧ (∀ m l, (m ≠ n.val ∨ ∀ p ∈ unit, p.1.lane ≠ l) → m < 320 → l < 64 → w'.vraw m l = w.vraw m l)
      ∧ (∀ m, w'.sraw m = w.sraw m) ∧ w'.p = w.p ∧ w'.lanes = w.lanes
      ∧ (all → (t.accs.all fun q => q.failed.isNone) = true → w'.ldc = w.ldc - 1 ∧ w'.flags = (w.lower t.seta t.setb).flags)
      ∧ (¬ all → w'.ldc = w.ldc ∧ w'.flags = w.flags)

/-- A store on its way out: DIE_SLICE_STORE takes a store whose home is on another die to its die slice and changes no
memory (R65). HOME_STORE, in time at its slice (R68), writes exactly its bytes where no registration is on the Leash: those
of device memory for every requester, those of host memory in the slice, and at .s in the host's memory too (R63, R64, R67);
a store to part of a failing sector that its slice does not hold is lost (R36). STORE_ACK lowers the counter of the narrowest
scope still owed, whose point has acknowledged every access, and no other; it lowers none out of that order (R190, R311). -/
def Obligations.StoresReachHome : Prop :=
  (∀ (s : State) (no i : Nat) (t : Tx) (a : Acc), s.subj.a = no → s.subj.b = i → accAt s no i = some (t, a) →
    t.kind = .store → t.held = false → a.stage < 2 → a.failed = none → isCached a.pa = true →
    homeDie a.pa (dieOf t.wave) ≠ dieOf t.wave → behind s no t i a 2 = false →
    ∃ u b, exec .dieSliceStore s = .next u ∧ u.mem = s.mem ∧ u.waves = s.waves ∧ accAt u no i = some b ∧ b.2.stage = 2
      ∧ (u.die (dieOf t.wave)).fwd = (s.die (dieOf t.wave)).fwd ++ [(no, i)])
  ∧ (∀ (s : State) (no i : Nat) (t : Tx) (a : Acc), MemInv s → (∀ d, (s.die d).leash = []) →
    s.subj.a = no → s.subj.b = i → accAt s no i = some (t, a) → t.kind = .store → t.held = false → a.stage < 3 → a.failed = none →
    unmapped s a.pa = false → (s.arrive (slicePort t.wave a.pa) a.pa).late = false →
    (homeDie a.pa (dieOf t.wave) ≠ dieOf t.wave → a.stage = 2 ∧ oldestForward s (dieOf t.wave) no i a.pa = true) →
    behind s no t i a 3 = false →
    (∀ d, place a.pa = .dev d → Writable s a.pa a.n →
      ∃ u, exec .homeStore s = .next u ∧ Memory.read u.mem a.pa a.n = a.data.toNat % 256 ^ a.n ∧ u.hostL2 = s.hostL2
        ∧ ∀ b, b < a.pa ∨ a.pa + a.n ≤ b → Memory.byte u.mem b = Memory.byte s.mem b)
    ∧ (place a.pa = .host →
      ∃ u, exec .homeStore s = .next u
        ∧ (∀ j, j < a.n → homeByte u (a.pa + j) = BitVec.ofNat 8 (a.data.toNat / 256 ^ j))
        ∧ (∀ b, b < a.pa ∨ a.pa + a.n ≤ b → homeByte u b = homeByte s b)
        ∧ (t.scope ≠ .s → u.mem = s.mem)
        ∧ (t.scope = .s → Memory.read u.mem a.pa a.n = a.data.toNat % 256 ^ a.n
            ∧ ∀ b, b < a.pa ∨ a.pa + a.n ≤ b → Memory.byte u.mem b = Memory.byte s.mem b))
    ∧ (∀ d, place a.pa = .dev d → 0 < a.n → a.pa % 32 + a.n ≤ 32 → a.n < 32 → (s.bad.find? (a.pa / 32)).isSome = true →
      l2Has s (a.pa / 32) = false → ∃ u, exec .homeStore s = .next u ∧ u.mem = s.mem ∧ u.bad.keys = s.bad.keys))
  ∧ (∀ (s : State) (no : Nat) (t : Tx) (sc : Scope) (w : Wave), s.subj.a = no → s.subj.scope = sc → s.txs.find? no = some t →
    t.kind = .store → t.held = false → t.sample = none → t.tasks = [] → sc ≠ .w → t.accs ≠ [] →
    (∀ a ∈ t.accs, a.stage = 3) → s.waveAt t.wave t.serial = some w →
    (t.owed.head? = some sc → ∃ u w', exec .storeAck s = .next u ∧ u.mem = s.mem ∧ u.wave? t.wave = some w'
      ∧ OtherWaves s u t.wave ∧ w'.stc sc = w.stc sc - 1 ∧ (∀ z, z ≠ sc → w'.stc z = w.stc z) ∧ SameRegs w w'
      ∧ w'.lanes = w.lanes)
    ∧ (t.owed.head? ≠ some sc → ∃ name, exec .storeAck s = .refused (.notEnabled name)))

/-- HOME_ATOMIC of an address that one lane of the instruction names, in time at its slice (R68): the home slice keeps the old
value for the reply and writes what the operation leaves, and with no registration on the Leash no other byte changes (R66 to
R70, R198, R199). Binned cells at the home slice: BINNED_CONTRIBUTION of one lane adds one to the count of the cell, sets its
bins as R72 says and writes no other byte; BINNED_READ changes no memory and keeps the cell's total, rounded as R73 says, for
the reply. -/
def Obligations.AtomicsAtHome : Prop :=
  (∀ (s : State) (no i d : Nat) (t : Tx) (a : Acc) (result : Nat → Nat), MemInv s → (∀ d, (s.die d).leash = []) →
      s.subj.a = no → s.subj.b = i → accAt s no i = some (t, a) → firstThere s no t i a = true →
      sameAddr t a.pa = [(i, a)] → place a.pa = .dev d → unmapped s a.pa = false → anyBad s a.pa a.n = false →
      Writable s a.pa a.n → (s.arrive (slicePort t.wave a.pa) a.pa).late = false → a.clash = false → a.n = t.ty.bytes →
      let n := 8 * a.n
      let x := a.data.toNat % 2 ^ n
      let val := fun y => tyInt t.ty.ety y
      ((t.kind = .exch ∧ result = fun _ => x)
        ∨ (t.kind = .cas ∧ result = fun old => if old = x then a.data2.toNat % 2 ^ n else old)
        ∨ (∃ op, (t.kind = .atomic op ∨ t.kind = .reduce op) ∧ t.ty.ety.isFp = false ∧
            (op = .add ∧ (result = fun old => (old + x) % 2 ^ n) ∨ op = .and ∧ (result = fun old => old &&& x)
              ∨ op = .or ∧ (result = fun old => old ||| x) ∨ op = .xor ∧ (result = fun old => old ^^^ x)
              ∨ op = .min ∧ (result = fun old => if val x < val old then x else old)
              ∨ op = .max ∧ (result = fun old => if val old < val x then x else old)))) →
      let old := Memory.read s.mem a.pa a.n
      ∃ u, exec .homeAtomic s = .next u ∧ Memory.read u.mem a.pa a.n = result old
        ∧ (∀ b, b < a.pa ∨ a.pa + a.n ≤ b → Memory.byte u.mem b = Memory.byte s.mem b)
        ∧ (t.ldc = true → ∃ b, accAt u no i = some b ∧ b.2.old = some (BitVec.ofNat 64 old) ∧ b.2.failed = none))
  ∧ (∀ (s : State) (no i d : Nat) (t : Tx) (a : Acc) (f : Fmt), MemInv s → (∀ d, (s.die d).leash = []) →
      s.subj.a = no → s.subj.b = i → accAt s no i = some (t, a) → place a.pa = .dev d → a.pa % 32 = 0 →
      unmapped s a.pa = false → anyBad s a.pa 32 = false → (s.arrive (slicePort t.wave a.pa) a.pa).late = false →
      fmtOf t.ty.ety = some f →
      let cell := fun (u : State) => (Memory.read u.mem a.pa 8, Memory.read u.mem (a.pa + 8) 8,
        Memory.read u.mem (a.pa + 16) 8, Memory.read u.mem (a.pa + 24) 8)
      (t.kind = .badd → firstThere s no t i a = true → sameAddr t a.pa = [(i, a)] →
        ∃ u, exec .binnedContribution s = .next u
          ∧ cell u = cellAdd (cell s) (f.decode (a.data.toNat % 2 ^ f.width))
          ∧ ((cell s).1 % 2 ^ 23 ≠ 0x7FFFFF → (cell u).1 % 2 ^ 23 = (cell s).1 % 2 ^ 23 + 1)
          ∧ ∀ b, b < a.pa ∨ a.pa + 32 ≤ b → Memory.byte u.mem b = Memory.byte s.mem b)
      ∧ (t.kind = .bread → reached t a < 3 → behind s no t i a 3 = false →
        ∃ u b, exec .binnedRead s = .next u ∧ u.mem = s.mem ∧ u.waves = s.waves ∧ accAt u no i = some b
          ∧ b.2.old = some (BitVec.ofNat 64 (cellTotal (cell s) f).1) ∧ b.2.fl = (cellTotal (cell s) f).2))

/-- Copies, DRAM and refresh change no byte of memory: CACHE_COPY_DROP drops a sector's copy in an L1, or fills it with what
the die slice gives while its set has room (R64, R102, R314), and a home slice takes a sector of device memory in or writes
its line out (R63); DRAM_READ_COMPLETE and PARTIAL_WRITE_MERGE count their corrected errors in MS_CORR (until it saturates),
those of the stacked layer too, and mark a sector that cannot be read, with its kind (R33 to R36, R42); BANK_REFRESH changes
nothing (R38, R39). -/
def Obligations.CachesAndDram : Prop :=
  ∀ s : State,
    let a := s.subj.a / 32 * 32
    let k := s.subj.a
    (∀ core, isCached a = true → unmapped s a = false → s.subj.copy = .l1 core → core < 256 →
      coreWorks (core / 64) (core % 64) = true →
      (s.subj.flag = true → failsThere s core (core / 64) .d a 32 = false ∧ l1Room s core a = true) →
      ∃ u, exec .cacheCopyDrop s = .next u ∧ u.mem = s.mem ∧ u.hostL2 = s.hostL2 ∧ u.waves = s.waves
        ∧ (s.subj.flag = false → u.dies = s.dies ∧ ∀ b, a ≤ b → b < a + 32 → ∀ p ∈ (u.core core).l1, p.1 ≠ b)
        ∧ (s.subj.flag = true → ∀ b, a ≤ b → b < a + 32 → (u.core core).l1.find? b = some (dieByte s (core / 64) b)))
    ∧ (isDev a = true → unmapped s a = false → s.subj.copy = .home →
      (s.subj.flag = true → badSector s (a / 32) = false ∧ sliceRoom s (homeDie a 0) a = true) →
      ∃ u, exec .cacheCopyDrop s = .next u ∧ u.mem = s.mem ∧ u.hostL2 = s.hostL2 ∧ u.waves = s.waves
        ∧ (s.subj.flag = true → l2Has u (a / 32) = true))
    ∧ (∀ r, s.dev.up = true → isDev (32 * k) = true → r ≤ 4 → (s.bad.find? k).isNone = true →
        s.subj.outcome = .clean r ∨ (s.subj.outcome = .corrected r ∧ s.subj.flag = false) →
        let n := min r 1 + match s.subj.outcome with | .corrected _ => 1 | _ => 0
        (s.reg (secDie k) Off.msCorr).toNat + 5 < 2 ^ 64 →
        (∃ u, exec .dramReadComplete s = .next u ∧ u.mem = s.mem ∧ u.bad = s.bad ∧ u.waves = s.waves
          ∧ (u.reg (secDie k) Off.msCorr).toNat = (s.reg (secDie k) Off.msCorr).toNat + n)
        ∧ (∀ x y, s.subj.nums = [x] → s.subj.bytes = [y] → x < 32 → Memory.byte s.mem (32 * k + x) = y → l2Has s k = false →
            ∃ u, exec .partialWriteMerge s = .next u ∧ u.mem = s.mem ∧ u.bad = s.bad
              ∧ (u.reg (secDie k) Off.msCorr).toNat = (s.reg (secDie k) Off.msCorr).toNat + n))
    ∧ (s.dev.up = true → isDev (32 * k) = true → s.subj.outcome = .layerCorrected → layerHas s k = true →
        (s.reg (secDie k) Off.msCorr).toNat + 1 < 2 ^ 64 →
        ∃ u, exec .dramReadComplete s = .next u ∧ u.mem = s.mem ∧ u.bad = s.bad
          ∧ (u.reg (secDie k) Off.msCorr).toNat = (s.reg (secDie k) Off.msCorr).toNat + 1)
    ∧ (∀ r, s.dev.up = true → isDev (32 * k) = true → r ≤ 4 →
        (s.subj.outcome = .uncorrectable r ∧ s.subj.flag = false) ∨ s.subj.outcome = .crcExhausted →
        ∃ u, exec .dramReadComplete s = .next u ∧ u.mem = s.mem
          ∧ u.bad.find? k = some { kind := if s.subj.outcome = .crcExhausted then 2 else 1, fresh := true })
    ∧ (s.dev.up = true → s.subj.a < 4 → exec .bankRefresh s = .next s)

/-! ### Matrix instructions (14_isa_matrix.md) -/

/-- A queued matrix operation, MLDW, MMA, MMAS, MMAQ, MSTA, MLDA, MSCALE or MCVT, outside replay, whose checks pass, whose
tiles are READY and whose array has room, completes its issue: one operation, with its word's handle and operand as they
are now, enters the queue of the array that serves it, or of both in PAIRED mode; the clause's flags rise; memory, every
register and every other counter keep their values; and MCVT alone changes the type of its handle, and nothing else of
it (R256, R259, R270, R272, R273). -/
def Obligations.MatrixOperationsQueue : Prop :=
  ∀ (s : State) (c : Iss) (o : Ops) (i : Instr) (f : MForm),
    let t := s.team c.w.team
    let a := readSrc s c.w o .a b64 0
    let hx := match f.handle with | some n => (t.handles[n.val]?).getD 0 | none => 0
    let qs := queuesFor t f (hnd hx)
    ((∃ tb, i = .mldw o tb ∨ i = .mlda o tb) ∨ (∃ tb rz, i = .msta o tb rz) ∨ (∃ w, i = .mma o w ∨ i = .mmaq o w)
      ∨ (∃ w m, i = .mmas o w m) ∨ i = .mscale o ∨ ∃ b, i = .mcvt o b) → mform i = some f →
    Issues s i c → recMode s c.w = 0 → c.w.quantum.redo = [] → mcheck s t i f a 0 c.w.width c.w.nv false = none →
    mtilesReady s t f a = true → queuesFull s qs = false →
    ∃ (u : State) (op : MOp), exec i s = .next u ∧ GoneOn u c ∧ u.mem = s.mem ∧ u.dies = s.dies ∧ u.txs = s.txs ∧ u.cmds = s.cmds
      ∧ OtherWaves s u c.key ∧ SameRegs c.w (u.wave c.key)
      ∧ (u.wave c.key).flags = (c.w.raise c.seta c.setb).flags ∧ (u.wave c.key).seq = c.w.seq
      ∧ op.instr = i ∧ op.wave = c.key ∧ op.team = c.w.team ∧ op.handle = hx ∧ op.factor = a ∧ op.seta = c.seta
      ∧ op.setb = c.setb ∧ op.step = 0 ∧ op.row = 0 ∧ op.ended = false
      ∧ (∀ core, (u.core core).mq = (s.core core).mq
          ++ (if core ∈ qs then [{ op with mirror := decide (qs.head? ≠ some core) }] else []))
      ∧ (∀ core, (u.core core).acc = (s.core core).acc ∧ (u.core core).sram = (s.core core).sram)
      ∧ ((∀ b, i ≠ .mcvt o b) → u.teams = s.teams)
      ∧ (∀ b n, i = .mcvt o b → o.d = .acc n → (u.team c.w.team).handles.length = t.handles.length
          ∧ ∀ k, (((u.team c.w.team).handles[k]?).map hnd)
              = ((t.handles[k]?).map hnd).map fun h => if k = n.val then { h with ty := if b then 1 else 0 } else h)

/-- MBIND, MUNBIND, MZERO, MPAIR and MSWAP of a team with no operation in its arrays complete (R257, R258, R260): the
handle takes the operand, or 0; every element of the handle's tile reads as 0; the mode is set, and the destination of
each lane receives the old mode; the planes of the team's arrays change places. While the team has an operation in them
they are held, which does not count as waiting, and perform nothing. -/
def Obligations.HandlesAndPairing : Prop :=
  ∀ (s : State) (c : Iss) (o : Ops) (n : Fin 16) (paired : Bool),
    let tn := c.w.team
    let t := s.team tn
    let x := readSrc s c.w o .a b64 0
    let h := hnd (handleAt t o.d)
    let keeps := fun (u : State) => u.mem = s.mem ∧ u.dies = s.dies ∧ OtherWaves s u c.key ∧ SameStatus c.w (u.wave c.key)
    let quiet := fun (u : State) => keeps u ∧ GoneOn u c ∧ SameRegs c.w (u.wave c.key)
    (∀ i, i = .mbind o ∨ i = .munbind o ∨ i = .mzero o ∨ i = .mpair o paired ∨ i = .mswap o → Issues s i c →
      teamBusy s tn = true →
      ∃ u, exec i s = .next u ∧ HeldAt u c (.held false 13) ∧ keeps u ∧ SameRegs c.w (u.wave c.key) ∧ u.cores = s.cores
        ∧ u.teams = s.teams)
    ∧ (teamBusy s tn = false → (s.teams.find? tn).isSome = true → t.handles.length = 16 → o.d = .acc n →
      (Issues s (.mbind o) c → badHandle t x = false →
        ∃ u, exec (.mbind o) s = .next u ∧ quiet u ∧ u.cores = s.cores ∧ u.team tn = { t with handles := t.handles.set n.val x })
      ∧ (Issues s (.mbind o) c → badHandle t x = true →
        ∃ u, exec (.mbind o) s = .next u ∧ Trapped s u c .matrixShape c.mask 0)
      ∧ (Issues s (.munbind o) c → h.v = true →
        ∃ u, exec (.munbind o) s = .next u ∧ quiet u ∧ u.cores = s.cores ∧ u.team tn = { t with handles := t.handles.set n.val 0 })
      ∧ (Issues s (.mzero o) c → h.v = true →
        ∃ u, exec (.mzero o) s = .next u ∧ quiet u ∧ u.teams = s.teams
          ∧ (∀ i j, i < h.rows → j < h.cols → accElem u t h i j = 0)
          ∧ ∀ core, (u.core core).sram = (s.core core).sram ∧ (u.core core).mq = (s.core core).mq)
      ∧ (∀ i, i = .munbind o ∨ i = .mzero o → Issues s i c → h.v = false →
        ∃ u, exec i s = .next u ∧ Trapped s u c .accUnbound c.mask 0))
    ∧ (teamBusy s tn = false → (s.teams.find? tn).isSome = true → Issues s (.mpair o paired) c →
      (paired = true → t.pair = true) → (paired = false → (t.handles.any fun x => bit x 63 && crosses t (hnd x)) = false) →
      ∃ u, exec (.mpair o paired) s = .next u ∧ keeps u ∧ GoneOn u c ∧ u.cores = s.cores ∧ u.team tn = { t with paired }
        ∧ OtherRegs c.w (u.wave c.key) [o.d] c.mask
        ∧ ∀ l, l < 64 → c.mask.getLsbD l = true → DestIs u c o.d l (if t.paired then 1 else 0))
    ∧ (teamBusy s tn = false → Issues s (.mswap o) c →
      ∃ u, exec (.mswap o) s = .next u ∧ quiet u ∧ u.teams = s.teams
        ∧ ∀ core, (u.core core).active = (if core ∈ arraysOf t then (s.core core).shadow else (s.core core).active)
          ∧ (u.core core).shadow = (if core ∈ arraysOf t then (s.core core).active else (s.core core).shadow)
          ∧ (u.core core).acc = (s.core core).acc)

/-- The scoreboard, joint issue, drains and saved operations (R265 to R267, R271, R274, R275): MSCB.set, once its entry is
free, MSCB.write and MSCB.read give the two words of the entry and set it; MRDY leaves its group at the word until an
MMAX completes; MMAX, with every wave arrived and its array free, takes the entry and queues one operation; MDRN and MDRNC
open a drain; MPGET gives a record of the stop list; and MPSET of an invalid record changes nothing, while one of a record
whose operation may run again queues it at the step and row it stood at. -/
def Obligations.ScoreboardDrainsAndProgress : Prop :=
  ∀ (s : State) (c : Iss) (o : Ops) (entry : BitVec 2) (d n : Fin 256),
    let tn := c.w.team
    let t := s.team tn
    let x := scbOf t entry.toNat
    let word := fun (r : Fin 256) (j : Nat) => c.w.sread s.epoch (r.val + j)
    let keeps := fun (u : State) => u.mem = s.mem ∧ u.dies = s.dies ∧ OtherWaves s u c.key ∧ SameStatus c.w (u.wave c.key)
    let gives := fun (u : State) (ws : List Word) => GoneOn u c ∧ keeps u ∧ u.cores = s.cores
      ∧ (∀ j y, ws[j]? = some y → (u.wave c.key).sraw (d.val + j) = y)
      ∧ (∀ m, m < d.val ∨ d.val + ws.length ≤ m → m < 256 → (u.wave c.key).sraw m = c.w.sraw m)
      ∧ (∀ r l, r < 320 → l < 64 → (u.wave c.key).vraw r l = c.w.vraw r l)
    let setTo := fun (u : State) (y : Scb) => u.team tn = { t with scb := t.scb.set entry.toNat y }
    let fields := fun (r : Fin 256) => (BitVec.ofNat 32 (bits (word r 0) 63 32), BitVec.ofNat 32 (bits (word r 0) 31 0),
      BitVec.ofNat 9 (bits (word r 1) 8 0))
    ((s.teams.find? tn).isSome = true → o.d = .s d → o.a = .s n →
      (Issues s (.mscbRead o entry) c →
        ∃ u, exec (.mscbRead o entry) s = .next u ∧ gives u (scbWords x) ∧ u.teams = s.teams)
      ∧ (badScb t (word n 0) (word n 1) = false →
        (Issues s (.mscbSet o entry) c → x.busy = false → x.arrived = 0 →
          ∃ u, exec (.mscbSet o entry) s = .next u ∧ gives u (scbWords x)
            ∧ setTo u { x with mask := (fields n).1, base := (fields n).2.2, arrived := 0 })
        ∧ (Issues s (.mscbSet o entry) c → x.busy = true ∨ x.arrived ≠ 0 →
          ∃ u, exec (.mscbSet o entry) s = .next u ∧ HeldAt u c (.held true 13) ∧ keeps u ∧ u.teams = s.teams)
        ∧ (Issues s (.mscbWrite o entry) c →
          ∃ u, exec (.mscbWrite o entry) s = .next u ∧ gives u (scbWords x)
            ∧ setTo u { x with mask := (fields n).1, base := (fields n).2.2, arrived := (fields n).2.1 })))
    ∧ (Issues s (.mrdy o entry) c → (scbBit x c.w.waveId).isSome = true → x.busy = false → c.w.pending c.mask = 0 →
        ∃ u, exec (.mrdy o entry) s = .next u ∧ WaitsAt u c (.mrdy entry.toNat) ∧ keeps u ∧ u.cores = s.cores
          ∧ SameRegs c.w (u.wave c.key)
          ∧ (c.w.live = c.mask → c.mask ≠ 0 → (s.teams.find? tn).isSome = true → t.scb.length = 4 →
              setTo u { x with arrived := x.arrived ||| (scbBit x c.w.waveId).getD 0 }))
    ∧ (∀ ty w f, mform (.mmax o ty w entry) = some f → Issues s (.mmax o ty w entry) c →
        let qs := queuesFor t f (hnd (match f.handle with | some n => (t.handles[n.val]?).getD 0 | none => 0))
        mcheck s t (.mmax o ty w entry) f 0 x.mask c.w.width c.w.nv false = none → c.w.live = c.mask → x.busy = false →
        (s.teams.find? tn).isSome = true → allArrived s t { x with arrived := x.arrived ||| (scbBit x c.w.waveId).getD 0 } = true →
        mtilesReady s t f 0 = true → queuesFull s qs = false →
        ∃ (u : State) (op : MOp), exec (.mmax o ty w entry) s = .next u ∧ GoneOn u c ∧ u.mem = s.mem ∧ u.dies = s.dies ∧ SameRegs c.w (u.wave c.key)
          ∧ (u.wave c.key).flags = (c.w.raise c.seta c.setb).flags ∧ setTo u { x with arrived := 0, busy := true }
          ∧ op.instr = .mmax o ty w entry ∧ op.mask = x.mask ∧ op.base = x.base ∧ op.wave = c.key
          ∧ ∀ core, (u.core core).mq = (s.core core).mq
              ++ (if core ∈ qs then [{ op with mirror := decide (qs.head? ≠ some core) }] else []))
    ∧ (∀ i clear, (i = .mdrn o ∧ clear = false ∨ i = .mdrnc o ∧ clear = true) → Issues s i c →
        let h := hnd (handleAt t o.d)
        let row := (readSrc s c.w o .a b64 0).toNat
        let col := (readSrc s c.w o .b b64 0).toNat
        (h.v = true → row < h.rows → col < h.cols →
          ∃ u, exec i s = .next u ∧ GoneOn u c ∧ keeps u ∧ u.cores = s.cores ∧ u.teams = s.teams ∧ SameRegs c.w (u.wave c.key)
            ∧ (u.wave c.key).drain = some { handle := handleNo o.d, row, col, clear })
        ∧ (h.v = false → ∃ u, exec i s = .next u ∧ Trapped s u c .accUnbound c.mask 0))
    ∧ (∀ idx : BitVec 4, Issues s (.mpget o idx false) c → o.d = .s d →
        ∃ u, exec (.mpget o idx false) s = .next u ∧ u.teams = s.teams
          ∧ gives u (match t.stopList[idx.toNat]? with | some r => recWords r | none => [0, 0, 0, 0]))
    ∧ (Issues s (.mpset o) c → o.a = .s n → bit (word n 1) 63 = false →
        ∃ u, exec (.mpset o) s = .next u ∧ GoneOn u c ∧ SameDevice s u ∧ u.cores = s.cores ∧ SameRegs c.w (u.wave c.key))
    ∧ (∀ tb io, Issues s (.mpset o) c → o.a = .s n → (s.teams.find? tn).isSome = true →
        let r := fun j => word n j
        bits (r 0) 63 62 = 0 → decodeFull (r 0) none = .ok (.mldw io tb) → waveCheck (.mldw io tb) false c.w = none →
        bit (r 1) 63 = true → bits (r 1) 62 54 = 0 → bits (r 1) 36 25 = 0 → bits (r 3) 31 9 = 0 →
        bits (r 1) 15 0 = 0 → bits (r 1) 24 16 = 0 →
        let f : MForm := { handle := none, tb := some tb }
        let a := readSrc s c.w io .a b64 0
        mcheck s t (.mldw io tb) f a (BitVec.ofNat 32 (bits (r 3) 63 32)) c.w.width c.w.nv true = none →
        mtilesReady s t f a = true → queuesFull s (queuesFor t f (hnd 0)) = false →
        ∃ (u : State) (op : MOp), exec (.mpset o) s = .next u ∧ GoneOn u c ∧ u.mem = s.mem ∧ u.dies = s.dies ∧ SameRegs c.w (u.wave c.key)
          ∧ u.team tn = { t with stopList := [] } ∧ op.instr = .mldw io tb ∧ op.pc = r 2 ∧ op.waveId = bits (r 1) 45 37
          ∧ op.step = 0 ∧ op.row = 0 ∧ op.seta = flagOf (bits (r 1) 53 50) ∧ op.setb = flagOf (bits (r 1) 49 46)
          ∧ ∀ core, (u.core core).mq = (s.core core).mq ++ (if core ∈ queuesFor t f (hnd 0) then
              [{ op with mirror := decide ((queuesFor t f (hnd 0)).head? ≠ some core) }] else []))

/-- The array's events on the operation at the head of its queue (R253, R260, R262, R268, R272, R273): PLANE_LOAD of an
MLDW ends it and loads its step into the shadow plane, and MATRIX_STEP of an MSCALE, MCVT, MLDA or MSTA ends it, without a
change of memory or registers; MATRIX_STREAMED_READ of a streamed multiply, its read served, keeps the tensor entry or the
cells of a row; MATRIX_COMPLETE of an operation that has ended, and of whose operands none
was written while it ran (R155), takes it from its queue, and the flags of its word fall. -/
def Obligations.MatrixArrayRuns : Prop :=
  ∀ (s : State) (core : Nat) (op : MOp), s.subj.a = core → headOp s core = some op →
    let after := fun (u : State) => ((u.core core).mq.find? fun m => m.no == op.no && !m.mirror)
    (∀ o tb e, op.instr = .mldw o tb → op.ended = false → op.parked = false →
      tileGeom (s.team op.team) tb.toNat = some e → opArrays s core op = [core] →
      ∃ (u : State) (p : Plane), exec .planeLoad s = .next u ∧ u.mem = s.mem ∧ u.waves = s.waves ∧ u.dies = s.dies ∧ u.teams = s.teams
        ∧ (u.core core).shadow = some p ∧ p.tb = tb.toNat ∧ p.step = op.factor.toNat ∧ p.core = (s.team op.team).core
        ∧ (u.core core).active = (s.core core).active ∧ (u.core core).acc = (s.core core).acc
        ∧ ∃ m, after u = some m ∧ m.ended = true)
    ∧ (∀ o, (op.instr = .mscale o ∨ (∃ b, op.instr = .mcvt o b) ∨ (∃ tb, op.instr = .mlda o tb) ∨ ∃ tb rz, op.instr = .msta o tb rz) →
      op.ended = false → op.parked = false → op.step = 0 →
      ∃ u, exec .matrixStep s = .next u ∧ u.mem = s.mem ∧ u.waves = s.waves ∧ u.dies = s.dies ∧ u.teams = s.teams
        ∧ (∃ m, after u = some m ∧ m.ended = true ∧ m.step = 1)
        ∧ ((∀ tb rz, op.instr ≠ .msta o tb rz) → ∀ k, (u.core k).sram = (s.core k).sram)
        ∧ ((∃ tb rz, op.instr = .msta o tb rz) → ∀ k, (u.core k).acc = (s.core k).acc))
    ∧ (∀ f, mform op.instr = some f → f.w.isSome = true → f.joint = none → (actWord op.factor).mem = true → op.ended = false →
      op.parked = false → op.rowData = none →
      (∀ r bs, op.tensor = none → unitRead s (dieOfCore core) op.ctx ((s.launch (s.team op.team).launch).tnbase
            + 64 * (actWord op.factor).id) 64 = (r, .ok bs) → r.cores = s.cores → streamCheck r op f (tent (wordsOf bs)) = 0 →
        ∃ u m, exec .matrixStreamedRead s = .next u ∧ u.mem = r.mem ∧ u.waves = r.waves ∧ after u = some m
          ∧ m.tensor = some (wordsOf bs) ∧ m.ended = false)
      ∧ (∀ r ws cells tb e, op.tensor = some ws → weightOf s op f = some (tb, e) → op.step < stepsOf e →
        let kb := e.k / stepsOf e
        streamRow s (dieOfCore core) op.ctx (tent ws) ((actWord op.factor).o1 + op.row) ((actWord op.factor).o0 + op.step * kb) kb
          = (r, .ok cells) → r.cores = s.cores →
        ∃ u m, exec .matrixStreamedRead s = .next u ∧ u.mem = r.mem ∧ u.waves = r.waves ∧ after u = some m
          ∧ m.rowData = some cells ∧ m.ended = false))
    ∧ (∀ f key w, mform op.instr = some f → f.joint = none → op.ended = true → op.hits = [] →
      (∀ p ∈ op.joined, (s.wave p.1).vhits.length = p.2) →
      (s.team op.team).waves.find? op.waveId = some key → s.wave? key = some w → w.team = op.team → w.waveId = op.waveId →
      ∃ u v, exec .matrixComplete s = .next u ∧ u.mem = s.mem ∧ u.dies = s.dies ∧ u.teams = s.teams ∧ u.wave? key = some v
        ∧ (∀ j, j ≠ key → j ∉ op.joined.map Prod.fst → u.wave? j = s.wave? j) ∧ SameRegs w v ∧ v.lanes = w.lanes ∧ v.flags = (w.lower op.seta op.setb).flags
        ∧ v.fpflags = w.fpflags ||| BitVec.ofNat 64 (op.fpflags % 256)
        ∧ ∀ k, (u.core k).mq = (s.core k).mq.filter fun m => !(opArrays s core op).contains k || m.no != op.no)

/-! ### Beam instructions and the beam engine (15_beam_engine.md) -/

/-- Beams made, freed, reflected and popped (R299 to R303, R305): on the engine of its team a lane's BMAKE or BMAKEA of a
valid frame takes the lowest free slot, which becomes HELD with the frame, the unit coverage, the tag and the four edges
of its window, and its destination the slot's number, −2 of an invalid frame, and −1 with no slot free, as for BKALLOC;
BKFREE frees the slots of the lanes. BKFREE comes before what the engine takes in a cycle, and BMAKE, BMAKEA and BKALLOC
after it: where its turn of the cycle is past, the instruction is held (R294). BOVF sets OVF and the bundle size; BREFL of an
ENDED slot without a hit gives −2, and with one the reflected beam; BPOP gives each lane the fragment at its turn and lets the
engine go on. -/
def Obligations.BeamSlotInstructions : Prop :=
  ∀ (s : State) (c : Iss) (o : Ops) (team : Team),
    let core := coreOf c.key
    let sel := selOf s c o
    let keeps := fun (u : State) => GoneOn u c ∧ u.mem = s.mem ∧ u.dies = s.dies ∧ u.txs = s.txs ∧ OtherWaves s u c.key
      ∧ OtherRegs c.w (u.wave c.key) [o.d] sel ∧ SameStatus c.w (u.wave c.key)
    let slotIs := fun (u : State) (n : Nat) (x : Slot) => ∀ k b, x.bytes[k]? = some b → readsDrain o = false → sramByte u core (slotBase s core n + k) = b
    let named := fun l => bits (readSrc s c.w o .a b64 l) 10 0
    let sameSlots := fun (u : State) => readsDrain o = false → ∀ k, (u.core k).sram = (s.core k).sram ∧ (u.core k).beam = (s.core k).beam
    let turn := fun (kind : Nat) => s.inTurn core (s.core core).kennelAt (placeOf kind c.key)
    let waits := fun (i : Instr) => ∃ u, exec i s = .next u ∧ HeldAt u c (.held true 19) ∧ SameDevice s u ∧ OtherWaves s u c.key
      ∧ u.cores = s.cores ∧ SameRegs c.w (u.wave c.key) ∧ SameStatus c.w (u.wave c.key)
    kennelOf s core = some (c.w.team, team) → sel ≠ 0 →
    (∀ i area first, (i = .bmake o ∧ area = false ∨ i = .bmakea o ∧ area = true) → o.a = .v first → Issues s i c →
      (turn 2 = false → waits i)
      ∧ (turn 2 = true → (∃ u, exec i s = .next u ∧ keeps u)
      ∧ ∀ l, lanesOf sel = [l] →
        let g := fun k => elem 32 (c.w.vread s.epoch (first.val + k / 2) l) (k % 2)
        let v := fun k => (⟨g k, g (k + 1), g (k + 2)⟩ : Geo.V3)
        let f : Geo.Frame := ⟨v 0, v 3, v 6, v 9⟩
        let good := frameOk area f (g 12) (g 13) (g 14) (g 15) (g 16) (g 17)
        (good = false → ∃ u, exec i s = .next u ∧ DestIs u c o.d l badFrame ∧ sameSlots u)
        ∧ (good = true → (freeSlots s core).head? = none → ∃ u, exec i s = .next u ∧ DestIs u c o.d l noSlot ∧ sameSlots u)
        ∧ (∀ n, good = true → (freeSlots s core).head? = some n →
            ∃ u, exec i s = .next u ∧ DestIs u c o.d l (BitVec.ofNat 64 n)
              ∧ slotIs u n { state := slotHeld, area, cov := Geo.one, tag := (readSrc s c.w o .b b64 l).toNat % 2 ^ 32, frame := f,
                             hn := g 12, hf := g 13,
                             edges := [(0, Geo.one, Geo.neg (g 15)), (Geo.neg Geo.one, 0, g 16),
                                       (0, Geo.neg Geo.one, g 17), (Geo.one, 0, Geo.neg (g 14))] })))
    ∧ (Issues s (.bkalloc o) c → turn 2 = false → waits (.bkalloc o))
    ∧ (Issues s (.bkalloc o) c → turn 2 = true →
        (∃ u, exec (.bkalloc o) s = .next u ∧ keeps u)
        ∧ ∀ l, lanesOf sel = [l] → ∃ u, exec (.bkalloc o) s = .next u ∧
          match (freeSlots s core).head? with
          | none => DestIs u c o.d l noSlot
          | some n => DestIs u c o.d l (BitVec.ofNat 64 n) ∧ slotIs u n { state := slotHeld })
    ∧ ((∀ l ∈ lanesOf sel, named l < kslots s core) →
      (Issues s (.bkfree o) c → (∀ l ∈ lanesOf sel, slotState s core (named l) ≠ slotQueued) → turn 0 = false → waits (.bkfree o))
      ∧ (Issues s (.bkfree o) c → (∀ l ∈ lanesOf sel, slotState s core (named l) ≠ slotQueued) → turn 0 = true →
        ∃ u, exec (.bkfree o) s = .next u ∧ keeps u ∧ SameRegs c.w (u.wave c.key)
          ∧ (readsDrain o = false → ∀ l ∈ lanesOf sel, slotState u core (named l) = slotFree))
      ∧ (Issues s (.bkfree o) c → ∀ bad, bad = (lanesOf sel).filter (fun l => slotState s core (named l) == slotQueued) → bad ≠ [] →
        ∃ u, exec (.bkfree o) s = .next u ∧ Trapped s u c .kennelState sel 0)
      ∧ (Issues s (.bovf o) c → (∀ l ∈ lanesOf sel, slotState s core (named l) = slotHeld) →
        let b := (readSrc s c.w o .b b64 0).toNat
        (b < 3 → ∃ u, exec (.bovf o) s = .next u ∧ keeps u ∧ SameRegs c.w (u.wave c.key)
          ∧ ∀ l, lanesOf sel = [l] → slotIs u (named l) { slotAt s core (named l) with ovf := true, bsize := b })
        ∧ (3 ≤ b → ∃ u, exec (.bovf o) s = .next u ∧ Trapped s u c .beamControl sel 0))
      ∧ (Issues s (.brefl o) c → (∀ l ∈ lanesOf sel, slotState s core (named l) = slotEnded) →
        ((∀ l ∈ lanesOf sel, (slotAt s core (named l)).hitv = false) →
          ∃ u, exec (.brefl o) s = .next u ∧ keeps u ∧ (readsDrain o = false → u.cores = s.cores)
            ∧ ∀ l, lanesOf sel = [l] → DestIs u c o.d l badFrame)
        ∧ ∀ l pa pb ds bs sc,
            let scene := readSrc s c.w o .b b64 0
            let n := named l
            let prim := BitVec.ofNat 64 (sc.prims + 64 * (slotAt s core n).hit)
            lanesOf sel = [l] → (slotAt s core n).state = slotEnded → (slotAt s core n).hitv = true →
            gate s c.key c.w .read [(l, scene)] = .go [(l, scene, pa)] [] →
            readAt s core (dieOf c.key) .k pa 32 = .ok ds → sceneOf scene.toNat (wordsOf (bytesOf ds 32)) = some sc →
            gate s c.key c.w .read [(l, prim)] = .go [(l, prim, pb)] [] → readAt s core (dieOf c.key) .k pb 64 = .ok bs →
            ∃ u, exec (.brefl o) s = .next u ∧ keeps u ∧ DestIs u c o.d l (BitVec.ofNat 64 n)
              ∧ slotIs u n (reflect (slotAt s core n) (bytesOf bs 64))))
    ∧ (∀ st nowait first, Issues s (.bpop o st nowait) c → o.d = .v first →
        (∃ u, exec (.bpop o st nowait) s = .next u ∧ GoneOn u c ∧ u.mem = s.mem ∧ u.dies = s.dies)
        ∧ (recMode s c.w = 0 → (s.core core).beam.pops = [] → (lanesOf sel).length ≤ (s.core core).beam.frags.length →
            (∀ x ∈ c.w.outs, x.tx < s.fresh) →
            ∃ u, exec (.bpop o st nowait) s = .next u ∧ (u.core core).beam.frags = (s.core core).beam.frags.drop (lanesOf sel).length
              ∧ ∀ (j l : Nat) (f : List Word) (k : Nat) (x : Word), (lanesOf sel)[j]? = some l → (s.core core).beam.frags[j]? = some f → k < 8 → f[k]? = some x →
                  f.length = 8 → (u.wave c.key).vraw (first.val + k) l = x))

/-- Walks, split control and the saving of an engine (R300, R304, R306, R307): BWALK of HELD slots with an entry free
adds a walk, as an engine command; BSPLIT gives the old split control and sets it; BKGET gives the words of a slot, a walk
or the head fragment, and BKPUT puts them back without their reserved bits (R4); BSTAT gives the status word, and stops the
engine, which keeps the beam in progress, or lets it go on. The words of an entry not in use are what BKPUT last left there,
and STOP waits for a walk that has ended early (both the model's choice: log 49). -/
def Obligations.BeamEngineInstructions : Prop :=
  ∀ (s : State) (c : Iss) (o : Ops) (team : Team) (d n : Fin 256),
    let core := coreOf c.key
    let e := (s.core core).beam
    let beam := fun (u : State) => (u.core core).beam
    let keeps := fun (u : State) => GoneOn u c ∧ u.mem = s.mem ∧ u.txs = s.txs ∧ OtherWaves s u c.key
    let gives := fun (u : State) (ws : List Word) => keeps u ∧ SameStatus c.w (u.wave c.key)
      ∧ (∀ j y, ws[j]? = some y → (u.wave c.key).sraw (d.val + j) = y)
      ∧ (∀ m, m < d.val ∨ d.val + ws.length ≤ m → m < 256 → (u.wave c.key).sraw m = c.w.sraw m)
    let quiet := fun (u : State) => keeps u ∧ SameRegs c.w (u.wave c.key) ∧ SameStatus c.w (u.wave c.key)
    let word := fun j => c.w.sread s.epoch (n.val + j)
    let a := (readSrc s c.w o .a b64 0).toNat
    let b := (readSrc s c.w o .b b64 0).toNat
    let split := (s.team c.w.team).split
    let give := fun (u : State) (x : Word) => GoneOn u c ∧ u.mem = s.mem ∧ SameStatus c.w (u.wave c.key)
      ∧ OtherRegs c.w (u.wave c.key) [o.d] c.mask ∧ ∀ l, l < 64 → c.mask.getLsbD l = true → DestIs u c o.d l x
    (Issues s (.bsplit o false) c → ∃ u, exec (.bsplit o false) s = .next u ∧ give u split ∧ u.teams = s.teams ∧ (readsDrain o = false → u.cores = s.cores))
    ∧ (Issues s (.bsplit o true) c → (s.teams.find? c.w.team).isSome = true →
        let x := readSrc s c.w o .a b64 0
        (badSplit x = false → ∃ u, exec (.bsplit o true) s = .next u ∧ give u split
          ∧ u.team c.w.team = { s.team c.w.team with split := x } ∧ (readsDrain o = false → u.cores = s.cores))
        ∧ (badSplit x = true → ∃ u, exec (.bsplit o true) s = .next u ∧ Trapped s u c .beamControl c.mask 0))
    ∧ (∀ i act, (i = .bstatRead o ∧ act = (fun (x : Beam) => x) ∨ i = .bstatResume o ∧ act = fun x => { x with stopped := false }) →
        Issues s i c →
        ∃ u, exec i s = .next u ∧ give u (beamStatus u core) ∧ beam u = act e ∧ u.teams = s.teams)
    ∧ (Issues s (.bstatStop o) c →
        ((e.walks.any fun p => p.2.ended && p.2.status != 0) = true →
          ∃ u, exec (.bstatStop o) s = .next u ∧ HeldAt u c (.held true 19) ∧ SameDevice s u ∧ u.cores = s.cores ∧ OtherWaves s u c.key)
        ∧ ((e.walks.any fun p => p.2.ended && p.2.status != 0) = false →
          ∃ u, exec (.bstatStop o) s = .next u ∧ GoneOn u c ∧ u.mem = s.mem
          ∧ beam u = { e with stopped := true, parked := false,
                              walks := e.walks.map fun (p : Nat × BWalk) => (p.1, { p.2 with parked := false }) }
          ∧ ∀ l, l < 64 → c.mask.getLsbD l = true → DestIs u c o.d l (beamStatus u core)))
    ∧ (kennelOf s core = some (c.w.team, team) → c.mask ≠ 0 →
        (Issues s (.bkget o .slot) c → o.d = .s d → a < kslots s core → (e.stopped = true ∨ slotState s core a ≠ slotQueued) →
          ∃ u, exec (.bkget o .slot) s = .next u ∧ gives u (slotWords s core a) ∧ (readsDrain o = false → u.cores = s.cores))
        ∧ (Issues s (.bkget o .slot) c → o.d = .s d → a < kslots s core → e.stopped = false → slotState s core a = slotQueued →
          ∃ u, exec (.bkget o .slot) s = .next u ∧ keeps u ∧ SameStatus c.w (u.wave c.key) ∧ (readsDrain o = false → u.cores = s.cores)
            ∧ ∀ m, m < d.val ∨ d.val + 24 ≤ m → m < 256 → (u.wave c.key).sraw m = c.w.sraw m)
        ∧ (Issues s (.bkget o .walk) c → o.d = .s d → a < 16 →
          ∃ u, exec (.bkget o .walk) s = .next u ∧ (readsDrain o = false → u.cores = s.cores)
            ∧ gives u (match e.walks.find? a with | some x => entryWords x | none => e.spare.getD a [0, 0, 0, 0]))
        ∧ (Issues s (.bkget o .frag) c → o.d = .s d →
          ∃ u, exec (.bkget o .frag) s = .next u ∧ gives u ((e.frags.head?).getD (List.replicate 8 0))
            ∧ beam u = { e with frags := e.frags.drop 1 })
        ∧ (Issues s (.bkput o .slot) c → o.a = .s n → b < kslots s core →
          (e.stopped = true ∨ bits (word 0) 63 62 ≠ slotQueued ∧ slotState s core b ≠ slotQueued) →
          ∃ u, exec (.bkput o .slot) s = .next u ∧ quiet u
            ∧ (∀ j, readsDrain o = false → j < 12 → sramRead u core (slotBase s core b + 8 * j) 8
                = (word j &&& if j = 0 then 0xFFFFFEFFFFFFFFFF else if j = 5 then 0xFFFFFFFF00000000 else -1).toNat)
            ∧ ∀ k, readsDrain o = false → k < 24 → bits (word 0) 61 58 ≤ 8 →
                sramRead u core (slotBase s core b + 0x60 + 4 * k) 4
                  = if k / 3 < bits (word 0) 61 58 then elem 32 (word (12 + k / 2)) (k % 2) else 0)
        ∧ (Issues s (.bkput o .walk) c → o.a = .s n → b < 16 → (e.stopped = true ∨ e.walks.find? b = none) →
          ∃ u, exec (.bkput o .walk) s = .next u ∧ GoneOn u c ∧ u.mem = s.mem ∧ (e.pops = [] → quiet u)
            ∧ (bit (word 0) 63 = true → ∃ x, (beam u).walks.find? b = some x ∧ x.w0 = word 0 &&& 0xFFFFFFFFC0000001
                ∧ x.scene = word 1 &&& 0x00FFFFFFFFFFFFFF
                ∧ x.seq.toNat = bits (word 2) 63 32 ∧ x.live = bits (word 2) 31 0 ∧ x.pc = word 3
                ∧ (x.ended = true ↔ bit (word 0) 0 = true ∧ x.live = 0))
            ∧ (bit (word 0) 63 = false → (beam u).walks.find? b = none)
            ∧ (∀ j, j ≠ b → (beam u).walks.find? j = e.walks.find? j))
        ∧ (Issues s (.bkput o .frag) c → o.a = .s n → e.frags.length < 256 →
          ∃ u, exec (.bkput o .frag) s = .next u ∧ GoneOn u c ∧ u.mem = s.mem
            ∧ (e.pops = [] → quiet u ∧ (beam u).frags = e.frags ++ [(List.range 8).map fun j =>
                if j = 7 then 0 else word j &&& if j = 1 then 0xFFFFFFFFFFFFFF3F else -1]))
        ∧ (∀ tb keep i, Issues s (.bwalk o tb false keep) c → selOf s c o ≠ 0 →
            let slots := (lanesOf (selOf s c o)).map fun l => bits (readSrc s c.w o .a b64 l) 10 0
            (∀ m ∈ slots, m < kslots s core ∧ slotState s core m = slotHeld) →
            ((List.range 16).find? fun j => (e.walks.find? j).isNone) = some i → c.w.engc < 255 → c.w.waveId < 512 →
            ∃ (u : State) (x : BWalk), exec (.bwalk o tb false keep) s = .next u ∧ keeps u ∧ SameRegs c.w (u.wave c.key)
              ∧ (beam u).walks.find? i = some x ∧ x.slots = slots.eraseDups ∧ x.seq = c.w.seq + 1 ∧ x.wave = c.key
              ∧ bit x.w0 62 = keep ∧ bit x.w0 61 = false ∧ bit x.w0 0 = false ∧ x.desc = none
              ∧ x.scene = BitVec.ofNat 64 (bits (readSrc s c.w o .b b64 0) 55 0)
              ∧ (∀ j, j ≠ i → (beam u).walks.find? j = e.walks.find? j)
              ∧ (u.wave c.key).seq = c.w.seq + 1 ∧ (u.wave c.key).engc = c.w.engc + 1
              ∧ (u.wave c.key).flags = (c.w.raise c.seta c.setb).flags))

/-- The engine's events (R283, R289, R294, R296): BEAM_WALK_START of the next walk without a screen tile, its descriptor
read and valid, turns its HELD slots QUEUED; BEAM_STEP, at its turn of the cycle, advances a beam whose cursor is at END to
its fragment, without a hit with no read at all; FRAGMENT_APPEND puts a waiting fragment at the end of the queue, and the slot
of a beam becomes ENDED or FREE; BEAM_WALK_COMPLETE of an ended walk frees its entry, lowers ENGC and its flags. No event
changes memory. -/
def Obligations.BeamEngineRuns : Prop :=
  ∀ (s : State) (core : Nat), s.subj.a = core →
    let e := (s.core core).beam
    let beam := fun (u : State) => (u.core core).beam
    (∀ i b bs r sc, nextStart s core = some (i, b) → e.stopped = false → e.parked = false → b.held = false → bit b.w0 61 = false →
      bit b.w0 0 = false → unitRead s (dieOfCore core) (beamCtx s core) b.scene.toNat 32 = (r, .ok bs) → r.cores = s.cores → r.teams = s.teams →
      sceneOf b.scene.toNat (wordsOf bs) = some sc →
      ∃ u x, exec .beamWalkStart s = .next u ∧ u.mem = r.mem ∧ u.waves = r.waves ∧ (beam u).walks.find? i = some x
        ∧ x.desc = some (wordsOf bs) ∧ bit x.w0 0 = true ∧ x.slots = b.slots ∧ (x.ended = true ↔ x.live = 0)
        ∧ ∀ n ∈ b.slots, slotState s core n = slotHeld → (slotAt s core n).walk = i → slotState u core n = slotQueued)
    ∧ (∀ n b ws sc, e.stopped = false → e.parked = false → e.pending = none → s.inTurn core (s.core core).kennelAt (placeOf 1 (256 * core)) = true →
      (if e.cur.any (fun m => (readySlots s core).contains m) then e.cur else (readySlots s core).head?) = some n →
      e.walks.find? (slotAt s core n).walk = some b → b.desc = some ws → sceneOf b.scene.toNat ws = some sc →
      (slotAt s core n).cursor = endCursor → (slotAt s core n).hitv = false →
      ∃ u, exec .beamStep s = .next u ∧ u.mem = s.mem ∧ u.waves = s.waves ∧ u.dies = s.dies
        ∧ beam u = { e with cur := some n, pending := some (n, fragmentOf (slotAt s core n) n none) })
    ∧ (∀ n f, e.pending = some (n, f) → e.stopped = false → e.frags.length < 256 → e.pops = [] →
      (∀ b, e.walks.find? (slotAt s core n).walk = some b → bit b.w0 61 = false) →
      ∃ u, exec .fragmentAppend s = .next u ∧ u.mem = s.mem ∧ u.waves = s.waves ∧ u.dies = s.dies
        ∧ (beam u).frags = e.frags ++ [f] ∧ (beam u).pending = none
        ∧ ((slotAt s core n).ovf = false → (beam u).cur = none
            ∧ slotState u core n = if (e.walks.find? (slotAt s core n).walk).any fun b => bit b.w0 62 then slotEnded else slotFree))
    ∧ (∀ i b t key w, s.subj.b = i → e.walks.find? i = some b → b.ended = true → bit b.w0 61 = false → e.pops = [] →
      kennelOf s core = some t → t.2.waves.find? (bits b.w0 46 38) = some key → s.wave? key = some w →
      ∃ u v, exec .beamWalkComplete s = .next u ∧ u.mem = s.mem ∧ u.dies = s.dies ∧ OtherWaves s u key
        ∧ beam u = { e with walks := e.walks.del i } ∧ u.wave? key = some v ∧ v.engc = w.engc - 1
        ∧ v.flags = (w.lower (flagOf (bits b.w0 37 34)) (flagOf (bits b.w0 33 30))).flags ∧ SameRegs w v ∧ v.lanes = w.lanes)

/-! ### Control, synchronisation and system instructions (17_isa_control.md) -/

/-- BR, BRI, CALL, CALLI and RET with every taken target canonical and aligned (R325 to R327): each selected lane that
takes the transfer goes to its target, every other lane of the group to the next word; a link register receives the
address of the next word in the lanes that took it; where the lanes of the group come to stand at more than one address,
each of them gains one in divergence depth, up to 255; nothing else changes. A target with a bit of 63:56 set raises
VA_RANGE, else one that is no multiple of 8 MISALIGNED; no lane moves. -/
def Obligations.TransfersCompleteOrTrap : Prop :=
  ∀ (s : State) (c : Iss) (o : Ops) (i : Instr) (taken : Mask) (target : Nat → Word) (link : Opd),
    let sel := selOf s c o
    let far := fun l => addr56 s c o l
    ((∃ cond hint off, i = .br o cond hint off ∧ taken = takes s c o cond .a ∧ (target = fun _ => offPc c off) ∧ link = .zero)
      ∨ (∃ cond hint, i = .bri o cond hint ∧ taken = takes s c o cond .b ∧ target = far ∧ link = .zero)
      ∨ (∃ hint off, i = .call o hint off ∧ taken = sel ∧ (target = fun _ => offPc c off) ∧ link = o.d)
      ∨ (∃ hint, i = .calli o hint ∧ taken = sel ∧ target = far ∧ link = o.d)
      ∨ (∃ hint, i = .ret o hint ∧ taken = sel ∧ target = far ∧ link = .zero)) →
    Issues s i c → c.k = 1 → taken &&& ~~~c.mask = 0 →
    let high := (lanesOf taken).filter fun l => bits (target l) 63 56 != 0
    let odd := (lanesOf taken).filter fun l => (target l).toNat % 8 != 0
    let places := ((lanesOf taken).map target ++ if c.mask &&& ~~~taken = 0 then [] else [c.pc + 8]).eraseDups
    (high = [] → odd = [] → ∃ u, exec i s = .next u ∧ SameDevice s u ∧ OtherWaves s u c.key ∧ u.cores = s.cores
        ∧ OtherRegs c.w (u.wave c.key) [link] taken ∧ SameStatus c.w (u.wave c.key)
        ∧ (∀ l ∈ lanesOf taken, DestIs u c link l (c.pc + 8))
        ∧ ∀ l, l < c.w.lanes.length →
          let x := c.w.lane l
          let y := (u.wave c.key).lane l
          y.st = x.st
          ∧ (c.mask.getLsbD l = false → y.pc = x.pc ∧ y.wait = x.wait ∧ y.dd = x.dd)
          ∧ (c.mask.getLsbD l = true → y.wait = .none ∧ y.pc = (if taken.getLsbD l then target l else x.pc + 8)
              ∧ y.dd = if taken ≠ 0 ∧ 2 ≤ places.length ∧ x.dd ≠ 255 then x.dd + 1 else x.dd))
    ∧ (∀ l, high.head? = some l → ∃ u, exec i s = .next u ∧ Trapped s u c .vaRange taken (target l))
    ∧ (high = [] → ∀ l, odd.head? = some l → ∃ u, exec i s = .next u ∧ Trapped s u c .misaligned taken (target l))

/-- REJOIN, EXIT, NOP, YIELD and the clause header (R161, R328, R330, R350): a REJOIN whose mask names a lane that is
neither at it nor exited leaves its lanes waiting there; EXIT of some lanes of a wave marks them exited and lets the
others of the group go on; NOP goes on; YIELD goes on, and waits for the rest of the cycle; a header whose flags read clear
lets its lanes into the clause it describes, and one with a flag raised holds them, as does one whose clause could take a flag
above 255 (R153) and a safe point at which the wave may be saved (R387). -/
def Obligations.WaitingAndLeaving : Prop :=
  ∀ (s : State) (c : Iss) (o : Ops),
    let sel := selOf s c o
    let m := readSrc s c.w o .a b64 0 &&& lowMask c.w.width
    (Issues s (.nop o) c → ∃ u, exec (.nop o) s = .next u ∧ GoneOn u c ∧ SameDevice s u ∧ u.cores = s.cores
        ∧ OtherWaves s u c.key ∧ SameRegs c.w (u.wave c.key) ∧ SameStatus c.w (u.wave c.key))
    ∧ (Issues s (.yield o) c → ∃ u, exec (.yield o) s = .next u ∧ SameDevice s u ∧ OtherWaves s u c.key
        ∧ SameRegs c.w (u.wave c.key)
        ∧ ∀ l, l < c.w.lanes.length → c.mask.getLsbD l = true →
          ((u.wave c.key).lane l).pc = (c.w.lane l).pc + 8 ∧ ((u.wave c.key).lane l).wait = .yield)
    ∧ (Issues s (.rejoin o) c → (∃ l, m.getLsbD l = true ∧ c.mask.getLsbD l = false ∧ c.w.isActive l = true
          ∧ rejoinMask (c.w.lane l) = none) →
        (∀ l, c.mask.getLsbD l = true → c.w.isActive l = true ∧ (c.w.lane l).pc = c.pc) →
        (∀ l, (rejoinMask (c.w.lane l)).isNone = true) →
        ∃ u, exec (.rejoin o) s = .next u ∧ WaitsAt u c (.rejoin m) ∧ SameDevice s u ∧ OtherWaves s u c.key
          ∧ SameRegs c.w (u.wave c.key) ∧ SameStatus c.w (u.wave c.key))
    ∧ (Issues s (.exit o) c → sel = 0 → ∃ u, exec (.exit o) s = .next u ∧ GoneOn u c ∧ SameDevice s u)
    ∧ (Issues s (.exit o) c → sel ≠ 0 → c.w.live &&& ~~~sel ≠ 0 → sel &&& ~~~c.mask = 0 →
        ∃ u, exec (.exit o) s = .next u ∧ SameRegs c.w (u.wave c.key)
          ∧ (inSave c.w = true → (∀ l, (rejoinMask (c.w.lane l)).isNone = true) → SameDevice s u ∧ OtherWaves s u c.key)
          ∧ ∀ l, l < c.w.lanes.length → c.mask.getLsbD l = true →
            (sel.getLsbD l = true → ((u.wave c.key).lane l).st = .exited)
            ∧ (sel.getLsbD l = false → ((u.wave c.key).lane l).pc = (c.w.lane l).pc + 8 ∧ ((u.wave c.key).lane l).st = (c.w.lane l).st))
    ∧ (∀ h : Header, s.issuer (.clauseHeaderPass h) = some c → s.replay.struck.contains c.key = false → c.w.quantum.ended = false →
        let busy := headerWaits c.w h || flagFull s c.key c.w c.pc h || saveHolds s c h
        ∃ u, exec (.clauseHeaderPass h) s = .next u ∧ u.mem = s.mem ∧ OtherWaves s u c.key ∧ SameRegs c.w (u.wave c.key)
          ∧ (busy = true → HeldAt u c (.held true (if headerWaits c.w h then 1 else if flagFull s c.key c.w c.pc h then 7 else 17)))
          ∧ (busy = false →
              GoneOn u c ∧ ∀ l, l < c.w.lanes.length → c.mask.getLsbD l = true →
                ((u.wave c.key).lane l).cl = .inside (c.pc + BitVec.ofNat 64 (8 * h.len.toNat + 8)) h.seta h.setb))

/-- Barriers of a team outside replay, and their saved parts (R331, R332, R334): BAR leaves its lanes waiting and notes
their arrival; the wave counts once all of its lanes have arrived; the last wave to arrive releases the barrier, whose
lanes go on at the next word and whose phase turns; BARA arrives without waiting; BARL needs a cooperative launch and waits
at index 4; BARGET gives the words of a part, and BARSET sets one or raises BARRIER_STATE. -/
def Obligations.BarrierInstructions : Prop :=
  ∀ (s : State) (c : Iss) (o : Ops),
    let tn := c.w.team
    let t := s.team tn
    let wi := c.w.waveId
    let la := fun idx => (barOf t idx).la.getD wi 0 ||| c.mask
    let whole := fun idx => c.w.live &&& ~~~(la idx) = 0
    let quiet := fun (u : State) => u.mem = s.mem ∧ u.dies = s.dies ∧ u.cores = s.cores ∧ SameRegs c.w (u.wave c.key)
      ∧ SameStatus c.w (u.wave c.key)
    let bar := fun (u : State) idx => barOf (u.team tn) idx
    (s.teams.find? tn).isSome = true → t.bars.length = 5 → (s.launch t.launch).rec_ = 0 → (s.launch c.w.launch).rec_ = 0 →
    t.waves.find? wi = some c.key → c.w.live ≠ 0 →
    (∀ i idx, idx < 5 → (∃ n : BitVec 2, (i = .bar o n ∨ i = .bara o n) ∧ idx = n.toNat)
        ∨ (i = .barl o ∧ idx = 4 ∧ (s.launch c.w.launch).co = true ∧ c.w.kind = .team) → Issues s i c →
      let b := barOf t idx
      let passes := ∃ n : BitVec 2, i = .bara o n
      (¬ whole idx → b.count < heldWaves s t →
        ∃ u, exec i s = .next u ∧ quiet u ∧ bar u idx = { b with la := b.la.set wi (la idx) }
          ∧ (passes → GoneOn u c) ∧ (¬ passes → WaitsAt u c (.bar idx)))
      ∧ (whole idx → b.mask.getLsbD wi = false → b.count + 1 < heldWaves s t →
        ∃ u, exec i s = .next u ∧ quiet u
          ∧ bar u idx = { b with la := b.la.set wi (la idx), mask := b.mask ||| BitVec.ofNat 384 (2 ^ wi), count := b.count + 1 }
          ∧ (passes → GoneOn u c) ∧ (¬ passes → WaitsAt u c (.bar idx)))
      ∧ (whole idx → b.mask.getLsbD wi = false → b.count + 1 = heldWaves s t → idx < 4 → c.k = 1 →
        ∃ u, exec i s = .next u ∧ quiet u ∧ bar u idx = { phase := !b.phase }
          ∧ ∀ l, l < c.w.lanes.length → c.mask.getLsbD l = true → (c.w.lane l).wait ≠ .bar idx →
            ((u.wave c.key).lane l).wait = .none ∧ ((u.wave c.key).lane l).pc = (c.w.lane l).pc + 8))
    ∧ (Issues s (.barl o) c → ((s.launch c.w.launch).co = false ∨ c.w.kind ≠ .team) →
        ∃ u, exec (.barl o) s = .next u ∧ Trapped s u c .barrierScope c.mask 0)
    ∧ (∀ idx part (d : Fin 256), Issues s (.barget o idx part) c → o.d = .s d →
        ∃ u, exec (.barget o idx part) s = .next u ∧ GoneOn u c ∧ SameDevice s u ∧ u.cores = s.cores
          ∧ ∀ j x, (barWords (barOf t idx.val) idx.val wi part)[j]? = some x → (u.wave c.key).sraw (d.val + j) = x)
    ∧ (∀ (idx : Fin 5) (n : Fin 256), o.a = .s n →
      let b := barOf t idx.val
      let word := fun j => c.w.sread s.epoch (n.val + j)
      let mask := BitVec.ofNat 384 ((List.range 6).map fun j => (word (1 + j)).toNat * 2 ^ (64 * j)).sum
      let bad := bits (word 0) 8 0 ≠ popc mask ∨ mask.toNat ≥ 2 ^ t.nwaves ∨ bits (word 0) 61 9 ≠ 0 ∨ word 7 ≠ 0
        ∨ (bit (word 0) 62 = true ∧ idx.val ≠ 4)
      (Issues s (.barset o idx false) c → bad → ∃ u, exec (.barset o idx false) s = .next u ∧ Trapped s u c .barrierState c.mask 0)
      ∧ (Issues s (.barset o idx false) c → ¬ bad → b.la = [] → bits (word 0) 8 0 ≠ heldWaves s t →
        ∃ u, exec (.barset o idx false) s = .next u ∧ quiet u ∧ GoneOn u c
          ∧ bar u idx.val = { b with phase := bit (word 0) 63, sent := bit (word 0) 62, count := bits (word 0) 8 0, mask })
      ∧ (Issues s (.barset o idx true) c → c.w.live &&& ~~~(word 0 &&& lowMask c.w.width) ≠ 0 → b.count < heldWaves s t →
        ∃ u, exec (.barset o idx true) s = .next u ∧ quiet u ∧ GoneOn u c
          ∧ bar u idx.val = { b with la := b.la.set wi (word 0 &&& lowMask c.w.width) }))

/-- Spawning, queues and task records outside replay, their checks passed (R335 to R341): SPAWN puts the thread of a lane
into its core's bin, which forms a wave when it holds the kernel's width, and is held while a bin it needs cannot take its
lanes (which is where a wave that the bin formed has still to be placed, and by log 53 where it holds threads of another
launch); SPAWNL, QPUT, QTAKE and QSTEAL send one request
to the home slice of the descriptor and wait for the reply; TASKNEW sends the words of a record as one store transaction
and goes on; TASKDEC waits for the old counts; SUSPEND leaves its lanes waiting while the others go on. -/
def Obligations.SpawnQueueAndTaskInstructions : Prop :=
  ∀ (s : State) (c : Iss) (o : Ops),
    let sel := selOf s c o
    let src := fun f l => readSrc s c.w o f b64 l
    let core := coreOf c.key
    let keeps := fun (u : State) => SameStores s u ∧ OtherWaves s u c.key ∧ SameRegs c.w (u.wave c.key)
    recMode s c.w = 0 → sel ≠ 0 →
    (Issues s (.spawn o) c →
      ((∀ l ∈ lanesOf sel, ∃ k, spawnKernel s c.w.launch (bits (src .a l) 55 0) = some k ∧ binBusy s core c.w.launch k = false) →
        ∃ u, exec (.spawn o) s = .next u ∧ GoneOn u c ∧ keeps u ∧ u.txs = s.txs)
      ∧ ((∀ l ∈ lanesOf sel, (spawnKernel s c.w.launch (bits (src .a l) 55 0)).isSome = true) →
        (∃ l ∈ lanesOf sel, ∃ k, spawnKernel s c.w.launch (bits (src .a l) 55 0) = some k ∧ binBusy s core c.w.launch k = true) →
        ∃ u, exec (.spawn o) s = .next u ∧ HeldAt u c (.held false 19) ∧ keeps u ∧ u.txs = s.txs ∧ u.cores = s.cores)
      ∧ (∀ l k kn, lanesOf sel = [l] → spawnKernel s c.w.launch (bits (src .a l) 55 0) = some k →
        (s.launch c.w.launch).spawn[k]? = some kn → binBusy s core c.w.launch k = false →
        let mine := fun (u : State) => (u.core core).bins.find? fun b => b.launch == c.w.launch && b.kernel == k
        let old := match mine s with | some b => b.threads | none => []
        let new := old ++ [{ arg := src .b l, team := c.w.teamNo }]
        ∃ u, exec (.spawn o) s = .next u ∧ GoneOn u c ∧ keeps u ∧ u.txs = s.txs
          ∧ (new.length < kn.width → ∃ b, mine u = some b ∧ b.threads = new)
          ∧ (kn.width ≤ new.length → mine u = none ∧ (u.core core).formed = (s.core core).formed ++
              [{ launch := c.w.launch, kernel := k, kind := .spawned, pc := BitVec.ofNat 64 (kn.va + kn.entry),
                 team := ((new.head?).map Thread.team).getD 0, threads := new.map fun x => [x.arg], at_ := s.epoch }]))
      ∧ (∀ bad, bad = ((lanesOf sel).filter fun l => (spawnKernel s c.w.launch (bits (src .a l) 55 0)).isNone) → bad ≠ [] →
        ∃ u, exec (.spawn o) s = .next u ∧ Trapped s u c .spawnTarget sel 0))
    ∧ (∀ i put steal status pa va,
        (i = .spawnl o ∧ put = true ∧ steal = false ∧ status = o.d
            ∧ (∀ l ∈ lanesOf sel, (spawnKernel s c.w.launch (bits (src .b l) 55 0)).isSome = true)
          ∨ i = .qput o ∧ put = true ∧ steal = false ∧ status = o.d
          ∨ (∃ st, i = .qtake o st ∧ put = false ∧ steal = false ∧ status = statusOpd st)
          ∨ ∃ st, i = .qsteal o st ∧ put = false ∧ steal = true ∧ status = statusOpd st) → Issues s i c →
        va = src .a 0 → bits va 63 56 = 0 → va.toNat % 32 = 0 →
        gate s c.key c.w .both [(lowest sel, va)] = .go [(lowest sel, va, pa)] [] → isDev pa = true →
        ∃ (u : State) (r : QReq), exec i s = .next u ∧ WaitsAt u c (.reply s.fresh) ∧ u.mem = s.mem ∧ u.txs = s.txs ∧ u.dies = s.dies
          ∧ OtherWaves s u c.key ∧ SameRegs c.w (u.wave c.key)
          ∧ u.msgs.find? s.fresh = some .queue ∧ u.queues.find? s.fresh = some r ∧ r.put = put ∧ r.steal = steal ∧ r.desc = pa
          ∧ r.sel = sel ∧ r.mask = c.mask ∧ r.status = status ∧ r.dst = o.d
          ∧ r.items = (if put then (lanesOf sel).map fun l => (src .b l, src .c l) else []))
    ∧ (∀ i f need ok rest,
        ((∃ n, i = .tasknew o n ∧ f = .a ∧ need = Need.write) ∨ (i = .taskdec o ∧ f = .a ∧ need = .both)
          ∨ ∃ n, i = .suspend o n ∧ f = LitSel.a ∧ need = .both) → Issues s i c →
        (∀ l ∈ lanesOf sel, bits (src f l) 63 56 = 0 ∧ (src f l).toNat % 32 = 0) → (∀ z, c.w.stc z < 63) →
        let offs := match i with
          | .tasknew _ n => 8 :: 0x10 :: 0x18 :: (List.range n.val).map fun j => 0x20 + 8 * j
          | .suspend _ n => 0x10 :: 0x18 :: (List.range n.val).map fun j => 0x20 + 8 * j
          | _ => []
        gate s c.key c.w need ((lanesOf sel).map fun l => (l, src f l + BitVec.ofNat 64 0)) = .go ok [] →
        gate s c.key c.w .write ((lanesOf sel).flatMap fun l => offs.map fun k => (l, src f l + BitVec.ofNat 64 k)) = .go rest [] →
        ok ≠ [] → (∀ x ∈ ok ++ rest, isDev x.2.2 = true) →
        ∃ (u : State) (x : Tx), exec i s = .next u ∧ u.mem = s.mem ∧ u.dies = s.dies ∧ OtherWaves s u c.key
          ∧ SameRegs c.w (u.wave c.key) ∧ u.txs.find? s.fresh = some x ∧ x.kind = .store ∧ x.scope = .k ∧ x.wave = c.key
          ∧ (∀ z, (u.wave c.key).stc z = c.w.stc z + if [Scope.t, .d, .k].contains z then 1 else 0)
          ∧ (∀ n, i = .tasknew o n → x.accs.map (fun a => (a.lane, a.va, a.pa)) = ok ++ rest
              ∧ ∀ l, l < c.w.lanes.length → c.mask.getLsbD l = true →
                ((u.wave c.key).lane l).pc = (c.w.lane l).pc + 8 ∧ ((u.wave c.key).lane l).wait = .none)
          ∧ (i = .taskdec o → WaitsAt u c (.reply s.fresh) ∧ x.accs = [] ∧ x.dst = o.d)
          ∧ (∀ n, i = .suspend o n → x.suspend = true ∧ ∀ l, l < c.w.lanes.length → c.mask.getLsbD l = true →
              ((u.wave c.key).lane l).wait = (if sel.getLsbD l then .suspend s.fresh else .none)
                ∧ ((u.wave c.key).lane l).pc = if sel.getLsbD l then (c.w.lane l).pc else (c.w.lane l).pc + 8))

/-- Special registers, the clause and divergence registers, traps and hints (R343 to R350): SRGET gives and SRSET sets the
register of its number, with the reserved bits of a written value ignored; PCGET, CLKGET and SEQGET give their words and
SEQSET sets the sequence number; DIVGET gives a lane's stop point and depth and DIVSET resumes lanes at one; FLGGET and
FLGSET move the counts of the flags and of ENGC; LSDET without a registration gives zeros, LSATT of words without one gives
2; TRAP and, when debug traps are on, BRKPT trap; PWRHINT and RATIO note their code. -/
def Obligations.SystemInstructions : Prop :=
  ∀ (s : State) (c : Iss) (o : Ops),
    let sel := selOf s c o
    let a := readSrc s c.w o .a b64 0
    let w' := fun (u : State) => u.wave c.key
    let quiet := fun (u : State) => GoneOn u c ∧ SameDevice s u ∧ OtherWaves s u c.key ∧ u.cores = s.cores
    let gives := fun (u : State) (x : Word) => quiet u ∧ OtherRegs c.w (w' u) [o.d] c.mask ∧ SameStatus c.w (w' u)
      ∧ ∀ l, l < 64 → c.mask.getLsbD l = true → DestIs u c o.d l x
    let sets := fun (u : State) => quiet u ∧ SameRegs c.w (w' u)
    let low := fun n => BitVec.ofNat 64 (a.toNat % 2 ^ n)
    recMode s c.w = 0 →
    (∀ num : BitVec 10, Issues s (.srget o num) c →
      ∀ x, (num = 0 ∧ x = c.w.fpctl ∨ num = 1 ∧ x = c.w.fpflags ∨ num = 2 ∧ x = c.w.srseed ∨ num = 3 ∧ x = c.w.srcnt
          ∨ (∃ n, n < 12 ∧ num.toNat = 0x10 + n ∧ x = ((c.w.fst[n]?).getD 0).zeroExtend 64)
          ∨ num = 0x20 ∧ x = (s.core (clockOf c.key)).thermal ∨ num = 0x21 ∧ x = placeWord c.key
          ∨ num = 0x22 ∧ x = BitVec.ofNat 64 c.w.ctx ∨ num = 0x28 ∧ isCtl c.key = true ∧ x = c.w.tkernel) →
        ∃ u, exec (.srget o num) s = .next u ∧ gives u x)
    ∧ (∀ num : BitVec 10, Issues s (.srset o num) c →
      (num = 0 → ∃ u, exec (.srset o num) s = .next u ∧ sets u ∧ (w' u).fpctl = low 2)
      ∧ (num = 1 → ∃ u, exec (.srset o num) s = .next u ∧ sets u ∧ (w' u).fpflags = low 5 ∧ (w' u).fpctl = c.w.fpctl)
      ∧ (num = 2 → ∃ u, exec (.srset o num) s = .next u ∧ sets u ∧ (w' u).srseed = a ∧ (w' u).fpctl = c.w.fpctl)
      ∧ (num = 3 → ∃ u, exec (.srset o num) s = .next u ∧ sets u ∧ (w' u).srcnt = low 48 ∧ (w' u).fpctl = c.w.fpctl)
      ∧ (∀ n, n < 12 → num.toNat = 0x10 + n → ∃ u, exec (.srset o num) s = .next u ∧ sets u ∧ (w' u).fpctl = c.w.fpctl
          ∧ (w' u).fst = if c.w.flag n then c.w.fst else c.w.fst.set n (BitVec.ofNat 32 a.toNat))
      ∧ (num = 0x28 → isCtl c.key = true → ∃ u, exec (.srset o num) s = .next u ∧ sets u ∧ (w' u).tkernel = low 56)
      ∧ (0x1C ≤ num.toNat ∧ num ≠ 0x28 ∨ 4 ≤ num.toNat ∧ num.toNat < 0x10 →
          ∃ u, exec (.srset o num) s = .next u ∧ Trapped s u c .illegalInstruction c.mask 0))
    ∧ (∀ off, Issues s (.pcget o off) c → ∃ u, exec (.pcget o off) s = .next u ∧ gives u (offPc c off))
    ∧ (Issues s (.clkget o) c → ∃ u, exec (.clkget o) s = .next u ∧ gives u (BitVec.ofNat 64 (s.now (clockOf c.key))))
    ∧ (Issues s (.seqget o) c → ∃ u, exec (.seqget o) s = .next u ∧ gives u (c.w.seq.zeroExtend 64))
    ∧ (Issues s (.seqset o) c → ∃ u, exec (.seqset o) s = .next u ∧ sets u ∧ (w' u).seq = BitVec.ofNat 32 a.toNat)
    ∧ (Issues s (.divget o) c → ∃ u, exec (.divget o) s = .next u ∧ quiet u ∧ OtherRegs c.w (w' u) [o.d] sel
        ∧ SameStatus c.w (w' u)
        ∧ ∀ l, lanesOf sel = [l] ∨ (∃ n, o.d = .v n) ∧ l ∈ lanesOf sel →
          let at_ := ((c.w.lane l).stop).getD (c.pc, (c.w.lane l).dd)
          DestIs u c o.d l (BitVec.ofNat 64 (at_.2.toNat * 2 ^ 56 + bits at_.1 55 0)))
    ∧ (Issues s (.divset o) c → sel &&& ~~~c.mask = 0 → (∀ l ∈ lanesOf sel, (readSrc s c.w o .a b64 l).toNat % 8 = 0) →
        ∃ u, exec (.divset o) s = .next u ∧ SameDevice s u ∧ OtherWaves s u c.key ∧ SameRegs c.w (w' u)
          ∧ ∀ l, l < c.w.lanes.length → c.mask.getLsbD l = true →
            (sel.getLsbD l = true → let x := readSrc s c.w o .a b64 l
              ((w' u).lane l).pc = BitVec.ofNat 64 (bits x 55 0) ∧ ((w' u).lane l).dd.toNat = bits x 63 56
                ∧ ((w' u).lane l).wait = .none)
            ∧ (sel.getLsbD l = false → ((w' u).lane l).pc = (c.w.lane l).pc + 8 ∧ ((w' u).lane l).dd = (c.w.lane l).dd))
    ∧ (∀ d : Fin 256, Issues s (.flgget o) c → o.d = .s d → c.w.flags.length = 12 → (∀ n ∈ c.w.flags, n < 256) → c.w.engc < 256 →
        ∃ u, exec (.flgget o) s = .next u ∧ quiet u ∧ SameStatus c.w (w' u)
          ∧ (∀ j, j < 8 → bits ((w' u).sraw d.val) (8 * j + 7) (8 * j) = (c.w.flags[j]?).getD 0)
          ∧ (∀ j, j < 4 → bits ((w' u).sraw (d.val + 1)) (8 * j + 7) (8 * j) = (c.w.flags[8 + j]?).getD 0)
          ∧ bits ((w' u).sraw (d.val + 1)) 63 32 = c.w.engc)
    ∧ (∀ n : Fin 256, Issues s (.flgset o) c → o.a = .s n →
        let x := c.w.sread s.epoch n.val
        let y := c.w.sread s.epoch (n.val + 1)
        ∃ u, exec (.flgset o) s = .next u ∧ sets u ∧ (w' u).engc = bits y 39 32
          ∧ ∀ j, j < 12 → (w' u).flags[j]? = some (if j < 8 then bits x (8 * j + 7) (8 * j) else bits y (8 * j - 57) (8 * j - 64)))
    ∧ (∀ (d : Fin 256) pa, Issues s (.lsdet o) c → o.d = .s d → bits a 63 56 = 0 → a.toNat % 32 = 0 →
        gate s c.key c.w .both [(lowest c.mask, a)] = .go [(lowest c.mask, a, pa)] [] → isDev pa = true →
        (c.w.leash = none → c.w.adopted = none → ∃ u, exec (.lsdet o) s = .next u ∧ quiet u
            ∧ ∀ j, j < 4 → (w' u).sraw (d.val + j) = 0)
        ∧ (∀ r, c.w.leash = some r → ∃ u, exec (.lsdet o) s = .next u ∧ WaitsAt u c (.reply s.fresh)
            ∧ u.msgs.find? s.fresh = some (.detach c.key c.w.serial r.token r.pa pa d.val)))
    ∧ (∀ n : Fin 256, Issues s (.lsatt o) c → o.a = .s n →
        let x := fun j => c.w.sread s.epoch (n.val + j)
        (bits (x 0) 63 62 ≠ 1 → ∃ u, exec (.lsatt o) s = .next u ∧ quiet u ∧ DestIs u c o.d 0 2)
        ∧ (∀ cmp, bits (x 0) 63 62 = 1 → LCmp.ofCode (bits (x 0) 61 58) = some cmp →
          ∃ u dst e, exec (.lsatt o) s = .next u ∧ WaitsAt u c (.reply s.fresh)
            ∧ u.msgs.find? s.fresh = some (.attach c.key c.w.serial dst (bits (x 3) 20 0) e) ∧ e.cmp = cmp ∧ e.wide = bit (x 0) 57
            ∧ e.pa = bits (x 0) 51 0 ∧ e.operand = x 1 ∧ e.token = bits (x 2) 63 32))
    ∧ (∀ code, Issues s (.trap o code) c →
        (sel = 0 → ∃ u, exec (.trap o code) s = .next u ∧ quiet u)
        ∧ (sel ≠ 0 → ∃ u, exec (.trap o code) s = .next u ∧ Trapped s u c .user sel (readSrc s c.w o .a b64 (lowest sel))
            ∧ ((u.die (dieOf c.key)).traps.getLast?.map TrapRec.ucode) = some code.toNat))
    ∧ (∀ code, Issues s (.brkpt o code) c →
        (bit (s.reg (dieOf c.key) 0x5000) 62 = true → ∃ u, exec (.brkpt o code) s = .next u ∧ Trapped s u c .breakpoint c.mask 0)
        ∧ (bit (s.reg (dieOf c.key) 0x5000) 62 = false → ∃ u, exec (.brkpt o code) s = .next u ∧ GoneOn u c ∧ u.mem = s.mem
            ∧ SameRegs c.w (w' u)))
    ∧ (∀ code, Issues s (.pwrhint o code) c → ∃ u, exec (.pwrhint o code) s = .next u ∧ GoneOn u c ∧ u.mem = s.mem
        ∧ SameRegs c.w (w' u) ∧ (w' u).hint = code
        ∧ ∀ d off, off ≠ 0x4200 + 32 * clusterOf (coreOf c.key) + 8 * code.toNat → u.reg d off = s.reg d off)
    ∧ (∀ code, Issues s (.ratio o code) c → ∃ u, exec (.ratio o code) s = .next u ∧ sets u ∧ (w' u).ratio = code
        ∧ SameStatus c.w (w' u))

/-! ### Registrations, queues and task counts at their home slices (04_home_slices.md, 17_isa_control.md) -/

/-- The Leash. LEASH_REGISTER of a word of device memory, in time at its slice (R68), is answered at once where its
condition holds, else entered in the table of its slice, else (with no spill area, or behind an older one that is held) held;
HELD_REGISTRATION_ADMIT enters a held one once there is room; LEASH_TIMEOUT sends one cancel, for an adopted registration
too, and LEASH_CANCEL frees a waiting entry and replies TIMEOUT; WAITU_REPLY gives the value to the leashed group, which goes
on, or keeps it for the WAITU that adopts the registration, and acknowledges a wake; WAKE_ACK and DECREMENT_ACK free entries; LEASH_DETACH and
LEASH_ATTACH hand a registration to and from a counter, with the results of R348 and R349; LS_PURGE frees every entry
of a context on every die (R76 to R80, R204, R348, R349). -/
def Obligations.LeashEvents : Prop :=
  ∀ s : State,
    (∀ wave serial e d, msgAt s s.subj.a = some (.register wave serial e) → place e.pa = .dev d →
      anyBad s e.pa (if e.wide then 8 else 4) = false → (∀ w, s.waveAt wave serial = some w → recMode s w = 0) →
      (s.arrive (slicePort wave e.pa) e.pa).late = false →
      let v := BitVec.ofNat 64 (Memory.read s.mem e.pa (if e.wide then 8 else 4))
      let mine := (s.die d).leash.filter fun p => p.1 == homeSlice e.pa && !p.2.spilled
      ∃ u, exec .leashRegister s = .next u ∧ u.mem = s.mem ∧ u.waves = s.waves
        ∧ (leashHolds e.cmp e.wide v e.operand = true → (u.die d).leash = (s.die d).leash
            ∧ u.msgs.find? s.fresh = some (.reply e.wave e.serial e.token e.pa (some v) false))
        ∧ (leashHolds e.cmp e.wide v e.operand = false → mine.length < 1024 →
            ((s.die d).leashHeld.any fun p => p.1 == homeSlice e.pa) = false → (u.die d).leash = (s.die d).leash ++ [(homeSlice e.pa, { e with spilled := false })])
        ∧ (leashHolds e.cmp e.wide v e.operand = false → 
            (1024 ≤ mine.length ∧ bit (s.reg d Off.lsSpillbase) 0 = false
              ∨ mine.length < 1024 ∧ ∃ p ∈ (s.die d).leashHeld, p.1 = homeSlice e.pa ∧ homeSlice p.2.pa = p.1) →
            (u.die d).leash = (s.die d).leash
              ∧ (u.die d).leashHeld = (s.die d).leashHeld ++ [(homeSlice e.pa, e)]))
    ∧ (∀ p : Nat × LeashEntry, let d := s.subj.a
      ((s.die d).leashHeld.find? fun p => p.1 == s.subj.b) = some p → p.2.st = .waiting → holdsNow s p.2 = false →
      anyBad s p.2.pa (if p.2.wide then 8 else 4) = false →
      ((s.die d).leash.filter fun q => q.1 == homeSlice p.2.pa && !q.2.spilled).length < 1024 →
      ∃ u, exec .heldRegistrationAdmit s = .next u ∧ u.mem = s.mem ∧ u.waves = s.waves ∧ u.msgs = s.msgs
        ∧ (u.die d).leash = (s.die d).leash ++ [(homeSlice p.2.pa, { p.2 with spilled := false })]
        ∧ (u.die d).leashHeld = (s.die d).leashHeld.filter fun q => q.2.order != p.2.order)
    ∧ (∀ w r, let k := s.subj.a
      s.wave? k = some w → r.units ≠ 0 → r.cancelled = false → r.since + 1024 * r.units ≤ s.now (clockOf k) →
      (w.leash = some r ∨ w.leash = none ∧ w.adopted = some r) →
      ∃ u, exec .leashTimeout s = .next u ∧ u.mem = s.mem ∧ u.dies = s.dies
        ∧ u.msgs.find? s.fresh = some (.cancel k w.serial r.token r.pa) ∧ OtherWaves s u k
        ∧ u.wave? k = some (if w.leash = none then { w with adopted := some { r with cancelled := true } }
            else { w with leash := some { r with cancelled := true } }))
    ∧ (∀ wave serial token pa held e, msgAt s s.subj.a = some (.cancel wave serial token pa) →
      tokenInFlight s wave serial token = false → let d := homeDie pa 0
      entryOfToken s d wave serial token = some (held, e) →
      ∃ u, exec .leashCancel s = .next u ∧ u.mem = s.mem ∧ u.waves = s.waves
        ∧ (e.st = .waiting → u.msgs.find? s.fresh = some (.reply wave serial token pa none false)
            ∧ ((u.die d).leash = (s.die d).leash.filter fun p => p.2.order != e.order)
            ∧ ((u.die d).leashHeld = (s.die d).leashHeld.filter fun p => p.2.order != e.order))
        ∧ (e.st ≠ .waiting → u.dies = s.dies ∧ u.msgs = s.msgs.del s.subj.a))
    ∧ (∀ wave serial token pa value wake w r, msgAt s s.subj.a = some (.reply wave serial token pa value wake) →
      s.waveAt wave serial = some w → w.leash = some r → r.token = token → w.save = .none → recMode s w = 0 →
      ∃ u w', exec .waituReply s = .next u ∧ u.mem = s.mem ∧ u.dies = s.dies ∧ u.wave? wave = some w' ∧ OtherWaves s u wave
        ∧ w'.leash = none
        ∧ (∀ l, l < w.lanes.length → r.lanes.getLsbD l = true →
            (w'.lane l).pc = (w.lane l).pc + BitVec.ofNat 64 (8 * r.k) ∧ (w'.lane l).wait = .none)
        ∧ (∀ v, value = some v → let x := if r.wide then v else BitVec.ofNat 64 (v.toNat % 2 ^ 32)
            (∀ n, r.dst = .s n → w'.sraw n.val = x) ∧ (∀ n, r.dst = .v n → ∀ l ∈ lanesOf r.sel, w'.vraw n.val l = x))
        ∧ (value = none → (∀ n l, w'.vraw n l = w.vraw n l) ∧ ∀ n, w'.sraw n = w.sraw n)
        ∧ (∀ n, r.status = some n → w.p.length = 15 → ∀ l ∈ lanesOf r.sel, l < w.width →
            (((w'.p[n.val]?).getD 0).getLsbD l = value.isSome))
        ∧ (wake = true → u.msgs.find? s.fresh = some (.wakeAck pa token 0)))
    ∧ (∀ wave serial token pa value wake w r, msgAt s s.subj.a = some (.reply wave serial token pa value wake) →
      s.waveAt wave serial = some w → w.leash = none → w.adopted = some r → r.token = token →
      ∃ u, exec .waituReply s = .next u ∧ u.mem = s.mem ∧ u.dies = s.dies ∧ OtherWaves s u wave
        ∧ u.wave? wave = some { w with adopted := some { r with woken := value, expired := value.isNone } }
        ∧ (wake = true → u.msgs.find? s.fresh = some (.wakeAck pa token 0)))
    ∧ (∀ pa token ctx, msgAt s s.subj.a = some (.wakeAck pa token ctx) →
      ∃ u, exec .wakeAck s = .next u ∧ u.mem = s.mem ∧ u.waves = s.waves ∧ ((u.die (homeDie pa 0)).leash =
        (s.die (homeDie pa 0)).leash.filter fun p => !(p.2.token == token && p.2.pa == pa && p.2.st == .waking)))
    ∧ (∀ pa counter token ctx, msgAt s s.subj.a = some (.decrement pa counter token ctx none) →
      ∃ u, exec .decrementAck s = .next u ∧ u.mem = s.mem ∧ u.waves = s.waves ∧ ((u.die (homeDie pa 0)).leash =
        (s.die (homeDie pa 0)).leash.filter fun p =>
          !(p.2.token == token && p.2.pa == pa && p.2.counter == counter && p.2.st == .waking)))
    ∧ (∀ wave serial token pa counter dst w, msgAt s s.subj.a = some (.detach wave serial token pa counter dst) →
      tokenInFlight s wave serial token = false → s.waveAt wave serial = some w → let d := homeDie pa 0
      ∃ u w', exec .leashDetach s = .next u ∧ u.mem = s.mem ∧ u.wave? wave = some w' ∧ OtherWaves s u wave
        ∧ w'.leash = none ∧ w'.adopted = none
        ∧ (w.leash = none → w.adopted = none → u.dies = s.dies ∧ ∀ j, j < 4 → w'.sraw (dst + j) = 0)
        ∧ (∀ r held e, w.leash = some r → entryOfToken s d wave serial token = some (held, e) → e.st = .waiting →
            ((u.die d).leash = (s.die d).leash.map fun p =>
              if p.2.order == e.order then (p.1, { p.2 with st := .detached, counter }) else p)
            ∧ ∀ j x, (detachWords r 1 (s.now (clockOf wave)))[j]? = some x → w'.sraw (dst + j) = x))
    ∧ (∀ wave serial dst units e w, msgAt s s.subj.a = some (.attach wave serial dst units e) →
      s.waveAt wave serial = some w → dst < 256 → let d := homeDie e.pa 0
      let mine := fun (p : Nat × LeashEntry) => p.2.st == .detached && p.2.token == e.token && p.2.ctx == e.ctx && p.2.pa == e.pa
      ∃ u w', exec .leashAttach s = .next u ∧ u.mem = s.mem ∧ u.wave? wave = some w' ∧ OtherWaves s u wave
        ∧ ((s.die d).leash.find? mine = none → (s.die d).leashHeld.find? mine = none →
            u.dies = s.dies ∧ w'.sraw dst = 1 ∧ w'.adopted = w.adopted)
        ∧ (∀ p, (s.die d).leash.find? mine = some p → w'.sraw dst = 0
            ∧ (∃ r, w'.adopted = some r ∧ r.token = e.token ∧ r.pa = e.pa ∧ r.cmp = p.2.cmp ∧ r.operand = p.2.operand
                ∧ r.units = units ∧ r.woken = none)
            ∧ (u.die d).leash = (s.die d).leash.map fun q =>
                if q.2.order == p.2.order then (q.1, { q.2 with st := .waiting, wave, serial, counter := 0 }) else q))
    ∧ (∀ c x ctx, ctlDue s s.subj.a Off.lsPurge (fun x => bits x 11 0 == s.subj.b) = some (c, x, ctx) →
      ∃ u, exec .lsPurge s = .next u ∧ u.mem = s.mem ∧ ∀ d, ((u.die d).leash = (s.die d).leash.filter fun p => p.2.ctx != s.subj.b)
        ∧ (u.die d).leashHeld = (s.die d).leashHeld.filter fun p => p.2.ctx != s.subj.b)

/-- Queue requests and task counts. QUEUE_STEP, in time at its slice, behind the takes of its cycle and behind its lanes'
earlier stores to the words it uses (R68, R315), of a usable descriptor puts or takes at most its operand's items as one
step: the words of head and tail are written, and the reply carries the number moved and the items taken, in their order; an
unusable descriptor replies with QUEUE_DESC. QUEUE_REPLY writes the items and the status bits and the group goes on.
TASK_DECREMENT lowers a count by one, that of a detached wake storing its value beside the count (R78), and at exactly 0 its
record joins the ready queue, for which a full one holds the decrement, and where READY_QUEUE_INSERT puts one that waited for
room (R336 to R342, R366). -/
def Obligations.QueueAndTaskEvents : Prop :=
  ∀ s : State,
    (∀ r, let n := s.subj.a
      msgAt s n = some .queue → s.queues.find? n = some r → unmapped s r.desc = false → anyBad s r.desc 32 = false →
      isDev r.desc = true → r.afterTake s = false → laneBehind s r.wave r.serial r.sel n r.desc 32 = false →
      let d := homeDie r.desc 0
      let waits := fun j pa len => laneBehind s r.wave r.serial (r.lanesAt j) n pa len
      let s1 := ((dropVisitorLine s (dieOf r.wave) r.desc).layerRead r.desc 32).arrive (slicePort r.wave r.desc) r.desc
        (if r.put then none else some r.steal)
      let q := qdesc s r.desc
      let want := if r.once then 1 else popc r.sel
      (q.ok = false → ∃ u, exec .queueStep s = .next u ∧ u.mem = s.mem ∧ u.waves = s.waves
        ∧ u.msgs.find? n = some (.queueReply [] 0 (some .queueDesc)))
      ∧ (q.ok = true → MemInv s → (∀ d, (s.die d).leash = []) →
          (∀ (s' : State) (ps : List (List (Nat × Nat))), r.put = true → let m := min want (2 ^ q.lcap - q.count)
            itemsXl s1 d r.ctx .write waits ((List.range m).map fun j => (j, q.item (q.tail + j))) = (s', .ok ps) →
            s'.late = false → Writable s' r.desc 8 →
            ∃ u, exec .queueStep s = .next u ∧ u.msgs.find? n = some (.queueReply [] m none)
              ∧ Memory.read u.mem r.desc 8 = (q.tail + m) % 2 ^ 32 * 2 ^ 32 + q.head)
          ∧ (∀ (s' : State) (ps : List (List (Nat × Nat))), r.put = false → let m := min want q.count
            itemsXl s1 d r.ctx .read waits ((List.range m).map fun j =>
              (j, if r.steal then q.item (q.head + j) else q.item (q.tail + 2 ^ 32 - 1 - j))) = (s', .ok ps) →
            s'.late = false → Writable s' r.desc 8 →
            ∃ (u : State) (items : List (Word × Word)), exec .queueStep s = .next u ∧ u.msgs.find? n = some (.queueReply items m none)
              ∧ Memory.read u.mem r.desc 8 =
                  (if r.steal then q.tail else (q.tail + 2 ^ 32 - m) % 2 ^ 32) * 2 ^ 32
                    + (if r.steal then (q.head + m) % 2 ^ 32 else q.head)
              ∧ (∀ b, b < r.desc ∨ r.desc + 8 ≤ b → Memory.byte u.mem b = Memory.byte s.mem b)
              ∧ ∀ (j pa : Nat), ps[j]? = some [(pa, 16)] → isDev pa = true → unmapped s (pa + 15) = false → items[j]? =
                  some (BitVec.ofNat 64 (Memory.read s.mem pa 8), BitVec.ofNat 64 (Memory.read s.mem (pa + 8) 8)))))
    ∧ (∀ r items k w, let n := s.subj.a
      msgAt s n = some (.queueReply items k none) → s.queues.find? n = some r → s.waveAt r.wave r.serial = some w →
      ∃ u w', exec .queueReply s = .next u ∧ u.mem = s.mem ∧ u.dies = s.dies ∧ u.wave? r.wave = some w' ∧ OtherWaves s u r.wave
        ∧ (∀ l, l < 64 → l < w.lanes.length → (w.lane l).wait = .reply n →
            (w'.lane l).pc = (w.lane l).pc + 8 ∧ (w'.lane l).wait = .none)
        ∧ (∀ x : Fin 320, r.put = false → r.once = false → r.dst = .v x → x.val + 1 < 320 →
            ∀ (j l : Nat) (y : Word × Word), (lanesOf r.sel)[j]? = some l → items[j]? = some y →
              w'.vraw x.val l = y.1 ∧ w'.vraw (x.val + 1) l = y.2)
        ∧ (∀ m : Fin 15, r.status = .p m → w.p.length = 15 → ∀ (j l : Nat), (lanesOf r.sel)[j]? = some l → l < w.width →
            (((w'.p[m.val]?).getD 0).getLsbD l = if r.once then k == 1 else decide (j < k))))
    ∧ (∀ no i t k, msgAt s s.subj.a = some (.taskDec no i) → s.txs.find? no = some t → t.tasks[i]? = some k →
      t.suspend = false → isDev k.pa = true → unmapped s k.pa = false → anyBad s k.pa 8 = false → Writable s k.pa 8 →
      laneBehind s t.wave t.serial (maskOf [k.lane]) no k.pa 8 = false → (s.arrive (slicePort t.wave k.pa) k.pa).late = false →
      MemInv s → (∀ d, (s.die d).leash = []) →
      let d := homeDie k.pa 0
      let old := Memory.read s.mem k.pa 8
      (old = 1 → (s.die d).ready.length < 4096) →
      ∃ u, exec .taskDecrement s = .next u
        ∧ Memory.read u.mem k.pa 8 = (old + 2 ^ 64 - 1) % 2 ^ 64
        ∧ (∀ b, b < k.pa ∨ k.pa + 8 ≤ b → Memory.byte u.mem b = Memory.byte s.mem b)
        ∧ (u.die d).ready = (s.die d).ready ++ (if old = 1 then [{ pa := k.pa, va := some k.va, ctx := t.ctx, at_ := s.epoch }] else [])
        ∧ ∀ w, s.waveAt t.wave t.serial = some w → (∀ j q, j ≠ i → t.tasks[j]? = some q → q.old.isSome = true) →
            ∀ l, l < 64 → l < w.lanes.length → (w.lane l).wait = .reply no →
              ((u.wave t.wave).lane l).pc = (w.lane l).pc + 8 ∧ ((u.wave t.wave).lane l).wait = .none)
    ∧ (∀ pa counter token ctx v, let n := s.subj.a
      msgAt s n = some (.decrement pa counter token ctx (some v)) →
      (s.msgs.any fun p => p.1 < n && (match p.2 with | .decrement _ c _ _ (some _) => c == counter | _ => false)) = false →
      isDev counter = true → counter % 32 = 0 → countFails s counter = false → Writable s counter 8 → Writable s (counter + 8) 8 →
      (s.arrive (unitPort (homeDie pa 0) counter) counter).late = false → MemInv s → (∀ d, (s.die d).leash = []) →
      let d := homeDie counter 0
      let old := Memory.read s.mem counter 8
      (old = 1 → (s.die d).ready.length < 4096) →
      ∃ u, exec .taskDecrement s = .next u ∧ u.waves = s.waves ∧ u.msgs.find? n = some (.decrement pa counter token ctx none)
        ∧ Memory.read u.mem counter 8 = (old + 2 ^ 64 - 1) % 2 ^ 64 ∧ Memory.read u.mem (counter + 8) 8 = v.toNat
        ∧ (∀ b, b < counter ∨ counter + 16 ≤ b → Memory.byte u.mem b = Memory.byte s.mem b)
        ∧ (u.die d).ready = (s.die d).ready ++ (if old = 1 then [{ pa := counter, va := none, ctx, at_ := s.epoch }] else []))
    ∧ (∀ n pa i no t k, n = s.subj.a → msgAt s n = some (.taskDec no i) → s.txs.find? no = some t → t.tasks[i]? = some k → k.pa = pa →
      countFails s pa = false → countWaits s pa = true → exec .taskDecrement s = .refused (.notEnabled "TASK_DECREMENT"))
    ∧ (∀ n d r, List.find? (fun (p : Nat × Msg) => match p.2 with | .readyHeld d' _ => d' == s.subj.a | _ => false) s.msgs =
        some (n, .readyHeld d r) → (s.die s.subj.a).ready.length < 4096 →
      ∃ u, exec .readyQueueInsert s = .next u ∧ u.mem = s.mem ∧ u.waves = s.waves ∧ u.msgs = s.msgs.del n
        ∧ (u.die s.subj.a).ready = (s.die s.subj.a).ready ++ [{ r with at_ := s.epoch }])

/-! ### Translation and control registers (03_translation.md, 06_onchip_map.md) -/

/-- Walks, faults, invalidations and stores to control registers. A walk, one of the oldest 128 of its die, caches its leaf
as it ends, on the die and at the cores that wait for it, or leaves its fault to the lanes that wait; a fault request is
written to the ring or attached to the entry of its key; RETRY makes the
attached lanes active at their word and FAIL gives them PAGE_FAULT; an invalidation command removes what it names on
every die and every core and completes when no access or request that used it is left; each control register takes the fields that its rule gives
and keeps its reserved bits zero, and a power cap of zero gives its cluster a grant budget of 4; a window access reads or writes at the core that owns it (R43, R46, R51 to R60, R97, R99,
R101, R381, R394, R398, R405, R414, R416, R431). -/
def Obligations.TranslationAndRegisterEvents : Prop :=
  ∀ s : State, let d := s.subj.a
    (∀ w ws, s.walking.find? d = some w → (s.walking.filter fun p => p.1 < d && p.2.die == w.die).length < 128 →
      (∀ l, walkLeaf s w.die w.ctx (w.vpn * 4096) = (ws, .ok l) →
        ∃ u, exec .pageWalkComplete s = .next u ∧ u.mem = s.mem ∧ u.waves = s.waves ∧ l ∈ (u.die w.die).tlb
          ∧ ∀ q ∈ w.waiting, isCtl q.1 = false → l ∈ (u.core (coreOf q.1)).tlb)
      ∧ (∀ t k n m v, walkLeaf s w.die w.ctx (w.vpn * 4096) = (ws, .error t) → w.waiting = [(k, n, m)] →
          s.waveAt k n = some v →
          ∃ u, exec .pageWalkComplete s = .next u ∧ u.mem = s.mem ∧ (u.die w.die).tlb = (s.die w.die).tlb
            ∧ u.wave? k = some { v with xfault :=
                v.xfault ++ (lanesOf m).map fun l => (xkey l (BitVec.ofNat 64 (w.vpn * 4096)), t) }))
    ∧ (∀ f i, ((s.die d).faultWait.zipIdx.find? fun p => canWrite s d p.1) = some (f, i) → MemInv s →
      (∀ d, (s.die d).leash = []) →
      let tail := (s.reg d Off.xlFqtail).toNat % 2 ^ 32
      let a := bits (s.reg d Off.xlFqbase) 51 12 * 4096 + 32 * (tail % fqSize s d)
      ∃ u, exec .faultEntryWrite s = .next u ∧ u.waves = s.waves ∧ (u.die d).faultWait = (s.die d).faultWait.eraseIdx i
        ∧ ((s.die d).faults.any (sameKey f) = true → u.mem = s.mem ∧ (u.die d).faults = (s.die d).faults.map fun e =>
            if sameKey f e then { e with who := e.who ++ [f.who] } else e)
        ∧ ((s.die d).faults.any (sameKey f) = false →
            (isDev a = true → unmapped s a = false → unmapped s (a + 31) = false →
              (∀ (j : Nat) (b : Byte), (faultBytes f)[j]? = some b → Memory.byte u.mem (a + j) = b)
              ∧ ∀ b, b < a ∨ a + 32 ≤ b → Memory.byte u.mem b = Memory.byte s.mem b)
            ∧ (unmapped s a = true → u.mem = s.mem)
            ∧ u.reg d Off.xlFqtail = BitVec.ofNat 64 ((tail + 1) % 2 ^ 32)
            ∧ (u.die d).faults = (s.die d).faults ++
                [{ idx := BitVec.ofNat 32 tail, ctx := f.ctx, vpn := f.va / 4096, access := f.access, who := [f.who] }]))
    ∧ (∀ (i : Instr) (action : Nat) src x e k n m w,
      ((i = .xlFresolveRetry ∧ action = 1) ∨ (i = .xlFresolveFail ∧ action = 2)) →
      ctlDue s d Off.xlFresolve (fun x => bits x 63 62 == action && bits x 31 0 == s.subj.b) = some (src, x, 0) →
      ((s.die d).faults.find? fun e => e.idx == BitVec.ofNat 32 s.subj.b) = some e → e.who = [.lanes k n m] →
      s.waveAt k n = some w → w.lanes.length ≤ 64 → m ≠ 0 →
      (∀ l, m.getLsbD l = true → l < w.lanes.length ∧ (w.lane l).st = .parked) →
      ∃ u w', exec i s = .next u ∧ u.mem = s.mem ∧ u.wave? k = some w'
        ∧ (∀ l, m.getLsbD l = true →
            (w'.lane l).st = .active ∧ (w'.lane l).pc = (w.lane l).pc ∧ (w'.lane l).wait = .none)
        ∧ (∀ f ∈ (u.die d).faults, f.idx ≠ e.idx)
        ∧ (i = .xlFresolveFail → w'.stopped = true ∧ ∃ r ∈ (u.die (dieOf k)).traps,
            r.trap = .pageFault ∧ r.lanes = m ∧ r.group = m ∧ r.wave = k ∧ r.pc = (w.lane (lowest m)).pc))
    ∧ (∀ src x, ctlDue s d Off.xlCtxbase (fun x => x == s.subj.val) = some (src, x, 0) →
      let y := BitVec.ofNat 64 (bits x 51 16 * 65536 + bits x 0 0)
      ∃ u, exec .xlCtxbaseWrite s = .next u ∧ u.mem = s.mem ∧ u.reg d Off.xlCtxbase = y
        ∧ (u.die d).ctxbase = if bit (s.die d).ctxbase 0 then (s.die d).ctxbase else y)
    ∧ (∀ (i : Instr) (f : Word → Bool) src x,
      ((i = .invPage ∧ f = fun x => bits x 63 62 == 0 && bits x 11 0 == s.subj.b && bits x 59 16 == bits s.subj.val 55 12)
        ∨ (i = .invContext ∧ f = fun x => bits x 63 62 == 1 && bits x 11 0 == s.subj.b)
        ∨ (i = .invAll ∧ f = fun x => bits x 63 62 == 2) ∨ (i = .invNone ∧ f = fun x => bits x 63 62 == 3)) →
      (s.die d).inval.length < 16 → ctlDue s d Off.xlInvcmd f = some (src, x, 0) →
      ∃ u c, exec i s = .next u ∧ u.mem = s.mem ∧ (u.die d).inval = (s.die d).inval ++ [c]
        ∧ c.kind = bits x 63 62 ∧ c.size = bits x 61 60 ∧ c.va = bits x 59 16 * 4096 ∧ c.ctx = bits x 11 0
        ∧ (∀ e, (u.die e).tlb = (s.die e).tlb.filter fun l => !removes c l)
        ∧ ∀ k, (u.core k).tlb = (s.core k).tlb.filter fun l => !removes c l)
    ∧ (∀ c rest, (s.die d).inval = c :: rest → (∀ p ∈ s.txs, usedRemoved c p.1 p.2 = false) →
      (∀ p ∈ s.msgs, msgUsesRemoved s c p.1 p.2 = false) →
      ∃ u, exec .invalidationComplete s = .next u ∧ (u.die d).inval = rest
        ∧ u.reg d Off.xlInvdone = s.reg d Off.xlInvdone + 1
        ∧ (∀ e, (u.die e).tlb = (s.die e).tlb.filter fun l => !removes c l)
        ∧ (∀ k, (u.core k).tlb = (s.core k).tlb.filter fun l => !removes c l)
        ∧ (∀ e, e < 4 → (u.die e).ctxbase =
            if c.kind = 2 then (s.die e).regs.getD Off.xlCtxbase 0 else (s.die e).ctxbase))
    ∧ (∀ src x ctx, ctlDue s d Off.lsSpillbase (fun x => x == s.subj.val) = some (src, x, ctx) →
      ∃ u, exec .lsSpillbaseWrite s = .next u ∧ u.mem = s.mem ∧ u.reg d Off.lsSpillbase =
        if s.launched || bits x 4 1 > 14 then s.reg d Off.lsSpillbase else BitVec.ofNat 64 (bits x 51 12 * 4096 + bits x 4 0))
    ∧ (∀ src x ctx, ctlDue s d Off.msElog (fun x => x == 0) = some (src, x, ctx) →
      ∃ u, exec .msElogClear s = .next u ∧ u.reg d Off.msElog = 0)
    ∧ (∀ src x ctx, let off := s.subj.b
      ownEvent off s.subj.val = false → ctlDue s d off (fun x => x == s.subj.val) = some (src, x, ctx) →
      (∃ u, exec .registerWrite s = .next u
        ∧ (∀ fs, plainFields off = some fs → outOfRange off x = false →
            ((off ≠ Off.xlFqbase ∧ off ≠ Off.xlFqhead) ∨ ctx = 0) → u.reg d off = fieldWord x fs)
        ∧ (plainFields off = none ∨ outOfRange off x = true → u.reg d off = s.reg d off)
        ∧ ∀ c, c < 12 → off = pcCap c → bits x 15 0 = 0 → grantOf u d c = 4))
    ∧ (∀ t a core o, let no := s.subj.a
      let i := s.subj.b
      accAt s no i = some (t, a) → place a.pa = .win core o → t.held = false → a.old = none → reached t a < 3 →
      behind s no t i a 3 = false → winGate s a.pa = (s, true) →
      (t.kind = .load → ∃ u b, exec .windowAccess s = .next u ∧ u.mem = s.mem ∧ u.waves = s.waves ∧ u.cores = s.cores
        ∧ accAt u no i = some b ∧ b.2.old = some (BitVec.ofNat 64 (winRead s core o a.n)))
      ∧ (t.kind = .store → 0x2000000 ≤ o → o + a.n ≤ 0x3000000 → ∃ u, exec .windowAccess s = .next u ∧ u.mem = s.mem
        ∧ sramRead u core (o - 0x2000000) a.n = a.data.toNat % 256 ^ a.n
        ∧ ∀ b, b < o - 0x2000000 ∨ o - 0x2000000 + a.n ≤ b → sramByte u core b = sramByte s core b))
    ∧ (∀ src x ctx, ctlDue s d 0x6000 (fun x => x == s.subj.val) = some (src, x, ctx) →
      ∃ u, exec .rpCtlWrite s = .next u ∧ u.mem = s.mem
        ∧ (bits (s.reg d 0x6038) 63 56 = 2 → u.reg d 0x6000 = s.reg d 0x6000 ∧ u.reg d 0x6038 = s.reg d 0x6038)
        ∧ (bits (s.reg d 0x6038) 63 56 ≠ 2 →
            u.reg d 0x6000 = fieldWord x [(63, 62), (47, 42), (41, 32), (19, 16), (11, 0)]
            ∧ bits (u.reg d 0x6038) 63 56 = if bits x 63 62 = 1 ∨ bits x 63 62 = 2 then 1 else 0))
    ∧ (∀ src x ctx, ctlDue s d Off.trBase (fun x => x == s.subj.val) = some (src, x, ctx) →
      ∃ u, exec .trBaseWrite s = .next u ∧ u.mem = s.mem ∧ u.reg d Off.trBase =
        if bits x 3 0 > 8 then s.reg d Off.trBase else fieldWord x [(51, 12), (4, 4), (3, 0)])
    ∧ (∀ src x ctx, ctlDue s d tsState (fun x => x == s.subj.val) = some (src, x, ctx) →
      ∃ u, exec .tsStateWrite s = .next u ∧ u.reg d tsState = fieldWord x [(63, 62)])
    ∧ (∀ src x ctx, ctlDue s d tsCtl (fun x => bit x 61) = some (src, x, ctx) →
      ∃ u, exec .tsHalt s = .next u ∧ u.mem = s.mem ∧ ∀ n, u.halts d n = decide (n = bits x 11 0))
    ∧ (∀ src x ctx, ctlDue s d tsCtl (fun x => !bit x 61) = some (src, x, ctx) →
      ∃ u, exec .tsRelease s = .next u ∧ u.mem = s.mem ∧ ∀ n, u.halts d n = false)
    ∧ (∀ src x ctx, let c := s.subj.b
      c < 12 → ctlDue s d (pcSet c) (fun x => decide (c < 12) && x == s.subj.val) = some (src, x, ctx) →
      let y := fieldWord x [(63, 63), (43, 32), (11, 0)]
      let m := (clampPoint y (s.reg d (pcLim c))).1
      ∃ u, exec .pcSetWrite s = .next u ∧ u.reg d (pcSet c) = y
        ∧ ((clusterAt s d c).gate = .on → (clusterAt u d c).move =
            if clockBits (s.reg d (pcAct c)) = m.clock ∧ voltBits (s.reg d (pcAct c)) = m.volt then none else some m))
    ∧ (devFailed s = false → d < 4 → ∃ u, exec .fpCtlWrite s = .next u ∧ u.mem = s.mem ∧ u.waves = s.waves
        ∧ u.port.getD (fpCtl d) 0 = fieldWord s.subj.val [(63, 63), (61, 61), (60, 60)]
        ∧ ∀ n, n ≠ fpCtl d → u.port.getD n 0 = s.port.getD n 0)

/-! ### Engines at work (04_home_slices.md R74, R75; 08_tensor_streams.md) -/

/-- Copy and stream engines, tensor-table commands, gathers and scatters. A copy command is accepted when its tiles are in
the states it needs, and they change to DRAINING and FILLING; a stream starts from its record, fills or offers one slot
after another and ends; an access reads a block and then writes it; at the end of a fill or drain the tile changes
state, with ERR where an access failed, and the slot of a failed drain stream is EMPTY; COMMAND_COMPLETE lowers ENGC and the flags and gives TNGET its words; a gather or
scatter runs at the home of its list, reads its indexes in ascending position and moves each element. A tile changes state at
its turn of the core's cycle, acceptances last (R208), and an access is in time at its slices (R68) (R74, R75, R105,
R132 to R147, R193, R201, R206). -/
def Obligations.EngineEvents : Prop :=
  ∀ (s : State),
    let at_ := fun (core tb : Nat) (u : State) => (u.core core).tiles.find? tb
    let turn := fun (core : Nat) => s.inTurn core (s.core core).tableAt (acceptPlace core) = true
    let sv := fun (x : Cmd) => ({ s with via := some { core := x.core, scope := x.scope, noAlloc := x.noAlloc },
                                         replay := { s.replay with writer := none } } : State)
    (∀ (no : Nat) (x : Cmd) (s' : State) (es : List (List Word)), let d := s.subj.a
      let en := s.subj.b
      let core := tileHome s x.core
      let tid := fun (tb : Option Nat) (own : Nat) => match tb.bind (tileAt s core) with | some t => t.tid | none => own
      let w := wordAt x.words 0
      let st := (copyTiles x).1
      let dt := (copyTiles x).2
      let es0 := (es[0]?).getD []
      let es1 := (es[1]?).getD []
      ((s.die d).copyq.getD en []).head? = some no → s.cmds.find? no = some x → copyNeeds s no x = (false, true) →
      x.held = false → x.st = .queued → badCopyWord w = false →
      readEntries s (cmdDie x) x.ctx x.tnbase x.entries ([tid st (bits w 63 56), tid dt (bits w 55 48)].drop x.entries.length)
        = (s', es, none) →
      (tent es0).illegal = false → (tent es1).illegal = false → (st = none → (tent es0).tileOnly = false) →
      (dt = none → (tent es1).tileOnly = false) → (st ≠ none → (tent es0).prune = 0) →
      ∀ y : Cmd, y = { x with st := .running, src := (st.bind (tileWords s' core)).getD es0,
                              dstE := (dt.bind (tileWords s' core)).getD es1,
                              scope := (match bits w 28 27 with | 0 => .t | 1 => .d | 2 => .k | _ => .s) } →
      (let j := copyJob s' y
       badRegion j.src j.so j.ext (j.src0 (nth j.ext 0)) = false ∧ badRegion j.dst j.dO j.ext (nth j.ext 0) = false
         ∧ badPair j.src.e j.dst.e = false) →
      ∃ u, exec .copyAccept s = .next u ∧ u.cmds.find? no = some y
        ∧ (u.die d).copyq.getD en [] = ((s.die d).copyq.getD en []).drop 1
        ∧ (∀ tb t, st = some tb → tileAt s core tb = some t → at_ core tb u = some { t with st := .draining }.word)
        ∧ (∀ tb t, dt = some tb → tileAt s core tb = some t →
            at_ core tb u = some { t with st := .filling, err := false }.word))
    ∧ (∀ (no : Nat) (x : Cmd) (s1 s' : State) (ws : List Word) (es : List (List Word)) (t0 : TileEnt),
      let d := cmdDie x
      let core := tileHome s x.core
      let va := (wordAt x.words 0).toNat
      let r := streamRec ws
      headStream s s.subj.a s.subj.flag = some (no, x) → x.held = false → x.st = .queued → va % 32 = 0 →
      (if x.words.length ≥ 5 then (s, .ok (x.words.drop 1)) else recordRead s no x va) = (s1, .ok ws) → isCtl x.wave = false → r.bad = false →
      tileAt s1 core r.tb0 = some t0 →
      (∀ i, i < r.slots → ∃ t, tileAt s1 core (r.tb0 + i) = some t ∧ t.tid = t0.tid ∧ t.lines = t0.lines) →
      readEntries s1 d x.ctx x.tnbase x.entries ([r.mtid, t0.tid].drop x.entries.length) = (s', es, none) →
      let mem := (es[0]?).getD []
      let e0 := tent mem
      let e1 := tent ((es[1]?).getD [])
      e0.illegal = false → e1.illegal = false → e0.tileOnly = false → e1.tileOnly = true → (r.drain = true → e1.prune = 0) →
      ∀ y : Cmd, (let tile := (tileWords s' core r.tb0).getD ((es[1]?).getD [])
        y = { x with st := .running, words := x.words.take 1 ++ ws, pos := 0, phase := 0, units := [],
                     scope := (match bits (wordAt ws 0) 41 40 with | 0 => .d | 1 => .k | _ => .s),
                     src := if r.drain then tile else mem, dstE := if r.drain then mem else tile }) →
      (let j := streamJob s' y
       let c := if r.drain then nth j.ext 0 else j.src0 (nth j.ext 0)
       badPair j.src.e j.dst.e = false ∧ (e0.kind ≠ 0 → r.drain = true ∨ j.same = true →
           nth r.o 0 % e0.group = 0 ∧ c % e0.group = 0)) →
      ∃ u, exec .streamStart s = .next u ∧ u.mem = s'.mem ∧ u.cmds.find? no = some y)
    ∧ (∀ no x, headStream s s.subj.a s.subj.flag = some (no, x) →
      let core := tileHome s x.core
      let tb := slotNow x
      (∀ t, tileAt s core tb = some t → streamPaused s x = false → visits x = true → t.st = .empty →
        firstFor s core tb no = true → turn core →
        ((cmdRec x).drain = false → ∃ u, exec .streamTileFill s = .next u
          ∧ at_ core tb u = some { t with st := .filling, err := false }.word
          ∧ u.cmds.find? no = some { x with phase := 2, units := [] })
        ∧ ((cmdRec x).drain = true → ∃ u, exec .streamDrainSlot s = .next u
          ∧ at_ core tb u = some { t with st := .ready, gen := t.gen + 1 }.word
          ∧ u.cmds.find? no = some { x with phase := 1 }))
      ∧ (∀ t, tileAt s core tb = some t → (cmdRec x).drain = true → x.st = .running → x.phase = 1 → turn core →
        (x.submits.contains (64 + tb) = true → ∃ u y, exec .streamDrainSlot s = .next u ∧ u.mem = s.mem
          ∧ at_ core tb u = at_ core tb s ∧ u.cmds.find? no = some y ∧ y.phase = 0 ∧ y.pos = x.pos + 1)
        ∧ (x.submits.contains (64 + tb) = false → x.submits.contains tb = true → t.st = .ready →
            ∃ u y, exec .streamDrainSlot s = .next u ∧ at_ core tb u = some { t with st := .draining }.word
              ∧ u.cmds.find? no = some y ∧ y.phase = 2 ∧ y.pos = x.pos))
      ∧ (x.st = .running → x.phase = 0 → visits x = false → ∃ u y, exec .streamComplete s = .next u ∧ u.mem = s.mem
          ∧ streamQueue u s.subj.a s.subj.flag = (streamQueue s s.subj.a s.subj.flag).drop 1
          ∧ u.cmds.find? no = some y ∧ y.st = .finished
          ∧ y.status = if x.status ≠ 0 then x.status else if x.stopped then 7 else 0))
    ∧ (∀ x, let no := s.subj.a
      let n := s.subj.b
      let un := x.units.getD n {}
      let d := cmdDie x
      let va := x.tnbase + 64 * x.tid
      let j := cmdJob s x
      s.cmds.find? no = some x → (isCtl x.wave = true ∨ (s.launch x.launch).rec_ = 0) → x.held = false →
      un.over = false → un.parked = false →
      (∀ s', x.kind = .tnset → n = 0 →
        s'.late = false → unitWrite (sv x) d x.ctx va (x.words.flatMap fun w => bytesOf w.toNat 8) = (s', none) →
        ∃ u y, exec .engineAccess s = .next u ∧ u.mem = s'.mem ∧ u.cmds.find? no = some y ∧ y.st = .running
          ∧ (y.units.getD 0 {}).done = true)
      ∧ (∀ s' bs, x.kind = .tnget → n = 0 → s'.late = false → unitRead (sv x) d x.ctx va 64 = (s', .ok bs) →
        ∃ u y, exec .engineAccess s = .next u ∧ u.mem = s'.mem ∧ u.cmds.find? no = some y ∧ y.st = .running
          ∧ (y.units.getD 0 {}).done = true ∧ (y.units.getD 0 {}).got = some ((wordsOf bs).map BitVec.toNat))
      ∧ ((x.kind = .copy ∨ x.kind = .stream ∧ x.phase = 2) → x.st = .running → sideGone s x = false → n < j.units →
          (∀ tb, (if x.kind = .stream then (if (cmdRec x).drain then some (slotNow x) else none) else (copyTiles x).1) = some tb →
            tileUsed s (tileHome s x.core) tb = false ∧ drainNew s (tileHome s x.core) tb = false) →
          (∀ s' xs, un.got = none → s'.late = false → readBlock (sv x) d x.ctx j n un.lostR = (s', .ok xs) →
            ∃ u y, exec .engineAccess s = .next u ∧ u.mem = s'.mem ∧ u.cmds.find? no = some y
              ∧ y.units.getD n {} = { un with got := some (blockOut s' j n xs).1 }
              ∧ y.fpflags = x.fpflags ||| (blockOut s' j n xs).2.toNat % 16)
          ∧ (∀ s' out, un.got = some out → s'.late = false → writeBlock (sv x) d x.ctx no j n out un.lostR un.lostW = (s', none) →
            ∃ u y, exec .engineAccess s = .next u ∧ u.mem = s'.mem ∧ u.cmds.find? no = some y
              ∧ (y.units.getD n {}).done = true ∧ y.status = x.status)))
    ∧ (∀ (x : Cmd) (fill : Bool) (i : Instr) (t : TileEnt), let no := s.subj.a
      let core := tileHome s x.core
      let tb? := if x.kind = .stream then some (slotNow x) else if fill then (copyTiles x).2 else (copyTiles x).1
      ((i = .fillDone ∧ fill = true) ∨ (i = .drainDone ∧ fill = false)) →
      s.cmds.find? no = some x → x.st = .running → allOver s x = true →
      (x.kind = .copy ∧ x.phase / (if fill then 1 else 2) % 2 = 0
        ∨ x.kind = .stream ∧ x.phase = 2 ∧ (cmdRec x).drain = !fill) →
      ∀ tb, tb? = some tb → tileAt s core tb = some t → t.st = (if fill then .filling else .draining) →
      ∃ u y, exec i s = .next u ∧ u.cmds.find? no = some y
        ∧ at_ core tb u = some (match fill, anyFailed x with
            | true, true => { t with st := .empty, err := true }
            | true, false => { t with st := .ready, gen := t.gen + 1 }
            | false, true => { t with st := if x.kind = .stream then .empty else .ready, err := true }
            | false, false => { t with st := .empty } : TileEnt).word
        ∧ (if x.kind = .stream then y.phase = 0 ∧ y.pos = x.pos + 1 ∧ y.units = []
           else y.phase = x.phase + (if fill then 1 else 2)))
    ∧ (∀ x w, let no := s.subj.a
      s.cmds.find? no = some x → x.held = false → cmdOver s x = true → ctlWaits s x.ctx = false →
      s.waveAt x.wave x.serial = some w →
      ∃ u w', exec .commandComplete s = .next u ∧ u.mem = s.mem ∧ u.cmds = s.cmds.del no ∧ u.wave? x.wave = some w'
        ∧ OtherWaves s u x.wave ∧ w'.engc = w.engc - 1 ∧ w'.flags = (w.lower x.seta x.setb).flags ∧ w'.lanes = w.lanes
        ∧ (x.kind ≠ .tnget → SameRegs w w')
        ∧ (∀ ws, x.kind = .tnget → (x.units.getD 0 {}).got = some ws → ws.length = 8 →
            ∀ (i v : Nat) (o : Out), ws[i]? = some v →
              (w.outs.find? fun o => o.tx == no && o.reg == Wave.skey (firstOf x.dst + i)) = some o → o.hit = false →
              w'.sraw (firstOf x.dst + i) = BitVec.ofNat 64 v))
    ∧ (∀ x, let no := s.subj.a
      let g := gatherCmd x
      s.cmds.find? no = some x → (x.kind = .gath ∨ x.kind = .scat ∨ x.kind = .scatr) → x.held = false → x.st = .queued →
      (g.bad = true → x.status = 0 → ∃ u y, exec .gatherScatterRun s = .next u ∧ u.mem = s.mem ∧ u.cmds.find? no = some y
        ∧ y.st = .finished ∧ y.status = 5)
      ∧ (∀ s' pa, g.bad = false → x.count ≠ 0 → xlNow s (cmdDie x) x.ctx (BitVec.ofNat 64 g.list) .read = (s', .ok pa) →
        ∃ u, exec .gatherScatterRun s = .next u ∧ u.mem = s.mem ∧ u.waves = s.waves
          ∧ u.cmds.find? no = some { x with st := .running, eng := homeDie pa (cmdDie x) }))
    ∧ (∀ x, let no := s.subj.a
      let i := s.subj.b
      let g := gatherCmd x
      let un := x.units.getD i {}
      s.cmds.find? no = some x → (x.kind = .gath ∨ x.kind = .scat ∨ x.kind = .scatr) → x.st = .running → i < x.count →
      (isCtl x.wave = true ∨ (s.launch x.launch).rec_ = 0) → un.over = false → un.parked = false →
      (∀ s' bs, un.got = none → x.phase = i → s'.late = false → posRead (sv x) x (g.list + 4 * i) 4 .k = (s', .ok bs) →
        let idx := ofBytes bs
        ∃ u y, exec .gatherElement s = .next u ∧ u.mem = s'.mem ∧ u.cmds.find? no = some y ∧ y.phase = i + 1
          ∧ (y.units.getD i {}).got = some [idx]
          ∧ ((y.units.getD i {}).done = true ↔ idx = 0xFFFFFFFF ∨ g.limit ≤ idx)
          ∧ (y.range = true ↔ x.range = true ∨ (idx ≠ 0xFFFFFFFF ∧ g.limit ≤ idx)))
      ∧ (∀ idx s1 s' bs, un.got = some [idx] → (x.kind = .gath ∨ earlierSame x i [idx] = false) → s'.late = false →
          let elem := (g.base + idx * g.stride) % 2 ^ 64
          let packed := (g.pack + i * g.size) % 2 ^ 64
          (x.kind = .gath ∧ posRead (sv x) x elem g.size x.scope = (s1, .ok bs) ∧ posWrite s1 x packed bs = (s', none)
            ∨ x.kind = .scat ∧ posRead (sv x) x packed g.size .k = (s1, .ok bs) ∧ posWrite s1 x elem bs = (s', none)
            ∨ x.kind = .scatr ∧ posRead (sv x) x packed x.ty.bytes .k = (s1, .ok bs) ∧ posReduce s1 x g elem bs = (s', none)) →
          ∃ u y, exec .gatherElement s = .next u ∧ u.mem = s'.mem ∧ u.cmds.find? no = some y
            ∧ (y.units.getD i {}).done = true ∧ y.status = x.status))

/-! ### The Retriever (05_retriever.md) -/

/-- The traversal engine. DESCRIPTOR_READ gives a TRAV its descriptor, and an invalid one ends its walks with status 7;
WALK_START, once no walk that has arrived can take a slot ahead of it, takes a slot and the program, ends a defective program
with status 5 and a null root with status 1; a walk at the home of P, its reads in time at their slices (R68), runs the rule
at its counter: LDF loads T, CMPK and CMPI choose the next rule, FOLLOW steps to a new P and
counts it, HASHK adds a bucket, RET ends with the record and MISS with status 1; a walk migrates into a reserved slot,
and its result is stored at its slot (R82 to R94). -/
def Obligations.RetrieverEvents : Prop :=
  (∀ (s s' : State) (x : Cmd) (bs : List Byte), let no := s.subj.a
    let va := (wordAt x.words 0).toNat
    s.cmds.find? no = some x → x.kind = .trav → x.held = false → x.st = .queued → va % 32 = 0 →
    unitRead s (cmdDie x) x.ctx va 32 = (s', .ok bs) →
    ∃ u, exec .descriptorRead s = .next u ∧ u.mem = s'.mem
      ∧ u.cmds.find? no = some { x with st := .running, src := wordsOf bs }
      ∧ ((walkDesc (wordsOf bs)).bad = false → u.walks = s.walks)
      ∧ ((walkDesc (wordsOf bs)).bad = true → ∀ n w, s.walks.find? n = some w → w.cmd = no →
          ∃ y h ptr, u.walks.find? n = some y ∧ y.st = .ending ∧ y.result = some (h, ptr, []) ∧ bits h 63 56 = 7))
  ∧ (∀ (s s' : State) (w : WalkRec) (x : Cmd) (bs : List Byte), let n := s.subj.a
    let w1 : WalkRec := { w with hasSlot := true, st := .running }
    let s1 := updWalk s n fun _ => w1
    let d := descOf s1 w1
    let waits := fun (v : WalkRec) => v.st == .queued && v.retr == w.retr && !v.hasSlot
      && (match walkCmd s v with | some x => x.st == .running | none => false)
    s.walks.find? n = some w → w.st = .queued → walkCmd s w = some x → x.st = .running →
    (w.hasSlot = true ∨ slotsUsed s w.retr false < 48 ∧ isFirst s n waits = true
      ∧ ∀ p ∈ s.walks, p.2.retr = w.retr →
          ¬(p.2.st = .parked ∧ p.2.reserved = true) ∧ ¬(p.2.st = .moving ∧ slotsUsed s w.retr true < 16)) →
    unitRead s1 (w.retr / 8) w.ctx d.prog (8 * (d.plen + 1)) = (s', .ok bs) →
    ∃ u y, exec .walkStart s = .next u ∧ u.walks.find? n = some y ∧ y.rules = wordsOf bs ∧ y.p = w.p ∧ y.n = w.n
      ∧ (∀ q, ((wordsOf bs).zipIdx.find? fun p => ruleBad d.plen p.2 p.1) = some q →
          y.st = .ending ∧ ∃ h ptr, y.result = some (h, ptr, []) ∧ bits h 63 56 = 5)
      ∧ (((wordsOf bs).zipIdx.find? fun p => ruleBad d.plen p.2 p.1) = none →
          (w.p = 0 → y.st = .ending ∧ ∃ h ptr, y.result = some (h, ptr, []) ∧ bits h 63 56 = 1)
          ∧ (w.p ≠ 0 → u.walks.find? n = (settleWalk (updWalk s' n fun _ => { w1 with rules := wordsOf bs }) n
              { w1 with rules := wordsOf bs }).walks.find? n)))
  ∧ (∀ (s : State) (w : WalkRec), let n := s.subj.a
    s.walks.find? n = some w →
    (w.st = .moving → (∀ p ∈ s.walks, p.2.st = .moving → p.2.retr = w.retr → w.arrived ≤ p.2.arrived) →
      slotsUsed s w.retr true < 16 →
      ∃ u, exec .walkMigrate s = .next u ∧ u.mem = s.mem ∧ u.cmds = s.cmds
        ∧ u.walks.find? n = some { w with st := .running, hasSlot := true, reserved := true })
    ∧ (w.st = .parked → w.reserved = true → slotsUsed s w.retr false < 48 →
      ∃ u, exec .parkedWalkSlotMove s = .next u ∧ u.mem = s.mem ∧ u.cmds = s.cmds
        ∧ u.walks.find? n = some { w with reserved := false }))
  ∧ (∀ (s s0 sp : State) (w : WalkRec) (pp : Nat), let n := s.subj.a
    let r := wrule (wordAt w.rules w.rule)
    let d := descOf s0 w
    let va := fieldAt w r
    let on := fun (i : Instr) (m : Memory) (w' : WalkRec) =>
      ∃ u, exec i s = .next u ∧ u.mem = m ∧ u.walks.find? n = some w'
    let ends := fun (i : Instr) (status : Nat) (rec_ : List Byte) => ∃ u y h, exec i s = .next u ∧ u.walks.find? n = some y
      ∧ y.st = .ending ∧ y.result = some (h, w.p, rec_.take (d.rstride - 16)) ∧ bits h 63 56 = status
      ∧ bits h 31 16 = w.n % 2 ^ 16
    s.walks.find? n = some w → w.st = .running → w.rules ≠ [] → w.since < 63 →
    settleWalk s n w = s0 → s0.walks.find? n = some w → s0.late = false → walkXl s0 w w.p.toNat = (sp, .ok pp) →
    (∀ s1 bs, r.op = 1 → va % 2 ^ r.w = 0 → walkRead sp w d.scope va (2 ^ r.w) = (s1, .ok bs) → s1.late = false →
      let v := if r.sg then word (sext (ofBytes bs) (8 * 2 ^ r.w)) else BitVec.ofNat 64 (ofBytes bs)
      on .ruleLdf s1.mem { w with rule := w.rule + 1, since := w.since + 1, t := v })
    ∧ (r.op = 2 → on .ruleCmpk s0.mem { w with since := w.since + 1, rule :=
        if w.t = w.k then r.ta else if (if r.sg then w.t.toInt < w.k.toInt else w.t.toNat < w.k.toNat) then r.tb else w.rule + 1 })
    ∧ (r.op = 3 → let y := word (sext r.imm 32)
        on .ruleCmpi s0.mem { w with since := w.since + 1, rule :=
          if w.t = y then r.ta else if (if r.sg then w.t.toInt < y.toInt else w.t.toNat < y.toNat) then r.tb else w.rule + 1 })
    ∧ (∀ s1 bs, r.op = 4 → va % 2 ^ r.w = 0 → walkRead sp w d.scope va (2 ^ r.w) = (s1, .ok bs) → s1.late = false →
        (ofBytes bs = 0 → on .ruleFollow s1.mem { w with rule := r.ta, since := w.since + 1 })
        ∧ (ofBytes bs ≠ 0 → w.n = d.limit → s1.walks.find? n = some w → descOf s1 w = d → ends .ruleFollow 4 [])
        ∧ (ofBytes bs ≠ 0 → w.n ≠ d.limit → ∃ u y, exec .ruleFollow s = .next u ∧ u.walks.find? n = some y
            ∧ y.p = BitVec.ofNat 64 (ofBytes bs) ∧ y.n = w.n + 1 ∧ y.g = (if w.n ≥ 1 then some w.p else w.g)
            ∧ y.rule = r.tb ∧ y.since = 0 ∧ y.t = w.t ∧ y.k = w.k))
    ∧ (r.op = 5 → ∃ u y, exec .ruleHashk s = .next u ∧ u.walks.find? n = some y
        ∧ y.p = w.p + BitVec.ofNat 64 ((bits w.k 31 0 ^^^ bits w.k 63 32) % 2 ^ (r.imm % 32) * (r.imm / 2 ^ 16))
        ∧ y.rule = w.rule + 1 ∧ y.n = w.n ∧ y.since = w.since + 1)
    ∧ (∀ s1 bs, r.op = 6 → walkRead sp w d.scope va (r.imm % 512) = (s1, .ok bs) → s1.late = false → s1.walks.find? n = some w →
        descOf s1 w = d → ends .ruleRet 0 bs)
    ∧ (r.op = 7 → ends .ruleMiss 1 []))
  ∧ (∀ (s s1 s2 : State) (w : WalkRec) (x : Cmd) (head ptr : Word) (rec_ : List Byte) (ps : List (Nat × Nat)),
    let n := s.subj.a
    let d := descOf s w
    let bs := bytesOf head.toNat 8 ++ bytesOf ptr.toNat 8 ++ rec_
    let va := (d.rbase + w.lane * d.rstride) % 2 ^ 64
    s.walks.find? n = some w → w.st = .ending → w.result = some (head, ptr, rec_) → s.cmds.find? w.cmd = some x →
    (isCtl x.wave = true ∨ (s.launch x.launch).rec_ = 0) →
    let sv : State := { s with via := some { core := x.core, scope := x.scope, noAlloc := x.noAlloc },
                               replay := { s.replay with writer := none } }
    unitXl sv (w.retr / 8) w.ctx .write (piecesOf va bs.length) = (s1, .ok ps) →
    physWrites s1 (cmdDie x) w.ctx ps bs = (s2, none) → s2.late = false →
    ∃ u y, exec .walkResultWrite s = .next u ∧ u.mem = s2.mem ∧ u.walks = s.walks.del n
      ∧ u.cmds.find? w.cmd = some y ∧ y.walks = x.walks - 1 ∧ y.status = x.status)

/-! ### Launches, teams and dispatchers (18_scheduling.md) -/

/-- Launch control and dispatch. A record that its checks accept runs, and one that they refuse ends with its status;
LAUNCH_END writes DONE to the record and to its done word; a head-of-line team is placed on the lowest core or pair that
takes it; a restored team is placed from its save area; adverts, sending, arrival and return move teams between dies;
bins and gathering slots form waves after bto cycles, dispatch items and ready records join them, and a formed wave is
placed with its arguments in v0; the launch barrier releases and admits its clusters in rounds (R335, R352 to R369,
R375, R392). -/
def Obligations.LaunchEvents : Prop :=
  ∀ s : State,
    (∀ (v : Nat), let q := s.subj.a
      let desc := lqueue s q
      let i := seenOf s q
      let slot := i % 2 ^ desc.lcap
      let no := launchNo q slot
      let record := desc.base + 128 * slot
      let ws := wordsOf (bytesOf v 128)
      let d := (serverOf q).1
      let x := recordOf desc q slot record s.fresh ws
      s.dev = .running → q < 64 → serverUp s d (serverOf q).2 = true → desc.ok = true → i ≠ desc.tail →
      (∀ y, s.launches.find? no = some y → y.st = .ended) → physRead s record 128 = .ok v →
      (bits (wordAt ws 8) 63 56 ≥ 2 → ∃ u, exec .launchAccept s = .next u ∧ u.launched = true
        ∧ u.seen.find? q = some ((i + 1) % 2 ^ 32) ∧ u.launches.find? no = some { x with st := .ended })
      ∧ (∀ quantum, bits (wordAt ws 8) 63 56 < 2 → recordingOf s q slot desc.ctx = (0, quantum) →
          let y : Launch := { x with rec_ := 0, quantum := quantum }
          let s1 : State := { s with seen := s.seen.set q ((i + 1) % 2 ^ 32), launched := true, fresh := s.fresh + 1 }
          let s' := (s1.setLaunch no y).homeWrite (record + 0x40) (statusWord 1 0)
          (∀ t z, judge s' d no y ws = (t, .run z) → ∃ u, exec .launchAccept s = .next u ∧ u.mem = t.mem ∧ u.launched = true
            ∧ u.seen.find? q = some ((i + 1) % 2 ^ 32) ∧ u.launches.find? no = some z)
          ∧ (∀ t code, judge s' d no y ws = (t, .fail code) → ∃ u, exec .launchAccept s = .next u ∧ u.launched = true
            ∧ (u.launch no).st = .ended)))
    ∧ (∀ x, let no := s.subj.a
      s.launches.find? no = some x → launchQuiet s no = true → (x.st = .running ∧ x.ended = x.nteams ∧ binsHold s no = false
        ∧ dqEmpty s x = true ∧ serverUp s (serverOf x.queue).1 (serverOf x.queue).2 = true ∨ x.st = .aborting) →
      MemInv s → (∀ d, (s.die d).leash = []) → x.queue < 64 → 4096 ≤ x.record → x.record % 8 = 0 →
      (isDev (x.record + 0x40) = true → Writable s (x.record + 0x40) 8) →
      let status := (if x.st = .aborting then 7 else 2) * 2 ^ 56 + x.ended % 2 ^ 32
      ∃ u, exec .launchEnd s = .next u ∧ (u.launch no).st = .ended ∧ (u.launch no).rec_ = 0
        ∧ Memory.read u.mem (x.record + 0x40) 8 = status
        ∧ (x.done ≠ 0 → doneOk x.done = true → unmapped s x.done = false → 4096 ≤ x.done →
            (isDev x.done = true → Writable s x.done 8) → Memory.read u.mem x.done 8 = status))
    ∧ (∀ no j x p o, let d := s.subj.a
      lineUp s d = true → headOf s d = .dealt no j → s.launches.find? no = some x → x.co = false →
      planDie (dieOcc s d) d x.kernel.pair x.kernel (tileLens x.kernel x.tiles) x.kernel.waves = some (p, o) →
      (clusterAt s (p.core / 64) (clusterOf p.core)).gate = .on → p.dirty s = false →
      ∃ u t, exec .teamPlace s = .next u ∧ u.teams.find? s.fresh = some t ∧ t.launch = no ∧ t.number = teamOf x d j
        ∧ t.core = p.core ∧ t.pair = p.pair ∧ t.scratch = p.scratch ∧ t.kennel = p.kennel ∧ t.accBase = p.acc
        ∧ (u.launch no).dealt = x.dealt.set d (j + 1) ∧ (u.die d).head = none
        ∧ ∀ sp, p.spots = [sp] → x.kernel.waves = 1 → ∃ w, u.wave? (waveNo sp.core sp.slice sp.slot) = some w
            ∧ w.launch = no ∧ w.team = s.fresh ∧ w.waveId = 0 ∧ w.width = x.kernel.width ∧ w.nv = x.kernel.nv ∧ w.ctx = x.ctx
            ∧ w.srseed = seedTeam x.seed (teamOf x d j) 1 0
            ∧ ∀ l, l < w.width → (w.lane l).pc = BitVec.ofNat 64 (x.kernel.va + x.kernel.entry))
    ∧ (∀ v t, let d := s.subj.a
      lineUp s d = true → headOf s d = .line v → v.saved = true → trySaved s d v v.away = .placed t →
      ∃ u, exec .teamRestore s = .next u ∧ u.mem = t.mem ∧ u.teams = t.teams ∧ u.waves = t.waves ∧ (u.die d).head = none
        ∧ ∀ y ∈ (u.die d).line, ¬(y.launch = v.launch ∧ y.number = v.number))
    ∧ (let d := s.subj.a
      lineUp s d = true → (s.die d).advertAt + 4096 ≤ ctlNow s d →
      ∃ u, exec .teamAdvert s = .next u ∧ u.mem = s.mem ∧ u.waves = s.waves ∧ (u.die d).advertAt = ctlNow s d
        ∧ ∀ k, k < 4 → k ≠ d → (u.die k).adverts = (s.die k).adverts.set d (advertOf s d) ∧ d ∉ (u.die k).blocked)
    ∧ (∀ l t since e, let d := s.subj.a
      let k := s.die d
      let h := headOf s d
      let pair := match h with | .line v => if v.saved then v.pair else (s.launch l).kernel.pair | _ => (s.launch l).kernel.pair
      lineUp s d = true → k.flight = none → k.returned = none → headName s d h = some (l, t) → k.head = some (l, t, since) →
      since + 65536 ≤ ctlNow s d → (s.launch l).co = false → (s.launch l).scr = false →
      ((diesOf (s.launch l)).find? fun e => let a := (k.adverts[e]?).getD (0, 0)
        e != d && !k.blocked.contains e && (if pair then a.2 != 0 else a.1 != 0)) = some e →
      ∃ u v, exec .teamSend s = .next u ∧ u.mem = s.mem ∧ u.teams = s.teams ∧ (u.die d).flight = some (e, v)
        ∧ v.launch = l ∧ v.number = t ∧ (u.die d).head = none)
    ∧ (∀ e v, let d := s.subj.a
      lineUp s d = true → sender s d = some (e, v) →
      (v.hold = true → ∃ u, exec .teamReceive s = .next u ∧ u.mem = s.mem ∧ (u.die e).flight = none
        ∧ (u.die d).line = (s.die d).line ++ [{ v with away := true }])
      ∧ (∀ t, v.hold = false → tryMoved s d v true = .placed t → ∃ u, exec .teamReceive s = .next u ∧ u.mem = t.mem
        ∧ u.teams = t.teams ∧ u.waves = t.waves ∧ (u.die e).flight = none)
      ∧ (v.hold = false → tryMoved s d v true = .full → ∃ u, exec .teamReceive s = .next u ∧ u.mem = s.mem
        ∧ u.teams = s.teams ∧ (u.die e).flight = none ∧ (u.die e).returned = some (d, v)))
    ∧ (∀ e v, let d := s.subj.a
      (s.die d).returned = some (e, v) → ∃ u, exec .teamReturned s = .next u ∧ u.mem = s.mem ∧ u.waves = s.waves
        ∧ (u.die d).returned = none ∧ (u.die d).line = v :: (s.die d).line ∧ (u.die d).blocked = e :: (s.die d).blocked)
    ∧ (∀ b, let core := s.subj.a
      (s.core core).bins[s.subj.b]? = some b → (s.launch b.launch).rec_ = 0 →
      b.since + (s.launch b.launch).bto ≤ s.now core →
      ∃ u f, exec .binTimeout s = .next u ∧ u.mem = s.mem ∧ u.waves = s.waves ∧ (u.core core).formed = (s.core core).formed ++ [f]
        ∧ f.launch = b.launch ∧ f.kernel = b.kernel ∧ f.threads = b.threads.map (fun t => [t.arg])
        ∧ (u.core core).bins = (s.core core).bins.filter fun x => !(x.launch == b.launch && x.kernel == b.kernel))
    ∧ (∀ g, let core := s.subj.a
      (s.core core).gathering.find? s.subj.b = some g → (s.launch g.launch).rec_ = 0 →
      g.since + (s.launch g.launch).bto ≤ s.now core →
      ∃ u f, exec .gatheringTimeout s = .next u ∧ u.mem = s.mem ∧ u.waves = s.waves
        ∧ (u.core core).formed = (s.core core).formed ++ [f] ∧ f.launch = g.launch ∧ f.kernel = g.kernel ∧ f.pc = g.pc
        ∧ f.threads = g.recs ∧ f.team = noTeam ∧ (u.core core).gathering = (s.core core).gathering.del s.subj.b)
    ∧ (∀ no x rest s1 pa t entry arg k, let core := s.subj.a
      let d := dieOfCore core
      coreWorks d (core % 64) = true →
      byOrder (s.launches.filter fun p => p.2.st == .running && p.2.dq != 0 && p.2.dmask.getLsbD d
        && !((s.core core).dqStall.contains p.1) && !mustFollow s p.2) = (no, x) :: rest →
      xlNow s d x.ctx (BitVec.ofNat 64 x.dq) .both = (s1, .ok pa) → isDev pa = true →
      queueStep s1 { die := d, port := slicePort (waveNo core 0 0) pa } d pa x.ctx false false [] 1 = .ok t [(entry, arg)] 1 →
      t.late = false → spawnKernel t no (bits entry 55 0) = some k →
      binBusy t core no k = false →
      ∃ u, exec .dispatchTake s = .next u ∧ u = enterBin t core no k { arg, team := noTeam })
    ∧ (∀ c t joins, let core := s.subj.a
      coreWorks (dieOfCore core) (core % 64) = true → bestRecord s core = some c → c.out = .taken t joins →
      (∀ f p, bestFormed s core = some (f, p) → recordFirst s c f = true) → (∀ d, (s.die d).leash = []) →
      lookRecord s core c.r = c.out ∧ (s.die c.q).ready[c.i]? = some c.r
        ∧ ∃ u, exec .readyRecordTake s = .next u ∧ u.mem = t.mem ∧ u.cores = t.cores
          ∧ (u.die c.q).ready.map (fun r => (r.pa, r.va, r.ctx)) =
            ((s.die c.q).ready.eraseIdx c.i).map fun r => (r.pa, r.va, r.ctx))
    ∧ (∀ f p, let core := s.subj.a
      bestFormed s core = some (f, p) → ((bestRecord s core).any fun c => recordFirst s c f) = false → (clusterAt s (core / 64) (clusterOf core)).gate = .on →
      f.threads.length ≤ 64 →
      let x := s.launch f.launch
      let k := kernelAt x f.kernel
      ∃ u w, exec .wavePlace s = .next u ∧ (u.core core).formed = (s.core core).formed.erase f
        ∧ u.wave? (waveNo p.core p.slice p.slot) = some w ∧ w.kind = f.kind ∧ w.launch = f.launch ∧ w.teamNo = f.team
        ∧ w.waveId = 0 ∧ w.width = k.width ∧ w.srseed = seedFormed x.seed f.pc
        ∧ (∀ l, l < k.width → l < 64 → (w.lane l).pc = f.pc
            ∧ (w.lane l).st = if l < f.threads.length then .active else .exited)
        ∧ (∀ (l n : Nat) rs y, f.threads[l]? = some rs → rs[n]? = some y → n < k.nv → w.vraw n l = y))
    ∧ (∀ x, let no := s.subj.a
      s.launches.find? no = some x → x.rec_ = 0 → x.st = .running → x.co = true → x.nteams ≠ 0 → x.rounds = [] →
      (x.releases + 1) * x.nteams ≤ kRead s (x.record + 0x38) 8 →
      ∃ u, exec .launchBarrierRelease s = .next u ∧ u.mem = s.mem ∧ (u.launch no).releases = x.releases + 1
        ∧ (u.launch no).pointer = (x.pointer + 1) % 48)
    ∧ (∀ d' since j cs, let d := s.subj.a
      let no := s.subj.b
      ((s.launch no).rounds.find? fun r => r.1 == d) = some (d', since, j, cs) → since + 256 * j ≤ ctlNow s d →
      ∃ u, exec .clusterAdmitRound s = .next u ∧ u.mem = s.mem
        ∧ ∀ k w, s.wave? k = some w → w.launch = no → isCtl k = false → dieOf k = d → clusterOf (coreOf k) ∈ cs.take 4 →
            ∀ l, l < 64 → l < w.lanes.length → (w.lane l).wait = .inRound →
              ((u.wave k).lane l).pc = (w.lane l).pc + 8 ∧ ((u.wave k).lane l).wait = .none)

/-! ### Traps and pre-emption (19_faults_preemption.md) -/

/-- The trap ring, its actions and pre-emption. TRAP_RECORD_WRITE writes the 64 bytes of the oldest record at the tail,
which advances; RESUME and SKIP send the stopped group to the word it stopped at or past it, and ABORT ends the
launch; a control core that traps is logged and taken out of service, and starts again at the image's entry; TR_PREQ
cancels, saves, holds, releases and aborts; a wave enters its save routine with its lanes' places remembered, and a
saved team joins the restore line (R343, R380 to R392). -/
def Obligations.TrapAndPreemptionEvents : Prop :=
  ∀ s : State, let d := s.subj.a
    (∀ r, nextRecord s d = some r → MemInv s → (∀ d, (s.die d).leash = []) →
      let base := s.reg d Off.trBase
      let tail := (s.reg d Off.trTail).toNat
      let size := 2 ^ (bits base 3 0 + 6)
      bit base 4 = true → (tail + 2 ^ 32 - (s.reg d Off.trHead).toNat % 2 ^ 32) % 2 ^ 32 < size →
      let a := bits base 51 12 * 4096 + 64 * (tail % size)
      ∃ u, exec .trapRecordWrite s = .next u
        ∧ (isCached a = true → unmapped s a = false → unmapped s (a + 63) = false → u.waves = s.waves
          ∧ (∀ (j x : Nat), (r.words s)[j]? = some x → Memory.read u.mem (a + 8 * j) 8 = x % 2 ^ 64)
          ∧ ∀ b, b < a ∨ a + 64 ≤ b → Memory.byte u.mem b = Memory.byte s.mem b)
        ∧ (unmapped s a = true → u.waves = s.waves ∧ u.mem = s.mem)
        ∧ u.reg d Off.trTail = BitVec.ofNat 64 ((tail + 1) % 2 ^ 32)
        ∧ ∃ q ∈ (u.die d).traps, q.id = r.id ∧ q.part = r.part ∧ q.written = some (BitVec.ofNat 32 tail))
    ∧ (∀ (i : Instr) (act : Nat) src x ctx r w, (i = .trapResume ∧ act = 1 ∨ i = .trapSkip ∧ act = 2) →
      ctlDue s d Off.trAct (fun x => bits x 63 61 == act && bits x 31 0 == s.subj.b) = some (src, x, ctx) →
      s.trapAt d (BitVec.ofNat 32 s.subj.b) = some r → s.waveAt r.wave r.serial = some w →
      (i = .trapSkip → r.cls = 0 → atHeader s d r = false) → r.cls < 2 →
      let k := if r.cls = 1 ∨ i = .trapResume ∧ r.trap ≠ .user ∧ r.trap ≠ .breakpoint then 0 else trapSpan s d r
      ∃ u w', exec i s = .next u ∧ u.mem = s.mem ∧ u.wave? r.wave = some w'
        ∧ (∀ q ∈ (u.die d).traps, q.written.isSome = true → q.id ≠ r.id)
        ∧ (∀ l, l < w.lanes.length → r.cls = 0 → r.group.getLsbD l = true →
            (w'.lane l).pc = (w.lane l).pc + BitVec.ofNat 64 (8 * k) ∧ (w'.lane l).wait = .none)
        ∧ (∀ l, r.cls = 1 ∨ r.group.getLsbD l = false →
            (w'.lane l).pc = (w.lane l).pc ∧ (w'.lane l).wait = (w.lane l).wait)
        ∧ (∀ n, src = .msg n → w.traps = [r.id] → w'.stopped = false))
    ∧ (∀ (i : Instr) (act : Nat) src x ctx r y, (i = .trapAbort ∧ act = 3 ∨ i = .trapSkip ∧ act = 2) →
      ctlDue s d Off.trAct (fun x => bits x 63 61 == act && bits x 31 0 == s.subj.b) = some (src, x, ctx) →
      s.trapAt d (BitVec.ofNat 32 s.subj.b) = some r → s.launches.find? r.launch = some y → y.st = .running →
      (i = .trapSkip → r.cls = 0 ∧ atHeader s d r = true ∨ r.cls = 2) →
      ∃ u, exec i s = .next u ∧ (u.launch r.launch).st = .aborting ∧ (u.launch r.launch).faulted = true)
    ∧ (∀ r, let k := s.subj.b
      ((s.die d).traps.find? fun r => r.wave == ctlNo d k) = some r → k < 2 →
      ∃ u, exec .controlCoreTrap s = .next u ∧ u.mem = s.mem ∧ (∀ q ∈ (u.die d).traps, q.wave ≠ ctlNo d k)
        ∧ (∀ no x, s.launches.find? no = some x → x.st = .running →
            (serverOf x.queue = (d, k) ∨ k = 0 ∧ (dealtTo x d = true ∨ waitsIn s no d = true)) →
            (u.launch no).st = .aborting ∧ (u.launch no).faulted = true)
        ∧ (((s.port.getD 0x1030 0).toNat + 2 ^ 32 - (s.port.getD 0x1038 0).toNat) % 2 ^ 32 < 256 →
            u.port.getD (0x10000 + 32 * ((s.port.getD 0x1030 0).toNat % 256) + 8) 0 = r.word0
            ∧ u.port.getD 0x1030 0 = BitVec.ofNat 64 (((s.port.getD 0x1030 0).toNat + 1) % 2 ^ 32)))
    ∧ (let k := s.subj.b
      s.dev = .running → d < 4 → k < 2 → s.wave? (ctlNo d k) = none →
      ∃ u w, exec .controlCoreRestart s = .next u ∧ u.wave? (ctlNo d k) = some w ∧ w.kind = .control ∧ w.width = 1
        ∧ w.ctx = 0 ∧ (w.lane 0).pc = Config.ctlEntry ∧ (w.lane 0).st = .active ∧ w.stopped = false
        ∧ u.mem = s.mem ∧ u.launches = s.launches ∧ ∀ q, serverOf q = (d, k) → u.seen.find? q = none)
    ∧ (∀ (op : Nat) src x ctx, let q : PReq := { team := s.subj.b, queue := s.subj.c, slot := s.subj.d }
      ctlDue s d Off.trPreq (fun x => bits x 2 0 == op && preqOf x == q) = some (src, x, ctx) →
      (∀ tn t, op = 0 → residentTeam s q = some (tn, t) → t.saving = false →
        ∃ u, exec .preqCancel s = .next u ∧ (u.team tn).save = .none)
      ∧ (∀ i hold y, (i = Instr.preqSave ∧ op = 1 ∧ hold = false ∨ i = .preqSaveHold ∧ op = 2 ∧ hold = true) →
        s.launches.find? q.launch = some y → y.st = .running →
        (∀ tn t, residentTeam s q = some (tn, t) → s.teams.find? tn = some t → t.save = .none →
          ∃ u, exec i s = .next u ∧ u.mem = s.mem ∧ (u.team tn).save = .pending hold d)
        ∧ (residentTeam s q = none → (hold = true → savedTeam s q = none ∧ undealt y q.team = none) →
          ∃ u, exec i s = .next u ∧ u.reg d Off.trPdone = s.reg d Off.trPdone + 1))
      ∧ (∀ v, op = 3 → savedTeam s q = some v → v.hold = true → ∃ u, exec .preqRelease s = .next u
        ∧ u.reg d Off.trPdone = s.reg d Off.trPdone + 1
        ∧ ∀ e, ∀ y ∈ (u.die e).line, y.launch = q.launch → y.number = q.team → y.hold = false)
      ∧ (∀ y, op = 4 → s.launches.find? q.launch = some y → y.st = .running → ∃ u, exec .preqAbort s = .next u
        ∧ (u.launch q.launch).st = .aborting))
    ∧ (∀ w record s1 s2, let key := s.subj.a
      let t := s.team w.team
      let k := (s.launch w.launch).kernel
      s.wave? key = some w → isCtl key = false → mayEnter s key w t = true → k.safe ≠ [] → coreOn s (coreOf key) = true →
      recMode s w = 0 → entryRecord s key w k = some record → startSave s w.team = (s1, none) →
      writePair s1 w.team w.waveId w.live record = (s2, none) →
      ∃ u w', exec .saveEntry s = .next u ∧ u.mem = s2.mem ∧ u.wave? key = some w' ∧ w'.save = .saving record
        ∧ ∀ l, l < w.lanes.length →
            ((w.lane l).st = .exited → w'.lane l = w.lane l)
            ∧ ((w.lane l).st ≠ .exited → (w'.lane l).st = .active ∧ (w'.lane l).wait = .none
                ∧ (w'.lane l).pc = BitVec.ofNat 64 (k.va + ((k.safe[record]?).map fun r => r.2.1).getD 0)
                ∧ (w'.lane l).stop = some (if (w.lane l).wait = .inRound then (w.lane l).pc + 8 else (w.lane l).pc, (w.lane l).dd)
                ∧ (w'.lane l).was = (w.lane l).wait))
    ∧ (∀ t hold e s1, let tn := s.subj.a
      s.teams.find? tn = some t → t.saving = true → t.waves = [] → strayStores s t.launch = false →
      t.save = .pending hold e → writeAbsent s tn (t.saveWs.filter fun wi => !t.entered.contains wi) = (s1, none) →
      ∃ u, exec .teamSaved s = .next u ∧ u.reg e Off.trPdone = s1.reg e Off.trPdone + 1
        ∧ ∃ v ∈ (u.die (dieOfCore t.core)).line, v.launch = t.launch ∧ v.number = t.number ∧ v.saved = true
            ∧ v.hold = hold ∧ v.area = t.area)

/-! ### The host, the peers and the firmware (22_host_firmware.md) -/

/-- The outside of the device. A host write of device memory writes its bytes and no others, one of the firmware region
or of a hole changes nothing, and a read returns the bytes or is aborted; no AtomicOp is performed; BAR0 is read and
written in aligned words of eight bytes, and a write of MB_CMD takes a command with its arguments; a peer is served through
its window alone; RESET starts the monitor image or fails, MONITOR_READY zeroes device memory and sets the limits, and the
four mailbox commands end with their results (R28, R34, R321, R425 to R436). -/
def Obligations.HostEvents : Prop :=
  (∀ (s : State), let a := s.subj.a
    let bs := s.subj.bytes
    let n := bs.length
    let stored := fun (u : State) => (∀ (j : Nat) (b : Byte), bs[j]? = some b → Memory.byte u.mem (a + j) = b)
      ∧ ∀ b, b < a ∨ a + n ≤ b → Memory.byte u.mem b = Memory.byte s.mem b
    devFailed s = false → bs ≠ [] → MemInv s → (∀ d, (s.die d).leash = []) →
    ∃ u, exec .hostWrite s = .next u ∧ u.waves = s.waves
      ∧ (place a = .host → (∀ p ∈ s.txs, ∀ x ∈ p.2.accs, atomicOn p.2 x a n = false) → stored u ∧ u.hostL2 = s.hostL2)
      ∧ (reachable s a n = true → inFirmware a n = false → Writable s a n → stored u)
      ∧ (reachable s a n = true → inFirmware a n = false → ∀ k, let lo := max a (32 * k)
          losesWrite s k lo (min (a + n) (32 * k + 32) - lo) = true →
          ∀ b, b / 32 = k → Memory.byte u.mem b = Memory.byte s.mem b)
      ∧ (reachable s a n = true → inFirmware a n = true → u.mem = s.mem)
      ∧ (place a ≠ .host → reachable s a n = false → u.mem = s.mem))
  ∧ (∀ (s : State), let a := s.subj.a
    let n := s.subj.b
    devFailed s = false → n ≠ 0 →
    ∃ u, exec .hostRead s = .next u ∧ u.waves = s.waves
      ∧ (reachable s a n = true → inFirmware a n = false → s.firstBad a n = none →
          u.mem = s.mem ∧ u.out = s.out ++ [.data (bytesOf (Memory.read s.mem a n) n)])
      ∧ (reachable s a n = false ∨ inFirmware a n = true ∨ s.firstBad a n ≠ none → u.out.getLast? = some .completerAbort))
  ∧ (∀ s : State, ∃ u, exec .hostAtomicop s = .next u ∧ u.mem = s.mem ∧ u.out = s.out ++ [.unsupportedRequest])
  ∧ (∀ (s : State), let off := s.subj.a
    let width := s.subj.b
    (s.subj.flag = false → bar0Ok off width false = true → ∃ u, exec .bar0Access s = .next u ∧ u.mem = s.mem ∧ u.port = s.port
      ∧ u.out = s.out ++ [.data (if off < 0x1000 then bytesOf (infoRead s.down off width) width
          else bytesOf (bar0Word s off).toNat 8)])
    ∧ (s.subj.flag = false → bar0Ok off width false = false → ∃ u, exec .bar0Access s = .next u ∧ u.mem = s.mem
      ∧ u.out.getLast? = some .completerAbort)
    ∧ (s.subj.flag = true → devFailed s = false → bar0Ok off width true = true →
        (off < 0x1000 ∨ off = 0x1008 ∧ mbBusy s = true → exec .bar0Access s = .next s)
        ∧ (off = 0x1008 → mbBusy s = false → 1 ≤ bits s.subj.val 7 0 → bits s.subj.val 7 0 ≤ 4 →
            ∃ u, exec .bar0Access s = .next u ∧ u.mem = s.mem ∧ mbBusy u = true ∧ mbCmd u = bits s.subj.val 7 0
              ∧ ∀ i, i < 3 → mbArg u i = (s.port.getD (0x1010 + 8 * i) 0).toNat)
        ∧ (off = 0x1010 ∨ off = 0x1018 ∨ off = 0x1020 → ∃ u, exec .bar0Access s = .next u ∧ u.mem = s.mem
            ∧ u.port.getD off 0 = s.subj.val ∧ ∀ m, m ≠ off → u.port.getD m 0 = s.port.getD m 0)))
  ∧ (∀ (s : State) (q : PeerReq), let p := s.subj.a
    s.subj.peer = some q → p < 4 → s.dev.up = true →
    (peerServed s p q = false → ∃ u, exec .peerRequest s = .next u ∧ u.mem = s.mem ∧ u.out = s.out ++ [.peerUnmapped p])
    ∧ (peerServed s p q = true → MemInv s → (∀ d, (s.die d).leash = []) →
        (∀ a n, q = .read a n → s.firstBad a n = none → ∃ u, exec .peerRequest s = .next u ∧ u.mem = s.mem
          ∧ u.out = s.out ++ [.peerData p (bytesOf (Memory.read s.mem a n) n)])
        ∧ (∀ a bs, q = .write a bs → Writable s a bs.length → ∃ u, exec .peerRequest s = .next u
          ∧ (∀ (j : Nat) (b : Byte), bs[j]? = some b → Memory.byte u.mem (a + j) = b)
          ∧ ∀ b, b < a ∨ a + bs.length ≤ b → Memory.byte u.mem b = Memory.byte s.mem b)
        ∧ (∀ a ty v, q = .exch a ty v → s.firstBad a ty.bytes = none → Writable s a ty.bytes → ∃ u, exec .peerRequest s = .next u
          ∧ Memory.read u.mem a ty.bytes = v.toNat % 256 ^ ty.bytes
          ∧ u.out = s.out ++ [.peerData p (bytesOf (Memory.read s.mem a ty.bytes) ty.bytes)])))
  ∧ (∀ s : State, s.subj.a < 4 → s.subj.a ∉ s.down → ∃ u, exec .portDown s = .next u ∧ u.mem = s.mem
      ∧ u.down = s.subj.a :: s.down ∧ portUp u s.subj.a = false)
  ∧ (∀ s : State, s.dev = .resetting → let code := imageCode Config.flash 1 (floorOf s 1)
      ∃ u, exec .reset s = .next u ∧ u.mem = s.mem ∧ u.dev = if code = 0 then .training else .failed code)
  ∧ (∀ s : State, s.dev = .training → (∀ d, (s.die d).leash = []) → ∃ u, exec .monitorReady s = .next u ∧ u.dev = .ready
      ∧ u.bad = [] ∧ (∀ a, isDev a = true → Memory.byte u.mem a = 0)
      ∧ ∀ d c, d < 4 → c < 12 → u.reg d (pcLim c) = fusedLimits d c)
  ∧ (∀ (s : State) (i : Instr) (code : Nat), 
    let result := fun (u : State) (x : Nat) => u.port.getD 0x1028 0 = BitVec.ofNat 64 x
    let a := mbArg s 0
    let n := mbArg s 1
    (s.dev = .training ∨ s.dev = .ready ∨ s.dev = .running) → mbBusy s = true → mbCmd s = code →
    (i = .loadFw → code = 1 →
      (loadAllowed s = false → ∃ u, exec i s = .next u ∧ result u 5 ∧ u.mem = s.mem)
      ∧ (loadAllowed s = true → reachable s a n = false → ∃ u, exec i s = .next u ∧ result u 4 ∧ u.mem = s.mem)
      ∧ (∀ s1 b, loadAllowed s = true → reachable s a n = true → monitorRead s a n = (s1, b) →
          let c := imageCode b 2 (floorOf s1 2)
          let at_ := 0x1000 + Config.fwPlace % (0x4000000 - 0x1000 - (imageBody b).length)
          (c ≠ 0 → ∃ u, exec i s = .next u ∧ result u c ∧ u.dev = s.dev)
          ∧ (c = 0 → MemInv s1 → (∀ d, (s1.die d).leash = []) → Writable s1 at_ (imageBody b).length → ∃ u, exec i s = .next u ∧ result u 0 ∧ u.dev = .running
              ∧ u.fwHash = Config.sha512 b ∧ u.svns.2 = imageSvn b
              ∧ ∀ (j : Nat) (x : Byte), (imageBody b)[j]? = some x →
                  Memory.byte u.mem (at_ + j) = x)))
    ∧ (i = .attest → code = 2 → s.dev.up = true →
      (reachable s a 64 = false ∨ reachable s n 400 = false ∨ n % 64 ≠ 0 →
        ∃ u, exec i s = .next u ∧ result u 4 ∧ u.mem = s.mem)
      ∧ (reachable s a 64 = true → reachable s n 400 = true → n % 64 = 0 → s.firstBad a 64 = none → Writable s n 400 → MemInv s →
          (∀ d, (s.die d).leash = []) → ∃ u, exec i s = .next u ∧ result u 0
            ∧ ∀ (j : Nat) (x : Byte), (report s (bytesOf (Memory.read s.mem a 64) 64))[j]? = some x →
                Memory.byte u.mem (n + j) = x))
    ∧ (i = .idkey → code = 3 → s.dev.up = true →
      (reachable s a 138 = false → ∃ u, exec i s = .next u ∧ result u 4 ∧ u.mem = s.mem)
      ∧ (reachable s a 138 = true → Writable s a 66 → Writable s (a + 72) 66 → MemInv s → (∀ d, (s.die d).leash = []) →
          ∃ u, exec i s = .next u ∧ result u 0 ∧ Memory.read u.mem a 66 = Config.idKeyX.toNat % 256 ^ 66
            ∧ Memory.read u.mem (a + 72) 66 = Config.idKeyY.toNat % 256 ^ 66))
    ∧ (i = .resetCc → code = 4 → (s.dev = .running → ∃ u, exec i s = .next u ∧ result u 0 ∧ u.mem = s.mem
          ∧ ∀ d k e, d < 4 → k < 2 → ∀ q ∈ (u.die e).traps, q.wave ≠ ctlNo d k)
        ∧ (s.dev ≠ .running → ∃ u, exec i s = .next u ∧ result u 5)))

/-! ### The sequencer, replay, power and heat (20_debug_replay.md, 21_power_thermal.md) -/

/-- Debug, replay and power. A sequencer cycle counts its events, arms its state and fires it when its count is full;
a stall sample is taken at each sample point; a commit round goes through its parts and counts; a struck wave goes
back to the start of its quantum; a regulator moves a rising voltage first, then the clock, then a falling voltage; slice
ratios, grants, gates and ramps follow R415 to R420, and a thermal reading sets every working core's register (R394 to
R402, R405 to R422). -/
def Obligations.DebugAndPowerEvents : Prop :=
  ∀ s : State, let d := s.subj.a
    (let c := s.subj.b
    (let occ := fun (code : Nat) => if code == 0 || code ≥ 24 then 0 else if code == 1 then 1 else arriving s d code
      let ts := s.reg d tsState
      let state := bits ts 63 62
      let def_ := s.reg d (0x5020 + 8 * state)
      let n := bits def_ 15 0
      let from_ := occ (bits def_ 63 58)
      let hits := occ (bits def_ 57 52)
      let word := fun (state armed cnt : Nat) => BitVec.ofNat 64 (state * 2 ^ 62 + armed * 2 ^ 61 + cnt)
      s.dev.up = true → d < 4 →
      ∃ u, exec .sequencerCycle s = .next u ∧ u.waves = s.waves
        ∧ (∀ e, e < 4 → u.reg d (0x5140 + 16 * e) = BitVec.ofNat 64 (countUp (bits (s.reg d (0x5140 + 16 * e)) 47 0)
            (bits (s.reg d (0x5148 + 16 * e)) 47 0) (occ (bits (s.reg d (0x5148 + 16 * e)) 63 58))).1)
        ∧ (bit (s.reg d tsCtl) 63 = false → u.reg d tsState = ts)
        ∧ (bit (s.reg d tsCtl) 63 = true →
            (bit ts 61 = false → u.reg d tsState = if from_ > 0 then word state 1 (bits ts 15 0) else ts)
            ∧ (bit ts 61 = true → hits > 0 → n ≠ 0 →
                (bits ts 15 0 + hits < n → u.reg d tsState = word state 1 (bits ts 15 0 + hits))
                ∧ (n ≤ bits ts 15 0 + hits → u.reg d tsState = word (bits def_ 48 47) 0 0
                    ∧ bits (u.reg d tsLast) 63 61 = bits def_ 51 49 ∧ bits (u.reg d tsLast) 60 59 = state
                    ∧ (bits def_ 51 49 = 4 → bit (u.reg d tsCtl) 61 = true)
                    ∧ (bits def_ 51 49 = 1 → bit (u.reg d ssCtl) 62 = true)))))
    ∧ (∀ t0 x, let core := s.subj.a
      let sl := s.subj.b
      let e := dieOfCore core
      let ctl := s.reg e ssCtl
      (s.core core).sampleFrom = some t0 → s.dev = .running → sl < 6 → coreOn s core = true → bit ctl 63 = true →
      bit ctl 62 = true → 16 ≤ bits ctl 19 0 → bit (s.reg e ssCores) (core % 64) = true →
      (s.core core).slices[sl]? = some x → t0 + (x.points + 1) * bits ctl 19 0 ≤ s.now core →
      (nextSlot s core sl x.slot = none → ∃ u, exec .stallSample s = .next u ∧ u.mem = s.mem
        ∧ (u.core core).slices[sl]? = some { x with points := x.points + 1 })
      ∧ (∀ slot t ok, nextSlot s core sl x.slot = some slot →
          s.ringPut e 0x5190 ssCtl 5 15 (stallRecord s core sl slot x.dropped (s.wave (waveNo core sl slot))) = (t, ok) →
          ∃ u, exec .stallSample s = .next u ∧ u.mem = t.mem ∧ (u.core core).slices[sl]? =
            some { x with points := x.points + 1, slot := some slot,
                          dropped := if ok then 0 else min (x.dropped + 1) 0xFFFF }))
    ∧ (∀ no x, recLaunch s = some (no, x) → s.dev = .running → s.replay.struck = [] →
      (∀ t, s.replay.phase = 0 → wavesQuiet s no = true → workDone s no x.rec_ = true → openRound s no x.rec_ = some t →
        ∃ u, exec .commitRound s = .next u ∧ u.mem = t.mem ∧ u.replay.phase = 1)
      ∧ (s.replay.phase = 1 → (∀ p ∈ recWaves s no, p.2.quantum.grant = 0) → wordsPending s no = false →
        ∃ u, exec .commitRound s = .next u ∧ u.replay.phase = 2)
      ∧ (s.replay.phase = 2 → x.rec_ = 1 → leashPending s no false = false →
        ∃ u, exec .commitRound s = .next u ∧ u.mem = s.mem ∧ u.replay.phase = 3)
      ∧ (s.replay.phase = 3 → x.rec_ = 1 → leashPending s no true = false →
        ∃ u, exec .commitRound s = .next u ∧ u.replay.phase = 0 ∧ u.replay.round = s.replay.round + 1))
    ∧ (∀ w v k, let key := s.subj.a
      s.wave? key = some w → s.replay.struck.contains key = true → (∀ l, w.live.getLsbD l = true → (w.lane l).st ≠ .parked) →
      List.find? (fun (p : Nat × Wave) => p.1 == key) s.replay.snap = some (k, v) → v.serial = w.serial →
      ∃ u w', exec .quantumReexecute s = .next u ∧ u.mem = s.mem ∧ u.wave? key = some w' ∧ OtherWaves s u key
        ∧ w'.lanes = v.lanes ∧ w'.v = v.v ∧ w'.s = v.s ∧ w'.p = v.p ∧ w'.traps = w.traps
        ∧ key ∉ u.replay.struck ∧ u.reg (dieOf key) 0x6030 = s.reg (dieOf key) 0x6030 + 1)
    ∧ (∀ m, (clusterAt s d c).move = some m →
      let x := s.reg d (pcAct c)
      let next := if voltBits x < m.volt then (clockBits x, m.volt)
        else if clockBits x ≠ m.clock then (m.clock, voltBits x) else (clockBits x, m.volt)
      ∃ u, exec .regulatorStep s = .next u ∧ u.waves = s.waves
        ∧ u.reg d (pcAct c) = BitVec.ofNat 64 (bits x 63 60 * 2 ^ 60 + next.1 * 2 ^ 32 + next.2))
    ∧ (let core := s.subj.a
      core < 256 → coreWorks (core / 64) (core % 64) = true → coreOn s core = true → (s.core core).ratioAt + 256 ≤ s.now core →
      ∃ u, exec .sliceRatioUpdate s = .next u ∧ u.mem = s.mem ∧ u.waves = s.waves
        ∧ (u.core core).ratio = (List.range 6).map (sliceRatio s core) ∧ (u.core core).ratioAt = (s.core core).ratioAt + 256)
    ∧ (d < 4 → c < 12 → (clusterAt s d c).last + 2048 ≤ clusterNow s d c →
      ∃ u, exec .grantWindow s = .next u ∧ u.mem = s.mem ∧ u.waves = s.waves
        ∧ (clusterAt u d c).last = (clusterAt s d c).last + 2048
        ∧ u.reg d (pcEn c) = saturate ((s.reg d (pcEn c)).toNat + s.subj.c)
        ∧ grantOf u d c = newGrant (grantOf s d c) s.subj.c (bits (s.reg d (pcCap c)) 15 0) (clockBits (s.reg d (pcAct c))))
    ∧ (d < 4 → c < 12 → bit (s.reg d (pcSet c)) 63 = true → clusterIdle s d c = true →
      ((clusterAt s d c).gate = .on → ∃ u, exec .clusterGate s = .next u ∧ u.waves = s.waves
        ∧ (clusterAt u d c).gate = .hold (clusterNow s d c) ∧ bit (u.reg d (pcAct c)) 61 = true)
      ∧ (∀ since, (clusterAt s d c).gate = .hold since →
          since + bits (s.reg d pcHold) 15 0 * 64 ≤ clusterNow s d c →
          ∃ u, exec .clusterGate s = .next u ∧ u.waves = s.waves ∧ (clusterAt u d c).gate = .off
            ∧ bit (u.reg d (pcAct c)) 63 = true ∧ ∀ k ∈ clusterCores d c, (u.core k).sram = [] ∧ (u.core k).acc = []))
    ∧ ((clusterAt s d c).gate = .ramp → c ∉ (s.die d).arbiter →
      ∃ u, exec .rampEnd s = .next u ∧ u.waves = s.waves ∧ (clusterAt u d c).gate = .on
        ∧ clockBits (u.reg d (pcAct c)) = (wantedPoint s d c).clock ∧ voltBits (u.reg d (pcAct c)) = (wantedPoint s d c).volt
        ∧ bits (u.reg d (pcAct c)) 63 61 = 0)
    ∧ (s.dev.up = true → d < 4 → s.subj.nums.length = 48 → s.subj.nums2.length = 4 →
      ∃ u, exec .thermalReading s = .next u ∧ u.waves = s.waves
        ∧ (u.die d).layerHot = layerAfter (s.die d).layerHot s.subj.nums2
        ∧ ∀ n, n < 48 → coreWorks d n = true →
            let t := (s.subj.nums[n]?).getD 0
            let x := (u.core (coreNo d n)).thermal
            bits x 31 16 = t % 2 ^ 16 ∧ bits x 47 32 = 0x5F0 ∧ bits x 15 0 = allowAt t % 2 ^ 16
              ∧ bits x 55 48 = (bits (s.core (coreNo d n)).thermal 55 48 + 1) % 256
              ∧ bit x 63 = layerAfter (s.die d).layerHot s.subj.nums2))

end
end

