-- ==== Sys2Proof/Laws/Maps.lean ====
section
/-! SUPPORT. Sparse maps and memory: what a read finds after a write, and that every operation keeps the canonical
form. -/

namespace Sys2Proof.Machine

variable {α : Type}

/-! ### Reading a map after a change -/

@[simp] theorem Map.find?_nil (n : Nat) : Map.find? ([] : Map α) n = none := rfl

@[simp] theorem Map.find?_set_self (m : Map α) (n : Nat) (y : α) : (Map.set m n y).find? n = some y := by
  induction m with
  | nil => simp [Map.set, Map.find?]
  | cons p m ih =>
    obtain ⟨k, x⟩ := p
    unfold Map.set
    split
    · simp [Map.find?]
    · split <;> simp_all [Map.find?]

theorem Map.find?_set_ne (m : Map α) {n k : Nat} (y : α) (h : k ≠ n) : (Map.set m n y).find? k = m.find? k := by
  induction m with
  | nil => simp [Map.set, Map.find?, h]
  | cons p m ih =>
    obtain ⟨j, x⟩ := p
    unfold Map.set
    split
    · subst_vars; simp [Map.find?, h]
    · split
      · rename_i h1 h2
        simp only [Map.find?, h, if_false]
        split
        · have hk : k ≠ j := by omega
          have : k < j := by omega
          simp [hk, this]
        · rfl
      · simp only [Map.find?]
        rw [ih]

theorem Map.find?_set (m : Map α) (n k : Nat) (y : α) :
    (Map.set m n y).find? k = if k = n then some y else m.find? k := by
  split
  · subst_vars; simp
  · exact Map.find?_set_ne m y ‹_›

@[simp] theorem Map.getD_set_self (m : Map α) (n : Nat) (y d : α) : (Map.set m n y).getD n d = y := by
  simp [Map.getD]

theorem Map.getD_set_ne (m : Map α) {n k : Nat} (y d : α) (h : k ≠ n) : (Map.set m n y).getD k d = m.getD k d := by
  simp [Map.getD, Map.find?_set_ne m y h]

/-! ### Rising keys -/

theorem Map.wf_cons {k : Nat} {x : α} {m : Map α} :
    Map.wf ((k, x) :: m) = true ↔ (∀ p ∈ m.head?, k < p.1) ∧ Map.wf m = true := by
  cases m with
  | nil => simp [Map.wf]
  | cons p m => obtain ⟨j, y⟩ := p; simp [Map.wf]

theorem Map.wf_lt {k : Nat} {x : α} {m : Map α} (h : Map.wf ((k, x) :: m) = true) : ∀ p ∈ m, k < p.1 := by
  induction m generalizing k x with
  | nil => simp
  | cons q m ih =>
    obtain ⟨j, y⟩ := q
    have h1 := Map.wf_cons.1 h
    have hkj : k < j := h1.1 (j, y) (by simp)
    intro p hp
    cases List.mem_cons.1 hp with
    | inl h2 => subst h2; exact hkj
    | inr h2 => exact Nat.lt_trans hkj (ih h1.2 p h2)

/-- A key below every key of a map is not in it. -/
theorem Map.find?_none_of_lt {n : Nat} {m : Map α} (h : ∀ p ∈ m, n < p.1) : m.find? n = none := by
  cases m with
  | nil => rfl
  | cons p m =>
    obtain ⟨k, x⟩ := p
    have : n < k := h (k, x) (by simp)
    simp [Map.find?, this, Nat.ne_of_lt this]

theorem Map.head?_set (m : Map α) (n : Nat) (y : α) : ∀ p ∈ (Map.set m n y).head?, p.1 = n ∨ ∃ q ∈ m.head?, p.1 = q.1 := by
  cases m with
  | nil => simp [Map.set]
  | cons q m =>
    obtain ⟨k, x⟩ := q
    intro p hp
    unfold Map.set at hp
    split at hp
    · simp only [List.head?_cons, Option.mem_def, Option.some.injEq] at hp
      subst hp; exact .inl rfl
    · split at hp <;> simp only [List.head?_cons, Option.mem_def, Option.some.injEq] at hp <;> subst hp
      · exact .inl rfl
      · exact .inr ⟨(k, x), by simp, rfl⟩

theorem Map.wf_set {m : Map α} (n : Nat) (y : α) (h : Map.wf m = true) : Map.wf (Map.set m n y) = true := by
  induction m with
  | nil => simp [Map.set, Map.wf]
  | cons p m ih =>
    obtain ⟨k, x⟩ := p
    have hw := Map.wf_cons.1 h
    unfold Map.set
    split
    · subst_vars; exact Map.wf_cons.2 ⟨hw.1, hw.2⟩
    · split
      · exact Map.wf_cons.2 ⟨by simpa, h⟩
      · refine Map.wf_cons.2 ⟨?_, ih hw.2⟩
        intro q hq
        rcases Map.head?_set m n y q hq with h1 | ⟨r, hr, h1⟩
        · omega
        · exact h1 ▸ hw.1 r hr

theorem Map.mem_del {m : Map α} {n : Nat} {p : Nat × α} (h : p ∈ Map.del m n) : p ∈ m := by
  induction m with
  | nil => simp [Map.del] at h
  | cons q m ih =>
    obtain ⟨k, x⟩ := q
    unfold Map.del at h
    split at h
    · exact List.mem_cons_of_mem _ h
    · split at h
      · exact h
      · cases List.mem_cons.1 h with
        | inl h1 => simp [h1]
        | inr h1 => exact List.mem_cons_of_mem _ (ih h1)

theorem Map.wf_del {m : Map α} (n : Nat) (h : Map.wf m = true) : Map.wf (Map.del m n) = true := by
  induction m with
  | nil => simp [Map.del, Map.wf]
  | cons p m ih =>
    obtain ⟨k, x⟩ := p
    have hw := Map.wf_cons.1 h
    unfold Map.del
    split
    · exact hw.2
    · split
      · exact h
      · refine Map.wf_cons.2 ⟨?_, ih hw.2⟩
        intro q hq
        have hm : q ∈ Map.del m n := List.mem_of_mem_head? hq
        exact Map.wf_lt h q (Map.mem_del hm)

theorem Map.find?_del {m : Map α} (n k : Nat) (h : Map.wf m = true) :
    (Map.del m n).find? k = if k = n then none else m.find? k := by
  induction m with
  | nil => simp [Map.del]
  | cons p m ih =>
    obtain ⟨j, x⟩ := p
    have hw := Map.wf_cons.1 h
    have hlt := Map.wf_lt h
    unfold Map.del
    split
    · subst_vars
      split
      · subst_vars; exact Map.find?_none_of_lt hlt
      · by_cases hk : k < j
        · have hj : k ≠ j := by omega
          simp only [Map.find?, hj, hk, if_true, if_false]
          exact Map.find?_none_of_lt fun p hp => Nat.lt_trans hk (hlt p hp)
        · simp [Map.find?, *]
    · split
      · split
        · subst_vars; simp [Map.find?, *]
        · rfl
      · simp only [Map.find?, ih hw.2]
        split
        · subst_vars
          rw [if_neg (by omega)]
        · split <;> split <;> simp_all

theorem Map.mem_set {m : Map α} {n : Nat} {y : α} {p : Nat × α} (h : p ∈ Map.set m n y) : p = (n, y) ∨ p ∈ m := by
  induction m with
  | nil => simpa [Map.set] using h
  | cons q m ih =>
    obtain ⟨k, x⟩ := q
    unfold Map.set at h
    split at h
    · cases List.mem_cons.1 h with
      | inl h1 => exact .inl h1
      | inr h1 => exact .inr (List.mem_cons_of_mem _ h1)
    · split at h
      · exact (List.mem_cons.1 h).imp id id
      · cases List.mem_cons.1 h with
        | inl h1 => simp [h1]
        | inr h1 => exact (ih h1).imp id (List.mem_cons_of_mem _)

/-! ### Memory -/

@[simp] theorem Memory.wf_nil : Memory.wf [] = true := rfl

theorem Memory.wf_put {m : Memory} (a : Nat) (x : Byte) (h : Memory.wf m = true) : Memory.wf (Memory.put m a x) = true := by
  simp only [Memory.wf, Bool.and_eq_true, List.all_eq_true] at h ⊢
  unfold Memory.put
  split
  · exact ⟨Map.wf_del a h.1, fun p hp => h.2 p (Map.mem_del hp)⟩
  · refine ⟨Map.wf_set a x h.1, fun p hp => ?_⟩
    rcases Map.mem_set hp with h1 | h1
    · subst h1; simpa
    · exact h.2 p h1

/-- A byte reads as it was written last. -/
theorem Memory.byte_put {m : Memory} (a b : Nat) (x : Byte) (h : Memory.wf m = true) :
    Memory.byte (Memory.put m a x) b = if b = a then x else Memory.byte m b := by
  simp only [Memory.wf, Bool.and_eq_true] at h
  unfold Memory.put Memory.byte Map.getD
  split
  · rw [Map.find?_del a b h.1]; split <;> simp_all
  · rw [Map.find?_set]; split <;> simp_all

theorem Memory.wf_write {m : Memory} (a n x : Nat) (h : Memory.wf m = true) : Memory.wf (Memory.write m a n x) = true := by
  induction n generalizing m a x with
  | zero => exact h
  | succ n ih => exact ih _ _ (Memory.wf_put a _ h)

theorem Memory.wf_writeBytes {m : Memory} (a : Nat) (bs : List Byte) (h : Memory.wf m = true) :
    Memory.wf (Memory.writeBytes m a bs) = true := by
  induction bs generalizing m a with
  | nil => exact h
  | cons x xs ih => exact ih _ (Memory.wf_put a x h)

/-- Bytes written read as they were written, and every other byte as before. -/
theorem Memory.byte_writeBytes {m : Memory} (a : Nat) (bs : List Byte) (b : Nat) (h : Memory.wf m = true) :
    Memory.byte (Memory.writeBytes m a bs) b
      = if a ≤ b ∧ b < a + bs.length then (bs[b - a]?).getD 0 else Memory.byte m b := by
  induction bs generalizing m a with
  | nil =>
    have h3 : ¬(a ≤ b ∧ b < a + ([] : List Byte).length) := by simp only [List.length_nil]; omega
    rw [if_neg h3]; rfl
  | cons x xs ih =>
    simp only [Memory.writeBytes, ih (a + 1) (Memory.wf_put a x h), Memory.byte_put a b x h, List.length_cons]
    by_cases h1 : b = a
    · subst h1
      have h2 : ¬(b + 1 ≤ b ∧ b < b + 1 + xs.length) := by omega
      have h3 : b ≤ b ∧ b < b + (xs.length + 1) := by omega
      rw [if_neg h2, if_pos h3, if_pos rfl, Nat.sub_self]; rfl
    · by_cases h2 : a + 1 ≤ b ∧ b < a + 1 + xs.length
      · have h3 : a ≤ b ∧ b < a + (xs.length + 1) := by omega
        have h4 : b - a = (b - (a + 1)) + 1 := by omega
        rw [if_pos h2, if_pos h3, h4]; rfl
      · have h3 : ¬(a ≤ b ∧ b < a + (xs.length + 1)) := by omega
        rw [if_neg h2, if_neg h3, if_neg h1]

/-- A filter keeps the canonical form. -/
theorem Memory.wf_filter {m : Memory} (f : Nat × Byte → Bool) (h : Memory.wf m = true) : Memory.wf (m.filter f) = true := by
  simp only [Memory.wf, Bool.and_eq_true, List.all_eq_true] at h ⊢
  refine ⟨?_, fun p hp => h.2 p ((List.mem_filter.1 hp).1)⟩
  have h1 := h.1
  clear h
  induction m with
  | nil => rfl
  | cons p m ih =>
    obtain ⟨k, x⟩ := p
    have hw := Map.wf_cons.1 h1
    by_cases hf : f (k, x) = true
    · rw [List.filter_cons_of_pos hf]
      exact Map.wf_cons.2 ⟨fun q hq => Map.wf_lt h1 q ((List.mem_filter.1 (List.mem_of_mem_head? hq)).1), ih hw.2⟩
    · rw [List.filter_cons_of_neg hf]; exact ih hw.2

/-! ### Numbers as bytes (R1) -/

@[simp] theorem length_bytesOf (x n : Nat) : (bytesOf x n).length = n := by
  induction n generalizing x with
  | zero => rfl
  | succ n ih => simp [bytesOf, ih]

theorem ofBytes_bytesOf (x n : Nat) : ofBytes (bytesOf x n) = x % 2 ^ (8 * n) := by
  induction n generalizing x with
  | zero => simp [bytesOf, ofBytes, Nat.mod_one]
  | succ n ih =>
    simp only [bytesOf, ofBytes, ih, BitVec.toNat_ofNat]
    rw [show 8 * (n + 1) = 8 + 8 * n by omega, Nat.pow_add, Nat.mod_mul]

end Sys2Proof.Machine
end

