-- ==== Sys2Proof/Laws/State.lean ====
section
/-! SUPPORT. What each update of the state leaves in each field: one lemma a field an update, so that no later proof
unfolds a record update. -/

namespace Sys2Proof.Machine.State

variable (s : State)

/-! ### `setDie` -/

@[simp] theorem agenda_setDie (d : Nat) (x : Die) : (s.setDie d x).agenda = s.agenda := rfl
@[simp] theorem epoch_setDie (d : Nat) (x : Die) : (s.setDie d x).epoch = s.epoch := rfl
@[simp] theorem subj_setDie (d : Nat) (x : Die) : (s.setDie d x).subj = s.subj := rfl
@[simp] theorem cur_setDie (d : Nat) (x : Die) : (s.setDie d x).cur = s.cur := rfl
@[simp] theorem issued_setDie (d : Nat) (x : Die) : (s.setDie d x).issued = s.issued := rfl
@[simp] theorem time_setDie (d : Nat) (x : Die) : (s.setDie d x).time = s.time := rfl
@[simp] theorem dev_setDie (d : Nat) (x : Die) : (s.setDie d x).dev = s.dev := rfl
@[simp] theorem mem_setDie (d : Nat) (x : Die) : (s.setDie d x).mem = s.mem := rfl
@[simp] theorem bad_setDie (d : Nat) (x : Die) : (s.setDie d x).bad = s.bad := rfl
@[simp] theorem hostL2_setDie (d : Nat) (x : Die) : (s.setDie d x).hostL2 = s.hostL2 := rfl
@[simp] theorem via_setDie (d : Nat) (x : Die) : (s.setDie d x).via = s.via := rfl
@[simp] theorem late_setDie (d : Nat) (x : Die) : (s.setDie d x).late = s.late := rfl
@[simp] theorem lost_setDie (d : Nat) (x : Die) : (s.setDie d x).lost = s.lost := rfl
@[simp] theorem cores_setDie (d : Nat) (x : Die) : (s.setDie d x).cores = s.cores := rfl
@[simp] theorem waves_setDie (d : Nat) (x : Die) : (s.setDie d x).waves = s.waves := rfl
@[simp] theorem teams_setDie (d : Nat) (x : Die) : (s.setDie d x).teams = s.teams := rfl
@[simp] theorem launches_setDie (d : Nat) (x : Die) : (s.setDie d x).launches = s.launches := rfl
@[simp] theorem txs_setDie (d : Nat) (x : Die) : (s.setDie d x).txs = s.txs := rfl
@[simp] theorem cmds_setDie (d : Nat) (x : Die) : (s.setDie d x).cmds = s.cmds := rfl
@[simp] theorem claims_setDie (d : Nat) (x : Die) : (s.setDie d x).claims = s.claims := rfl
@[simp] theorem walks_setDie (d : Nat) (x : Die) : (s.setDie d x).walks = s.walks := rfl
@[simp] theorem walking_setDie (d : Nat) (x : Die) : (s.setDie d x).walking = s.walking := rfl
@[simp] theorem msgs_setDie (d : Nat) (x : Die) : (s.setDie d x).msgs = s.msgs := rfl
@[simp] theorem queues_setDie (d : Nat) (x : Die) : (s.setDie d x).queues = s.queues := rfl
@[simp] theorem seen_setDie (d : Nat) (x : Die) : (s.setDie d x).seen = s.seen := rfl
@[simp] theorem serial_setDie (d : Nat) (x : Die) : (s.setDie d x).serial = s.serial := rfl
@[simp] theorem fresh_setDie (d : Nat) (x : Die) : (s.setDie d x).fresh = s.fresh := rfl
@[simp] theorem launched_setDie (d : Nat) (x : Die) : (s.setDie d x).launched = s.launched := rfl
@[simp] theorem port_setDie (d : Nat) (x : Die) : (s.setDie d x).port = s.port := rfl
@[simp] theorem down_setDie (d : Nat) (x : Die) : (s.setDie d x).down = s.down := rfl
@[simp] theorem out_setDie (d : Nat) (x : Die) : (s.setDie d x).out = s.out := rfl
@[simp] theorem fwHash_setDie (d : Nat) (x : Die) : (s.setDie d x).fwHash = s.fwHash := rfl
@[simp] theorem svns_setDie (d : Nat) (x : Die) : (s.setDie d x).svns = s.svns := rfl
@[simp] theorem floors_setDie (d : Nat) (x : Die) : (s.setDie d x).floors = s.floors := rfl
@[simp] theorem replay_setDie (d : Nat) (x : Die) : (s.setDie d x).replay = s.replay := rfl

/-! ### `setCore` -/

@[simp] theorem agenda_setCore (c : Nat) (x : Core) : (s.setCore c x).agenda = s.agenda := rfl
@[simp] theorem epoch_setCore (c : Nat) (x : Core) : (s.setCore c x).epoch = s.epoch := rfl
@[simp] theorem subj_setCore (c : Nat) (x : Core) : (s.setCore c x).subj = s.subj := rfl
@[simp] theorem cur_setCore (c : Nat) (x : Core) : (s.setCore c x).cur = s.cur := rfl
@[simp] theorem issued_setCore (c : Nat) (x : Core) : (s.setCore c x).issued = s.issued := rfl
@[simp] theorem time_setCore (c : Nat) (x : Core) : (s.setCore c x).time = s.time := rfl
@[simp] theorem dev_setCore (c : Nat) (x : Core) : (s.setCore c x).dev = s.dev := rfl
@[simp] theorem mem_setCore (c : Nat) (x : Core) : (s.setCore c x).mem = s.mem := rfl
@[simp] theorem bad_setCore (c : Nat) (x : Core) : (s.setCore c x).bad = s.bad := rfl
@[simp] theorem hostL2_setCore (c : Nat) (x : Core) : (s.setCore c x).hostL2 = s.hostL2 := rfl
@[simp] theorem via_setCore (c : Nat) (x : Core) : (s.setCore c x).via = s.via := rfl
@[simp] theorem late_setCore (c : Nat) (x : Core) : (s.setCore c x).late = s.late := rfl
@[simp] theorem lost_setCore (c : Nat) (x : Core) : (s.setCore c x).lost = s.lost := rfl
@[simp] theorem dies_setCore (c : Nat) (x : Core) : (s.setCore c x).dies = s.dies := rfl
@[simp] theorem waves_setCore (c : Nat) (x : Core) : (s.setCore c x).waves = s.waves := rfl
@[simp] theorem teams_setCore (c : Nat) (x : Core) : (s.setCore c x).teams = s.teams := rfl
@[simp] theorem launches_setCore (c : Nat) (x : Core) : (s.setCore c x).launches = s.launches := rfl
@[simp] theorem txs_setCore (c : Nat) (x : Core) : (s.setCore c x).txs = s.txs := rfl
@[simp] theorem cmds_setCore (c : Nat) (x : Core) : (s.setCore c x).cmds = s.cmds := rfl
@[simp] theorem claims_setCore (c : Nat) (x : Core) : (s.setCore c x).claims = s.claims := rfl
@[simp] theorem walks_setCore (c : Nat) (x : Core) : (s.setCore c x).walks = s.walks := rfl
@[simp] theorem walking_setCore (c : Nat) (x : Core) : (s.setCore c x).walking = s.walking := rfl
@[simp] theorem msgs_setCore (c : Nat) (x : Core) : (s.setCore c x).msgs = s.msgs := rfl
@[simp] theorem queues_setCore (c : Nat) (x : Core) : (s.setCore c x).queues = s.queues := rfl
@[simp] theorem seen_setCore (c : Nat) (x : Core) : (s.setCore c x).seen = s.seen := rfl
@[simp] theorem serial_setCore (c : Nat) (x : Core) : (s.setCore c x).serial = s.serial := rfl
@[simp] theorem fresh_setCore (c : Nat) (x : Core) : (s.setCore c x).fresh = s.fresh := rfl
@[simp] theorem launched_setCore (c : Nat) (x : Core) : (s.setCore c x).launched = s.launched := rfl
@[simp] theorem port_setCore (c : Nat) (x : Core) : (s.setCore c x).port = s.port := rfl
@[simp] theorem down_setCore (c : Nat) (x : Core) : (s.setCore c x).down = s.down := rfl
@[simp] theorem out_setCore (c : Nat) (x : Core) : (s.setCore c x).out = s.out := rfl
@[simp] theorem fwHash_setCore (c : Nat) (x : Core) : (s.setCore c x).fwHash = s.fwHash := rfl
@[simp] theorem svns_setCore (c : Nat) (x : Core) : (s.setCore c x).svns = s.svns := rfl
@[simp] theorem floors_setCore (c : Nat) (x : Core) : (s.setCore c x).floors = s.floors := rfl
@[simp] theorem replay_setCore (c : Nat) (x : Core) : (s.setCore c x).replay = s.replay := rfl

/-! ### `setWave` -/

@[simp] theorem agenda_setWave (k : Nat) (x : Wave) : (s.setWave k x).agenda = s.agenda := rfl
@[simp] theorem epoch_setWave (k : Nat) (x : Wave) : (s.setWave k x).epoch = s.epoch := rfl
@[simp] theorem subj_setWave (k : Nat) (x : Wave) : (s.setWave k x).subj = s.subj := rfl
@[simp] theorem cur_setWave (k : Nat) (x : Wave) : (s.setWave k x).cur = s.cur := rfl
@[simp] theorem issued_setWave (k : Nat) (x : Wave) : (s.setWave k x).issued = s.issued := rfl
@[simp] theorem time_setWave (k : Nat) (x : Wave) : (s.setWave k x).time = s.time := rfl
@[simp] theorem dev_setWave (k : Nat) (x : Wave) : (s.setWave k x).dev = s.dev := rfl
@[simp] theorem mem_setWave (k : Nat) (x : Wave) : (s.setWave k x).mem = s.mem := rfl
@[simp] theorem bad_setWave (k : Nat) (x : Wave) : (s.setWave k x).bad = s.bad := rfl
@[simp] theorem hostL2_setWave (k : Nat) (x : Wave) : (s.setWave k x).hostL2 = s.hostL2 := rfl
@[simp] theorem via_setWave (k : Nat) (x : Wave) : (s.setWave k x).via = s.via := rfl
@[simp] theorem late_setWave (k : Nat) (x : Wave) : (s.setWave k x).late = s.late := rfl
@[simp] theorem lost_setWave (k : Nat) (x : Wave) : (s.setWave k x).lost = s.lost := rfl
@[simp] theorem dies_setWave (k : Nat) (x : Wave) : (s.setWave k x).dies = s.dies := rfl
@[simp] theorem cores_setWave (k : Nat) (x : Wave) : (s.setWave k x).cores = s.cores := rfl
@[simp] theorem teams_setWave (k : Nat) (x : Wave) : (s.setWave k x).teams = s.teams := rfl
@[simp] theorem launches_setWave (k : Nat) (x : Wave) : (s.setWave k x).launches = s.launches := rfl
@[simp] theorem txs_setWave (k : Nat) (x : Wave) : (s.setWave k x).txs = s.txs := rfl
@[simp] theorem cmds_setWave (k : Nat) (x : Wave) : (s.setWave k x).cmds = s.cmds := rfl
@[simp] theorem claims_setWave (k : Nat) (x : Wave) : (s.setWave k x).claims = s.claims := rfl
@[simp] theorem walks_setWave (k : Nat) (x : Wave) : (s.setWave k x).walks = s.walks := rfl
@[simp] theorem walking_setWave (k : Nat) (x : Wave) : (s.setWave k x).walking = s.walking := rfl
@[simp] theorem msgs_setWave (k : Nat) (x : Wave) : (s.setWave k x).msgs = s.msgs := rfl
@[simp] theorem queues_setWave (k : Nat) (x : Wave) : (s.setWave k x).queues = s.queues := rfl
@[simp] theorem seen_setWave (k : Nat) (x : Wave) : (s.setWave k x).seen = s.seen := rfl
@[simp] theorem serial_setWave (k : Nat) (x : Wave) : (s.setWave k x).serial = s.serial := rfl
@[simp] theorem fresh_setWave (k : Nat) (x : Wave) : (s.setWave k x).fresh = s.fresh := rfl
@[simp] theorem launched_setWave (k : Nat) (x : Wave) : (s.setWave k x).launched = s.launched := rfl
@[simp] theorem port_setWave (k : Nat) (x : Wave) : (s.setWave k x).port = s.port := rfl
@[simp] theorem down_setWave (k : Nat) (x : Wave) : (s.setWave k x).down = s.down := rfl
@[simp] theorem out_setWave (k : Nat) (x : Wave) : (s.setWave k x).out = s.out := rfl
@[simp] theorem fwHash_setWave (k : Nat) (x : Wave) : (s.setWave k x).fwHash = s.fwHash := rfl
@[simp] theorem svns_setWave (k : Nat) (x : Wave) : (s.setWave k x).svns = s.svns := rfl
@[simp] theorem floors_setWave (k : Nat) (x : Wave) : (s.setWave k x).floors = s.floors := rfl
@[simp] theorem replay_setWave (k : Nat) (x : Wave) : (s.setWave k x).replay = s.replay := rfl

/-! ### `setTeam` -/

@[simp] theorem agenda_setTeam (n : Nat) (x : Team) : (s.setTeam n x).agenda = s.agenda := rfl
@[simp] theorem epoch_setTeam (n : Nat) (x : Team) : (s.setTeam n x).epoch = s.epoch := rfl
@[simp] theorem subj_setTeam (n : Nat) (x : Team) : (s.setTeam n x).subj = s.subj := rfl
@[simp] theorem cur_setTeam (n : Nat) (x : Team) : (s.setTeam n x).cur = s.cur := rfl
@[simp] theorem issued_setTeam (n : Nat) (x : Team) : (s.setTeam n x).issued = s.issued := rfl
@[simp] theorem time_setTeam (n : Nat) (x : Team) : (s.setTeam n x).time = s.time := rfl
@[simp] theorem dev_setTeam (n : Nat) (x : Team) : (s.setTeam n x).dev = s.dev := rfl
@[simp] theorem mem_setTeam (n : Nat) (x : Team) : (s.setTeam n x).mem = s.mem := rfl
@[simp] theorem bad_setTeam (n : Nat) (x : Team) : (s.setTeam n x).bad = s.bad := rfl
@[simp] theorem hostL2_setTeam (n : Nat) (x : Team) : (s.setTeam n x).hostL2 = s.hostL2 := rfl
@[simp] theorem via_setTeam (n : Nat) (x : Team) : (s.setTeam n x).via = s.via := rfl
@[simp] theorem late_setTeam (n : Nat) (x : Team) : (s.setTeam n x).late = s.late := rfl
@[simp] theorem lost_setTeam (n : Nat) (x : Team) : (s.setTeam n x).lost = s.lost := rfl
@[simp] theorem dies_setTeam (n : Nat) (x : Team) : (s.setTeam n x).dies = s.dies := rfl
@[simp] theorem cores_setTeam (n : Nat) (x : Team) : (s.setTeam n x).cores = s.cores := rfl
@[simp] theorem waves_setTeam (n : Nat) (x : Team) : (s.setTeam n x).waves = s.waves := rfl
@[simp] theorem launches_setTeam (n : Nat) (x : Team) : (s.setTeam n x).launches = s.launches := rfl
@[simp] theorem txs_setTeam (n : Nat) (x : Team) : (s.setTeam n x).txs = s.txs := rfl
@[simp] theorem cmds_setTeam (n : Nat) (x : Team) : (s.setTeam n x).cmds = s.cmds := rfl
@[simp] theorem claims_setTeam (n : Nat) (x : Team) : (s.setTeam n x).claims = s.claims := rfl
@[simp] theorem walks_setTeam (n : Nat) (x : Team) : (s.setTeam n x).walks = s.walks := rfl
@[simp] theorem walking_setTeam (n : Nat) (x : Team) : (s.setTeam n x).walking = s.walking := rfl
@[simp] theorem msgs_setTeam (n : Nat) (x : Team) : (s.setTeam n x).msgs = s.msgs := rfl
@[simp] theorem queues_setTeam (n : Nat) (x : Team) : (s.setTeam n x).queues = s.queues := rfl
@[simp] theorem seen_setTeam (n : Nat) (x : Team) : (s.setTeam n x).seen = s.seen := rfl
@[simp] theorem serial_setTeam (n : Nat) (x : Team) : (s.setTeam n x).serial = s.serial := rfl
@[simp] theorem fresh_setTeam (n : Nat) (x : Team) : (s.setTeam n x).fresh = s.fresh := rfl
@[simp] theorem launched_setTeam (n : Nat) (x : Team) : (s.setTeam n x).launched = s.launched := rfl
@[simp] theorem port_setTeam (n : Nat) (x : Team) : (s.setTeam n x).port = s.port := rfl
@[simp] theorem down_setTeam (n : Nat) (x : Team) : (s.setTeam n x).down = s.down := rfl
@[simp] theorem out_setTeam (n : Nat) (x : Team) : (s.setTeam n x).out = s.out := rfl
@[simp] theorem fwHash_setTeam (n : Nat) (x : Team) : (s.setTeam n x).fwHash = s.fwHash := rfl
@[simp] theorem svns_setTeam (n : Nat) (x : Team) : (s.setTeam n x).svns = s.svns := rfl
@[simp] theorem floors_setTeam (n : Nat) (x : Team) : (s.setTeam n x).floors = s.floors := rfl
@[simp] theorem replay_setTeam (n : Nat) (x : Team) : (s.setTeam n x).replay = s.replay := rfl

/-! ### `setLaunch` -/

@[simp] theorem agenda_setLaunch (n : Nat) (x : Launch) : (s.setLaunch n x).agenda = s.agenda := rfl
@[simp] theorem epoch_setLaunch (n : Nat) (x : Launch) : (s.setLaunch n x).epoch = s.epoch := rfl
@[simp] theorem subj_setLaunch (n : Nat) (x : Launch) : (s.setLaunch n x).subj = s.subj := rfl
@[simp] theorem cur_setLaunch (n : Nat) (x : Launch) : (s.setLaunch n x).cur = s.cur := rfl
@[simp] theorem issued_setLaunch (n : Nat) (x : Launch) : (s.setLaunch n x).issued = s.issued := rfl
@[simp] theorem time_setLaunch (n : Nat) (x : Launch) : (s.setLaunch n x).time = s.time := rfl
@[simp] theorem dev_setLaunch (n : Nat) (x : Launch) : (s.setLaunch n x).dev = s.dev := rfl
@[simp] theorem mem_setLaunch (n : Nat) (x : Launch) : (s.setLaunch n x).mem = s.mem := rfl
@[simp] theorem bad_setLaunch (n : Nat) (x : Launch) : (s.setLaunch n x).bad = s.bad := rfl
@[simp] theorem hostL2_setLaunch (n : Nat) (x : Launch) : (s.setLaunch n x).hostL2 = s.hostL2 := rfl
@[simp] theorem via_setLaunch (n : Nat) (x : Launch) : (s.setLaunch n x).via = s.via := rfl
@[simp] theorem late_setLaunch (n : Nat) (x : Launch) : (s.setLaunch n x).late = s.late := rfl
@[simp] theorem lost_setLaunch (n : Nat) (x : Launch) : (s.setLaunch n x).lost = s.lost := rfl
@[simp] theorem dies_setLaunch (n : Nat) (x : Launch) : (s.setLaunch n x).dies = s.dies := rfl
@[simp] theorem cores_setLaunch (n : Nat) (x : Launch) : (s.setLaunch n x).cores = s.cores := rfl
@[simp] theorem waves_setLaunch (n : Nat) (x : Launch) : (s.setLaunch n x).waves = s.waves := rfl
@[simp] theorem teams_setLaunch (n : Nat) (x : Launch) : (s.setLaunch n x).teams = s.teams := rfl
@[simp] theorem txs_setLaunch (n : Nat) (x : Launch) : (s.setLaunch n x).txs = s.txs := rfl
@[simp] theorem cmds_setLaunch (n : Nat) (x : Launch) : (s.setLaunch n x).cmds = s.cmds := rfl
@[simp] theorem claims_setLaunch (n : Nat) (x : Launch) : (s.setLaunch n x).claims = s.claims := rfl
@[simp] theorem walks_setLaunch (n : Nat) (x : Launch) : (s.setLaunch n x).walks = s.walks := rfl
@[simp] theorem walking_setLaunch (n : Nat) (x : Launch) : (s.setLaunch n x).walking = s.walking := rfl
@[simp] theorem msgs_setLaunch (n : Nat) (x : Launch) : (s.setLaunch n x).msgs = s.msgs := rfl
@[simp] theorem queues_setLaunch (n : Nat) (x : Launch) : (s.setLaunch n x).queues = s.queues := rfl
@[simp] theorem seen_setLaunch (n : Nat) (x : Launch) : (s.setLaunch n x).seen = s.seen := rfl
@[simp] theorem serial_setLaunch (n : Nat) (x : Launch) : (s.setLaunch n x).serial = s.serial := rfl
@[simp] theorem fresh_setLaunch (n : Nat) (x : Launch) : (s.setLaunch n x).fresh = s.fresh := rfl
@[simp] theorem launched_setLaunch (n : Nat) (x : Launch) : (s.setLaunch n x).launched = s.launched := rfl
@[simp] theorem port_setLaunch (n : Nat) (x : Launch) : (s.setLaunch n x).port = s.port := rfl
@[simp] theorem down_setLaunch (n : Nat) (x : Launch) : (s.setLaunch n x).down = s.down := rfl
@[simp] theorem out_setLaunch (n : Nat) (x : Launch) : (s.setLaunch n x).out = s.out := rfl
@[simp] theorem fwHash_setLaunch (n : Nat) (x : Launch) : (s.setLaunch n x).fwHash = s.fwHash := rfl
@[simp] theorem svns_setLaunch (n : Nat) (x : Launch) : (s.setLaunch n x).svns = s.svns := rfl
@[simp] theorem floors_setLaunch (n : Nat) (x : Launch) : (s.setLaunch n x).floors = s.floors := rfl
@[simp] theorem replay_setLaunch (n : Nat) (x : Launch) : (s.setLaunch n x).replay = s.replay := rfl

/-! ### `updDie` -/

@[simp] theorem agenda_updDie (d : Nat) (f : Die → Die) : (s.updDie d f).agenda = s.agenda := rfl
@[simp] theorem epoch_updDie (d : Nat) (f : Die → Die) : (s.updDie d f).epoch = s.epoch := rfl
@[simp] theorem subj_updDie (d : Nat) (f : Die → Die) : (s.updDie d f).subj = s.subj := rfl
@[simp] theorem cur_updDie (d : Nat) (f : Die → Die) : (s.updDie d f).cur = s.cur := rfl
@[simp] theorem issued_updDie (d : Nat) (f : Die → Die) : (s.updDie d f).issued = s.issued := rfl
@[simp] theorem time_updDie (d : Nat) (f : Die → Die) : (s.updDie d f).time = s.time := rfl
@[simp] theorem dev_updDie (d : Nat) (f : Die → Die) : (s.updDie d f).dev = s.dev := rfl
@[simp] theorem mem_updDie (d : Nat) (f : Die → Die) : (s.updDie d f).mem = s.mem := rfl
@[simp] theorem bad_updDie (d : Nat) (f : Die → Die) : (s.updDie d f).bad = s.bad := rfl
@[simp] theorem hostL2_updDie (d : Nat) (f : Die → Die) : (s.updDie d f).hostL2 = s.hostL2 := rfl
@[simp] theorem via_updDie (d : Nat) (f : Die → Die) : (s.updDie d f).via = s.via := rfl
@[simp] theorem late_updDie (d : Nat) (f : Die → Die) : (s.updDie d f).late = s.late := rfl
@[simp] theorem lost_updDie (d : Nat) (f : Die → Die) : (s.updDie d f).lost = s.lost := rfl
@[simp] theorem cores_updDie (d : Nat) (f : Die → Die) : (s.updDie d f).cores = s.cores := rfl
@[simp] theorem waves_updDie (d : Nat) (f : Die → Die) : (s.updDie d f).waves = s.waves := rfl
@[simp] theorem teams_updDie (d : Nat) (f : Die → Die) : (s.updDie d f).teams = s.teams := rfl
@[simp] theorem launches_updDie (d : Nat) (f : Die → Die) : (s.updDie d f).launches = s.launches := rfl
@[simp] theorem txs_updDie (d : Nat) (f : Die → Die) : (s.updDie d f).txs = s.txs := rfl
@[simp] theorem cmds_updDie (d : Nat) (f : Die → Die) : (s.updDie d f).cmds = s.cmds := rfl
@[simp] theorem claims_updDie (d : Nat) (f : Die → Die) : (s.updDie d f).claims = s.claims := rfl
@[simp] theorem walks_updDie (d : Nat) (f : Die → Die) : (s.updDie d f).walks = s.walks := rfl
@[simp] theorem walking_updDie (d : Nat) (f : Die → Die) : (s.updDie d f).walking = s.walking := rfl
@[simp] theorem msgs_updDie (d : Nat) (f : Die → Die) : (s.updDie d f).msgs = s.msgs := rfl
@[simp] theorem queues_updDie (d : Nat) (f : Die → Die) : (s.updDie d f).queues = s.queues := rfl
@[simp] theorem seen_updDie (d : Nat) (f : Die → Die) : (s.updDie d f).seen = s.seen := rfl
@[simp] theorem serial_updDie (d : Nat) (f : Die → Die) : (s.updDie d f).serial = s.serial := rfl
@[simp] theorem fresh_updDie (d : Nat) (f : Die → Die) : (s.updDie d f).fresh = s.fresh := rfl
@[simp] theorem launched_updDie (d : Nat) (f : Die → Die) : (s.updDie d f).launched = s.launched := rfl
@[simp] theorem port_updDie (d : Nat) (f : Die → Die) : (s.updDie d f).port = s.port := rfl
@[simp] theorem down_updDie (d : Nat) (f : Die → Die) : (s.updDie d f).down = s.down := rfl
@[simp] theorem out_updDie (d : Nat) (f : Die → Die) : (s.updDie d f).out = s.out := rfl
@[simp] theorem fwHash_updDie (d : Nat) (f : Die → Die) : (s.updDie d f).fwHash = s.fwHash := rfl
@[simp] theorem svns_updDie (d : Nat) (f : Die → Die) : (s.updDie d f).svns = s.svns := rfl
@[simp] theorem floors_updDie (d : Nat) (f : Die → Die) : (s.updDie d f).floors = s.floors := rfl
@[simp] theorem replay_updDie (d : Nat) (f : Die → Die) : (s.updDie d f).replay = s.replay := rfl

/-! ### `updCore` -/

@[simp] theorem agenda_updCore (c : Nat) (f : Core → Core) : (s.updCore c f).agenda = s.agenda := rfl
@[simp] theorem epoch_updCore (c : Nat) (f : Core → Core) : (s.updCore c f).epoch = s.epoch := rfl
@[simp] theorem subj_updCore (c : Nat) (f : Core → Core) : (s.updCore c f).subj = s.subj := rfl
@[simp] theorem cur_updCore (c : Nat) (f : Core → Core) : (s.updCore c f).cur = s.cur := rfl
@[simp] theorem issued_updCore (c : Nat) (f : Core → Core) : (s.updCore c f).issued = s.issued := rfl
@[simp] theorem time_updCore (c : Nat) (f : Core → Core) : (s.updCore c f).time = s.time := rfl
@[simp] theorem dev_updCore (c : Nat) (f : Core → Core) : (s.updCore c f).dev = s.dev := rfl
@[simp] theorem mem_updCore (c : Nat) (f : Core → Core) : (s.updCore c f).mem = s.mem := rfl
@[simp] theorem bad_updCore (c : Nat) (f : Core → Core) : (s.updCore c f).bad = s.bad := rfl
@[simp] theorem hostL2_updCore (c : Nat) (f : Core → Core) : (s.updCore c f).hostL2 = s.hostL2 := rfl
@[simp] theorem via_updCore (c : Nat) (f : Core → Core) : (s.updCore c f).via = s.via := rfl
@[simp] theorem late_updCore (c : Nat) (f : Core → Core) : (s.updCore c f).late = s.late := rfl
@[simp] theorem lost_updCore (c : Nat) (f : Core → Core) : (s.updCore c f).lost = s.lost := rfl
@[simp] theorem dies_updCore (c : Nat) (f : Core → Core) : (s.updCore c f).dies = s.dies := rfl
@[simp] theorem waves_updCore (c : Nat) (f : Core → Core) : (s.updCore c f).waves = s.waves := rfl
@[simp] theorem teams_updCore (c : Nat) (f : Core → Core) : (s.updCore c f).teams = s.teams := rfl
@[simp] theorem launches_updCore (c : Nat) (f : Core → Core) : (s.updCore c f).launches = s.launches := rfl
@[simp] theorem txs_updCore (c : Nat) (f : Core → Core) : (s.updCore c f).txs = s.txs := rfl
@[simp] theorem cmds_updCore (c : Nat) (f : Core → Core) : (s.updCore c f).cmds = s.cmds := rfl
@[simp] theorem claims_updCore (c : Nat) (f : Core → Core) : (s.updCore c f).claims = s.claims := rfl
@[simp] theorem walks_updCore (c : Nat) (f : Core → Core) : (s.updCore c f).walks = s.walks := rfl
@[simp] theorem walking_updCore (c : Nat) (f : Core → Core) : (s.updCore c f).walking = s.walking := rfl
@[simp] theorem msgs_updCore (c : Nat) (f : Core → Core) : (s.updCore c f).msgs = s.msgs := rfl
@[simp] theorem queues_updCore (c : Nat) (f : Core → Core) : (s.updCore c f).queues = s.queues := rfl
@[simp] theorem seen_updCore (c : Nat) (f : Core → Core) : (s.updCore c f).seen = s.seen := rfl
@[simp] theorem serial_updCore (c : Nat) (f : Core → Core) : (s.updCore c f).serial = s.serial := rfl
@[simp] theorem fresh_updCore (c : Nat) (f : Core → Core) : (s.updCore c f).fresh = s.fresh := rfl
@[simp] theorem launched_updCore (c : Nat) (f : Core → Core) : (s.updCore c f).launched = s.launched := rfl
@[simp] theorem port_updCore (c : Nat) (f : Core → Core) : (s.updCore c f).port = s.port := rfl
@[simp] theorem down_updCore (c : Nat) (f : Core → Core) : (s.updCore c f).down = s.down := rfl
@[simp] theorem out_updCore (c : Nat) (f : Core → Core) : (s.updCore c f).out = s.out := rfl
@[simp] theorem fwHash_updCore (c : Nat) (f : Core → Core) : (s.updCore c f).fwHash = s.fwHash := rfl
@[simp] theorem svns_updCore (c : Nat) (f : Core → Core) : (s.updCore c f).svns = s.svns := rfl
@[simp] theorem floors_updCore (c : Nat) (f : Core → Core) : (s.updCore c f).floors = s.floors := rfl
@[simp] theorem replay_updCore (c : Nat) (f : Core → Core) : (s.updCore c f).replay = s.replay := rfl

/-! ### `updWave` -/

@[simp] theorem agenda_updWave (k : Nat) (f : Wave → Wave) : (s.updWave k f).agenda = s.agenda := by
  unfold updWave; split <;> rfl
@[simp] theorem epoch_updWave (k : Nat) (f : Wave → Wave) : (s.updWave k f).epoch = s.epoch := by
  unfold updWave; split <;> rfl
@[simp] theorem subj_updWave (k : Nat) (f : Wave → Wave) : (s.updWave k f).subj = s.subj := by
  unfold updWave; split <;> rfl
@[simp] theorem cur_updWave (k : Nat) (f : Wave → Wave) : (s.updWave k f).cur = s.cur := by
  unfold updWave; split <;> rfl
@[simp] theorem issued_updWave (k : Nat) (f : Wave → Wave) : (s.updWave k f).issued = s.issued := by
  unfold updWave; split <;> rfl
@[simp] theorem time_updWave (k : Nat) (f : Wave → Wave) : (s.updWave k f).time = s.time := by
  unfold updWave; split <;> rfl
@[simp] theorem dev_updWave (k : Nat) (f : Wave → Wave) : (s.updWave k f).dev = s.dev := by
  unfold updWave; split <;> rfl
@[simp] theorem mem_updWave (k : Nat) (f : Wave → Wave) : (s.updWave k f).mem = s.mem := by
  unfold updWave; split <;> rfl
@[simp] theorem bad_updWave (k : Nat) (f : Wave → Wave) : (s.updWave k f).bad = s.bad := by
  unfold updWave; split <;> rfl
@[simp] theorem hostL2_updWave (k : Nat) (f : Wave → Wave) : (s.updWave k f).hostL2 = s.hostL2 := by
  unfold updWave; split <;> rfl
@[simp] theorem via_updWave (k : Nat) (f : Wave → Wave) : (s.updWave k f).via = s.via := by
  unfold updWave; split <;> rfl
@[simp] theorem late_updWave (k : Nat) (f : Wave → Wave) : (s.updWave k f).late = s.late := by
  unfold updWave; split <;> rfl
@[simp] theorem lost_updWave (k : Nat) (f : Wave → Wave) : (s.updWave k f).lost = s.lost := by
  unfold updWave; split <;> rfl
@[simp] theorem dies_updWave (k : Nat) (f : Wave → Wave) : (s.updWave k f).dies = s.dies := by
  unfold updWave; split <;> rfl
@[simp] theorem cores_updWave (k : Nat) (f : Wave → Wave) : (s.updWave k f).cores = s.cores := by
  unfold updWave; split <;> rfl
@[simp] theorem teams_updWave (k : Nat) (f : Wave → Wave) : (s.updWave k f).teams = s.teams := by
  unfold updWave; split <;> rfl
@[simp] theorem launches_updWave (k : Nat) (f : Wave → Wave) : (s.updWave k f).launches = s.launches := by
  unfold updWave; split <;> rfl
@[simp] theorem txs_updWave (k : Nat) (f : Wave → Wave) : (s.updWave k f).txs = s.txs := by
  unfold updWave; split <;> rfl
@[simp] theorem cmds_updWave (k : Nat) (f : Wave → Wave) : (s.updWave k f).cmds = s.cmds := by
  unfold updWave; split <;> rfl
@[simp] theorem claims_updWave (k : Nat) (f : Wave → Wave) : (s.updWave k f).claims = s.claims := by
  unfold updWave; split <;> rfl
@[simp] theorem walks_updWave (k : Nat) (f : Wave → Wave) : (s.updWave k f).walks = s.walks := by
  unfold updWave; split <;> rfl
@[simp] theorem walking_updWave (k : Nat) (f : Wave → Wave) : (s.updWave k f).walking = s.walking := by
  unfold updWave; split <;> rfl
@[simp] theorem msgs_updWave (k : Nat) (f : Wave → Wave) : (s.updWave k f).msgs = s.msgs := by
  unfold updWave; split <;> rfl
@[simp] theorem queues_updWave (k : Nat) (f : Wave → Wave) : (s.updWave k f).queues = s.queues := by
  unfold updWave; split <;> rfl
@[simp] theorem seen_updWave (k : Nat) (f : Wave → Wave) : (s.updWave k f).seen = s.seen := by
  unfold updWave; split <;> rfl
@[simp] theorem serial_updWave (k : Nat) (f : Wave → Wave) : (s.updWave k f).serial = s.serial := by
  unfold updWave; split <;> rfl
@[simp] theorem fresh_updWave (k : Nat) (f : Wave → Wave) : (s.updWave k f).fresh = s.fresh := by
  unfold updWave; split <;> rfl
@[simp] theorem launched_updWave (k : Nat) (f : Wave → Wave) : (s.updWave k f).launched = s.launched := by
  unfold updWave; split <;> rfl
@[simp] theorem port_updWave (k : Nat) (f : Wave → Wave) : (s.updWave k f).port = s.port := by
  unfold updWave; split <;> rfl
@[simp] theorem down_updWave (k : Nat) (f : Wave → Wave) : (s.updWave k f).down = s.down := by
  unfold updWave; split <;> rfl
@[simp] theorem out_updWave (k : Nat) (f : Wave → Wave) : (s.updWave k f).out = s.out := by
  unfold updWave; split <;> rfl
@[simp] theorem fwHash_updWave (k : Nat) (f : Wave → Wave) : (s.updWave k f).fwHash = s.fwHash := by
  unfold updWave; split <;> rfl
@[simp] theorem svns_updWave (k : Nat) (f : Wave → Wave) : (s.updWave k f).svns = s.svns := by
  unfold updWave; split <;> rfl
@[simp] theorem floors_updWave (k : Nat) (f : Wave → Wave) : (s.updWave k f).floors = s.floors := by
  unfold updWave; split <;> rfl
@[simp] theorem replay_updWave (k : Nat) (f : Wave → Wave) : (s.updWave k f).replay = s.replay := by
  unfold updWave; split <;> rfl

/-! ### `updTeam` -/

@[simp] theorem agenda_updTeam (n : Nat) (f : Team → Team) : (s.updTeam n f).agenda = s.agenda := by
  unfold updTeam; split <;> rfl
@[simp] theorem epoch_updTeam (n : Nat) (f : Team → Team) : (s.updTeam n f).epoch = s.epoch := by
  unfold updTeam; split <;> rfl
@[simp] theorem subj_updTeam (n : Nat) (f : Team → Team) : (s.updTeam n f).subj = s.subj := by
  unfold updTeam; split <;> rfl
@[simp] theorem cur_updTeam (n : Nat) (f : Team → Team) : (s.updTeam n f).cur = s.cur := by
  unfold updTeam; split <;> rfl
@[simp] theorem issued_updTeam (n : Nat) (f : Team → Team) : (s.updTeam n f).issued = s.issued := by
  unfold updTeam; split <;> rfl
@[simp] theorem time_updTeam (n : Nat) (f : Team → Team) : (s.updTeam n f).time = s.time := by
  unfold updTeam; split <;> rfl
@[simp] theorem dev_updTeam (n : Nat) (f : Team → Team) : (s.updTeam n f).dev = s.dev := by
  unfold updTeam; split <;> rfl
@[simp] theorem mem_updTeam (n : Nat) (f : Team → Team) : (s.updTeam n f).mem = s.mem := by
  unfold updTeam; split <;> rfl
@[simp] theorem bad_updTeam (n : Nat) (f : Team → Team) : (s.updTeam n f).bad = s.bad := by
  unfold updTeam; split <;> rfl
@[simp] theorem hostL2_updTeam (n : Nat) (f : Team → Team) : (s.updTeam n f).hostL2 = s.hostL2 := by
  unfold updTeam; split <;> rfl
@[simp] theorem via_updTeam (n : Nat) (f : Team → Team) : (s.updTeam n f).via = s.via := by
  unfold updTeam; split <;> rfl
@[simp] theorem late_updTeam (n : Nat) (f : Team → Team) : (s.updTeam n f).late = s.late := by
  unfold updTeam; split <;> rfl
@[simp] theorem lost_updTeam (n : Nat) (f : Team → Team) : (s.updTeam n f).lost = s.lost := by
  unfold updTeam; split <;> rfl
@[simp] theorem dies_updTeam (n : Nat) (f : Team → Team) : (s.updTeam n f).dies = s.dies := by
  unfold updTeam; split <;> rfl
@[simp] theorem cores_updTeam (n : Nat) (f : Team → Team) : (s.updTeam n f).cores = s.cores := by
  unfold updTeam; split <;> rfl
@[simp] theorem waves_updTeam (n : Nat) (f : Team → Team) : (s.updTeam n f).waves = s.waves := by
  unfold updTeam; split <;> rfl
@[simp] theorem launches_updTeam (n : Nat) (f : Team → Team) : (s.updTeam n f).launches = s.launches := by
  unfold updTeam; split <;> rfl
@[simp] theorem txs_updTeam (n : Nat) (f : Team → Team) : (s.updTeam n f).txs = s.txs := by
  unfold updTeam; split <;> rfl
@[simp] theorem cmds_updTeam (n : Nat) (f : Team → Team) : (s.updTeam n f).cmds = s.cmds := by
  unfold updTeam; split <;> rfl
@[simp] theorem claims_updTeam (n : Nat) (f : Team → Team) : (s.updTeam n f).claims = s.claims := by
  unfold updTeam; split <;> rfl
@[simp] theorem walks_updTeam (n : Nat) (f : Team → Team) : (s.updTeam n f).walks = s.walks := by
  unfold updTeam; split <;> rfl
@[simp] theorem walking_updTeam (n : Nat) (f : Team → Team) : (s.updTeam n f).walking = s.walking := by
  unfold updTeam; split <;> rfl
@[simp] theorem msgs_updTeam (n : Nat) (f : Team → Team) : (s.updTeam n f).msgs = s.msgs := by
  unfold updTeam; split <;> rfl
@[simp] theorem queues_updTeam (n : Nat) (f : Team → Team) : (s.updTeam n f).queues = s.queues := by
  unfold updTeam; split <;> rfl
@[simp] theorem seen_updTeam (n : Nat) (f : Team → Team) : (s.updTeam n f).seen = s.seen := by
  unfold updTeam; split <;> rfl
@[simp] theorem serial_updTeam (n : Nat) (f : Team → Team) : (s.updTeam n f).serial = s.serial := by
  unfold updTeam; split <;> rfl
@[simp] theorem fresh_updTeam (n : Nat) (f : Team → Team) : (s.updTeam n f).fresh = s.fresh := by
  unfold updTeam; split <;> rfl
@[simp] theorem launched_updTeam (n : Nat) (f : Team → Team) : (s.updTeam n f).launched = s.launched := by
  unfold updTeam; split <;> rfl
@[simp] theorem port_updTeam (n : Nat) (f : Team → Team) : (s.updTeam n f).port = s.port := by
  unfold updTeam; split <;> rfl
@[simp] theorem down_updTeam (n : Nat) (f : Team → Team) : (s.updTeam n f).down = s.down := by
  unfold updTeam; split <;> rfl
@[simp] theorem out_updTeam (n : Nat) (f : Team → Team) : (s.updTeam n f).out = s.out := by
  unfold updTeam; split <;> rfl
@[simp] theorem fwHash_updTeam (n : Nat) (f : Team → Team) : (s.updTeam n f).fwHash = s.fwHash := by
  unfold updTeam; split <;> rfl
@[simp] theorem svns_updTeam (n : Nat) (f : Team → Team) : (s.updTeam n f).svns = s.svns := by
  unfold updTeam; split <;> rfl
@[simp] theorem floors_updTeam (n : Nat) (f : Team → Team) : (s.updTeam n f).floors = s.floors := by
  unfold updTeam; split <;> rfl
@[simp] theorem replay_updTeam (n : Nat) (f : Team → Team) : (s.updTeam n f).replay = s.replay := by
  unfold updTeam; split <;> rfl

/-! ### `updLaunch` -/

@[simp] theorem agenda_updLaunch (n : Nat) (f : Launch → Launch) : (s.updLaunch n f).agenda = s.agenda := by
  unfold updLaunch; split <;> rfl
@[simp] theorem epoch_updLaunch (n : Nat) (f : Launch → Launch) : (s.updLaunch n f).epoch = s.epoch := by
  unfold updLaunch; split <;> rfl
@[simp] theorem subj_updLaunch (n : Nat) (f : Launch → Launch) : (s.updLaunch n f).subj = s.subj := by
  unfold updLaunch; split <;> rfl
@[simp] theorem cur_updLaunch (n : Nat) (f : Launch → Launch) : (s.updLaunch n f).cur = s.cur := by
  unfold updLaunch; split <;> rfl
@[simp] theorem issued_updLaunch (n : Nat) (f : Launch → Launch) : (s.updLaunch n f).issued = s.issued := by
  unfold updLaunch; split <;> rfl
@[simp] theorem time_updLaunch (n : Nat) (f : Launch → Launch) : (s.updLaunch n f).time = s.time := by
  unfold updLaunch; split <;> rfl
@[simp] theorem dev_updLaunch (n : Nat) (f : Launch → Launch) : (s.updLaunch n f).dev = s.dev := by
  unfold updLaunch; split <;> rfl
@[simp] theorem mem_updLaunch (n : Nat) (f : Launch → Launch) : (s.updLaunch n f).mem = s.mem := by
  unfold updLaunch; split <;> rfl
@[simp] theorem bad_updLaunch (n : Nat) (f : Launch → Launch) : (s.updLaunch n f).bad = s.bad := by
  unfold updLaunch; split <;> rfl
@[simp] theorem hostL2_updLaunch (n : Nat) (f : Launch → Launch) : (s.updLaunch n f).hostL2 = s.hostL2 := by
  unfold updLaunch; split <;> rfl
@[simp] theorem via_updLaunch (n : Nat) (f : Launch → Launch) : (s.updLaunch n f).via = s.via := by
  unfold updLaunch; split <;> rfl
@[simp] theorem late_updLaunch (n : Nat) (f : Launch → Launch) : (s.updLaunch n f).late = s.late := by
  unfold updLaunch; split <;> rfl
@[simp] theorem lost_updLaunch (n : Nat) (f : Launch → Launch) : (s.updLaunch n f).lost = s.lost := by
  unfold updLaunch; split <;> rfl
@[simp] theorem dies_updLaunch (n : Nat) (f : Launch → Launch) : (s.updLaunch n f).dies = s.dies := by
  unfold updLaunch; split <;> rfl
@[simp] theorem cores_updLaunch (n : Nat) (f : Launch → Launch) : (s.updLaunch n f).cores = s.cores := by
  unfold updLaunch; split <;> rfl
@[simp] theorem waves_updLaunch (n : Nat) (f : Launch → Launch) : (s.updLaunch n f).waves = s.waves := by
  unfold updLaunch; split <;> rfl
@[simp] theorem teams_updLaunch (n : Nat) (f : Launch → Launch) : (s.updLaunch n f).teams = s.teams := by
  unfold updLaunch; split <;> rfl
@[simp] theorem txs_updLaunch (n : Nat) (f : Launch → Launch) : (s.updLaunch n f).txs = s.txs := by
  unfold updLaunch; split <;> rfl
@[simp] theorem cmds_updLaunch (n : Nat) (f : Launch → Launch) : (s.updLaunch n f).cmds = s.cmds := by
  unfold updLaunch; split <;> rfl
@[simp] theorem claims_updLaunch (n : Nat) (f : Launch → Launch) : (s.updLaunch n f).claims = s.claims := by
  unfold updLaunch; split <;> rfl
@[simp] theorem walks_updLaunch (n : Nat) (f : Launch → Launch) : (s.updLaunch n f).walks = s.walks := by
  unfold updLaunch; split <;> rfl
@[simp] theorem walking_updLaunch (n : Nat) (f : Launch → Launch) : (s.updLaunch n f).walking = s.walking := by
  unfold updLaunch; split <;> rfl
@[simp] theorem msgs_updLaunch (n : Nat) (f : Launch → Launch) : (s.updLaunch n f).msgs = s.msgs := by
  unfold updLaunch; split <;> rfl
@[simp] theorem queues_updLaunch (n : Nat) (f : Launch → Launch) : (s.updLaunch n f).queues = s.queues := by
  unfold updLaunch; split <;> rfl
@[simp] theorem seen_updLaunch (n : Nat) (f : Launch → Launch) : (s.updLaunch n f).seen = s.seen := by
  unfold updLaunch; split <;> rfl
@[simp] theorem serial_updLaunch (n : Nat) (f : Launch → Launch) : (s.updLaunch n f).serial = s.serial := by
  unfold updLaunch; split <;> rfl
@[simp] theorem fresh_updLaunch (n : Nat) (f : Launch → Launch) : (s.updLaunch n f).fresh = s.fresh := by
  unfold updLaunch; split <;> rfl
@[simp] theorem launched_updLaunch (n : Nat) (f : Launch → Launch) : (s.updLaunch n f).launched = s.launched := by
  unfold updLaunch; split <;> rfl
@[simp] theorem port_updLaunch (n : Nat) (f : Launch → Launch) : (s.updLaunch n f).port = s.port := by
  unfold updLaunch; split <;> rfl
@[simp] theorem down_updLaunch (n : Nat) (f : Launch → Launch) : (s.updLaunch n f).down = s.down := by
  unfold updLaunch; split <;> rfl
@[simp] theorem out_updLaunch (n : Nat) (f : Launch → Launch) : (s.updLaunch n f).out = s.out := by
  unfold updLaunch; split <;> rfl
@[simp] theorem fwHash_updLaunch (n : Nat) (f : Launch → Launch) : (s.updLaunch n f).fwHash = s.fwHash := by
  unfold updLaunch; split <;> rfl
@[simp] theorem svns_updLaunch (n : Nat) (f : Launch → Launch) : (s.updLaunch n f).svns = s.svns := by
  unfold updLaunch; split <;> rfl
@[simp] theorem floors_updLaunch (n : Nat) (f : Launch → Launch) : (s.updLaunch n f).floors = s.floors := by
  unfold updLaunch; split <;> rfl
@[simp] theorem replay_updLaunch (n : Nat) (f : Launch → Launch) : (s.updLaunch n f).replay = s.replay := by
  unfold updLaunch; split <;> rfl

/-! ### `updWaveAt` -/

@[simp] theorem agenda_updWaveAt (k n : Nat) (f : Wave → Wave) : (s.updWaveAt k n f).agenda = s.agenda := by
  unfold updWaveAt; split <;> rfl
@[simp] theorem epoch_updWaveAt (k n : Nat) (f : Wave → Wave) : (s.updWaveAt k n f).epoch = s.epoch := by
  unfold updWaveAt; split <;> rfl
@[simp] theorem subj_updWaveAt (k n : Nat) (f : Wave → Wave) : (s.updWaveAt k n f).subj = s.subj := by
  unfold updWaveAt; split <;> rfl
@[simp] theorem cur_updWaveAt (k n : Nat) (f : Wave → Wave) : (s.updWaveAt k n f).cur = s.cur := by
  unfold updWaveAt; split <;> rfl
@[simp] theorem issued_updWaveAt (k n : Nat) (f : Wave → Wave) : (s.updWaveAt k n f).issued = s.issued := by
  unfold updWaveAt; split <;> rfl
@[simp] theorem time_updWaveAt (k n : Nat) (f : Wave → Wave) : (s.updWaveAt k n f).time = s.time := by
  unfold updWaveAt; split <;> rfl
@[simp] theorem dev_updWaveAt (k n : Nat) (f : Wave → Wave) : (s.updWaveAt k n f).dev = s.dev := by
  unfold updWaveAt; split <;> rfl
@[simp] theorem mem_updWaveAt (k n : Nat) (f : Wave → Wave) : (s.updWaveAt k n f).mem = s.mem := by
  unfold updWaveAt; split <;> rfl
@[simp] theorem bad_updWaveAt (k n : Nat) (f : Wave → Wave) : (s.updWaveAt k n f).bad = s.bad := by
  unfold updWaveAt; split <;> rfl
@[simp] theorem hostL2_updWaveAt (k n : Nat) (f : Wave → Wave) : (s.updWaveAt k n f).hostL2 = s.hostL2 := by
  unfold updWaveAt; split <;> rfl
@[simp] theorem via_updWaveAt (k n : Nat) (f : Wave → Wave) : (s.updWaveAt k n f).via = s.via := by
  unfold updWaveAt; split <;> rfl
@[simp] theorem late_updWaveAt (k n : Nat) (f : Wave → Wave) : (s.updWaveAt k n f).late = s.late := by
  unfold updWaveAt; split <;> rfl
@[simp] theorem lost_updWaveAt (k n : Nat) (f : Wave → Wave) : (s.updWaveAt k n f).lost = s.lost := by
  unfold updWaveAt; split <;> rfl
@[simp] theorem dies_updWaveAt (k n : Nat) (f : Wave → Wave) : (s.updWaveAt k n f).dies = s.dies := by
  unfold updWaveAt; split <;> rfl
@[simp] theorem cores_updWaveAt (k n : Nat) (f : Wave → Wave) : (s.updWaveAt k n f).cores = s.cores := by
  unfold updWaveAt; split <;> rfl
@[simp] theorem teams_updWaveAt (k n : Nat) (f : Wave → Wave) : (s.updWaveAt k n f).teams = s.teams := by
  unfold updWaveAt; split <;> rfl
@[simp] theorem launches_updWaveAt (k n : Nat) (f : Wave → Wave) : (s.updWaveAt k n f).launches = s.launches := by
  unfold updWaveAt; split <;> rfl
@[simp] theorem txs_updWaveAt (k n : Nat) (f : Wave → Wave) : (s.updWaveAt k n f).txs = s.txs := by
  unfold updWaveAt; split <;> rfl
@[simp] theorem cmds_updWaveAt (k n : Nat) (f : Wave → Wave) : (s.updWaveAt k n f).cmds = s.cmds := by
  unfold updWaveAt; split <;> rfl
@[simp] theorem claims_updWaveAt (k n : Nat) (f : Wave → Wave) : (s.updWaveAt k n f).claims = s.claims := by
  unfold updWaveAt; split <;> rfl
@[simp] theorem walks_updWaveAt (k n : Nat) (f : Wave → Wave) : (s.updWaveAt k n f).walks = s.walks := by
  unfold updWaveAt; split <;> rfl
@[simp] theorem walking_updWaveAt (k n : Nat) (f : Wave → Wave) : (s.updWaveAt k n f).walking = s.walking := by
  unfold updWaveAt; split <;> rfl
@[simp] theorem msgs_updWaveAt (k n : Nat) (f : Wave → Wave) : (s.updWaveAt k n f).msgs = s.msgs := by
  unfold updWaveAt; split <;> rfl
@[simp] theorem queues_updWaveAt (k n : Nat) (f : Wave → Wave) : (s.updWaveAt k n f).queues = s.queues := by
  unfold updWaveAt; split <;> rfl
@[simp] theorem seen_updWaveAt (k n : Nat) (f : Wave → Wave) : (s.updWaveAt k n f).seen = s.seen := by
  unfold updWaveAt; split <;> rfl
@[simp] theorem serial_updWaveAt (k n : Nat) (f : Wave → Wave) : (s.updWaveAt k n f).serial = s.serial := by
  unfold updWaveAt; split <;> rfl
@[simp] theorem fresh_updWaveAt (k n : Nat) (f : Wave → Wave) : (s.updWaveAt k n f).fresh = s.fresh := by
  unfold updWaveAt; split <;> rfl
@[simp] theorem launched_updWaveAt (k n : Nat) (f : Wave → Wave) : (s.updWaveAt k n f).launched = s.launched := by
  unfold updWaveAt; split <;> rfl
@[simp] theorem port_updWaveAt (k n : Nat) (f : Wave → Wave) : (s.updWaveAt k n f).port = s.port := by
  unfold updWaveAt; split <;> rfl
@[simp] theorem down_updWaveAt (k n : Nat) (f : Wave → Wave) : (s.updWaveAt k n f).down = s.down := by
  unfold updWaveAt; split <;> rfl
@[simp] theorem out_updWaveAt (k n : Nat) (f : Wave → Wave) : (s.updWaveAt k n f).out = s.out := by
  unfold updWaveAt; split <;> rfl
@[simp] theorem fwHash_updWaveAt (k n : Nat) (f : Wave → Wave) : (s.updWaveAt k n f).fwHash = s.fwHash := by
  unfold updWaveAt; split <;> rfl
@[simp] theorem svns_updWaveAt (k n : Nat) (f : Wave → Wave) : (s.updWaveAt k n f).svns = s.svns := by
  unfold updWaveAt; split <;> rfl
@[simp] theorem floors_updWaveAt (k n : Nat) (f : Wave → Wave) : (s.updWaveAt k n f).floors = s.floors := by
  unfold updWaveAt; split <;> rfl
@[simp] theorem replay_updWaveAt (k n : Nat) (f : Wave → Wave) : (s.updWaveAt k n f).replay = s.replay := by
  unfold updWaveAt; split <;> rfl

/-! ### Reading a record after an update -/

@[simp] theorem die_setDie_self (d : Nat) (x : Die) : (s.setDie d x).die d = x := by simp [die, setDie]
theorem die_setDie_ne {d e : Nat} (x : Die) (h : e ≠ d) : (s.setDie d x).die e = s.die e := by
  simp [die, setDie, Map.getD_set_ne _ _ _ h]
@[simp] theorem die_updDie_self (d : Nat) (f : Die → Die) : (s.updDie d f).die d = f (s.die d) := by simp [updDie]
theorem die_updDie_ne {d e : Nat} (f : Die → Die) (h : e ≠ d) : (s.updDie d f).die e = s.die e := by
  simp [updDie, die_setDie_ne _ _ h]
@[simp] theorem core_setCore_self (c : Nat) (x : Core) : (s.setCore c x).core c = x := by simp [core, setCore]
theorem core_setCore_ne {c e : Nat} (x : Core) (h : e ≠ c) : (s.setCore c x).core e = s.core e := by
  simp [core, setCore, Map.getD_set_ne _ _ _ h]
@[simp] theorem core_updCore_self (c : Nat) (f : Core → Core) : (s.updCore c f).core c = f (s.core c) := by simp [updCore]
theorem core_updCore_ne {c e : Nat} (f : Core → Core) (h : e ≠ c) : (s.updCore c f).core e = s.core e := by
  simp [updCore, core_setCore_ne _ _ h]
@[simp] theorem wave?_setWave_self (k : Nat) (w : Wave) : (s.setWave k w).wave? k = some w := by simp [wave?, setWave]
theorem wave?_setWave_ne {k e : Nat} (w : Wave) (h : e ≠ k) : (s.setWave k w).wave? e = s.wave? e := by
  simp [wave?, setWave, Map.find?_set_ne _ _ h]
@[simp] theorem wave_setWave_self (k : Nat) (w : Wave) : (s.setWave k w).wave k = w := by simp [wave, setWave]
theorem wave_setWave_ne {k e : Nat} (w : Wave) (h : e ≠ k) : (s.setWave k w).wave e = s.wave e := by
  simp [wave, setWave, Map.getD_set_ne _ _ _ h]
@[simp] theorem team_setTeam_self (n : Nat) (x : Team) : (s.setTeam n x).team n = x := by simp [team, setTeam]
theorem team_setTeam_ne {n e : Nat} (x : Team) (h : e ≠ n) : (s.setTeam n x).team e = s.team e := by
  simp [team, setTeam, Map.getD_set_ne _ _ _ h]
@[simp] theorem launch_setLaunch_self (n : Nat) (x : Launch) : (s.setLaunch n x).launch n = x := by simp [launch, setLaunch]
theorem launch_setLaunch_ne {n e : Nat} (x : Launch) (h : e ≠ n) : (s.setLaunch n x).launch e = s.launch e := by
  simp [launch, setLaunch, Map.getD_set_ne _ _ _ h]

/-- A resident wave changed. -/
theorem updWave_of_some {k : Nat} {w : Wave} (f : Wave → Wave) (h : s.wave? k = some w) : s.updWave k f = s.setWave k (f w) := by
  unfold updWave; simp only [wave?] at h; rw [h]
theorem updWave_of_none {k : Nat} (f : Wave → Wave) (h : s.wave? k = none) : s.updWave k f = s := by
  unfold updWave; simp only [wave?] at h; rw [h]
theorem wave?_updWave_ne {k e : Nat} (f : Wave → Wave) (h : e ≠ k) : (s.updWave k f).wave? e = s.wave? e := by
  unfold updWave; split
  · exact wave?_setWave_ne _ _ h
  · rfl
theorem wave?_updWave_self {k : Nat} (f : Wave → Wave) : (s.updWave k f).wave? k = (s.wave? k).map f := by
  cases h : s.wave? k with
  | none => rw [updWave_of_none s f h, h]; rfl
  | some w => rw [updWave_of_some s f h]; simp
theorem wave_of_some {k : Nat} {w : Wave} (h : s.wave? k = some w) : s.wave k = w := by
  simp only [wave?] at h; simp [wave, Map.getD, h]

end Sys2Proof.Machine.State
end

