-- ==== Sys2Proof/Laws/Vector.lean ====
section
/-! SUPPORT. What the shared operations of an instruction leave: writes of destinations, the end of a vector instruction,
and a lane group's going on. -/

namespace Sys2Proof.Machine

/-- What the writes of one instruction keep: all of its wave but the registers it names. -/
structure Keep (w w' : Wave) (dst : List Opd) (m : Mask) : Prop where
  lanes : w'.lanes = w.lanes
  width : w'.width = w.width
  other : OtherRegs w w' dst m
  st : SameStatus w w'
  serial : w'.serial = w.serial
  plen : w'.p.length = w.p.length
  misc : w'.holds = w.holds ∧ w'.drain = w.drain ∧ w'.launch = w.launch ∧ w'.team = w.team ∧ w'.kind = w.kind

theorem Keep.refl (w dst m) : Keep w w dst m := ⟨rfl, rfl, ⟨fun _ _ _ _ => rfl, fun _ _ => rfl, fun _ _ => rfl⟩, ⟨rfl,rfl,rfl,rfl,rfl,rfl,⟨rfl,rfl,rfl,rfl⟩,rfl,rfl,rfl,rfl⟩, rfl, rfl, ⟨rfl,rfl,rfl,rfl,rfl⟩⟩

theorem Keep.trans {w w' w'' dst m} (h : Keep w w' dst m) (g : Keep w' w'' dst m) : Keep w w'' dst m := by
  obtain ⟨a1,a2,⟨a3,a4,a5⟩,⟨b1,b2,b3,b4,b5,b6,⟨b7,b8,b9,b10⟩,b11,b12,b13,b14⟩,a6,a7,⟨c1,c2,c3,c4,c5⟩⟩ := h
  obtain ⟨a1',a2',⟨a3',a4',a5'⟩,⟨b1',b2',b3',b4',b5',b6',⟨b7',b8',b9',b10'⟩,b11',b12',b13',b14'⟩,a6',a7',⟨c1',c2',c3',c4',c5'⟩⟩ := g
  exact ⟨a1'.trans a1, a2'.trans a2, ⟨fun n l hl h => (a3' n l hl h).trans (a3 n l hl h), fun n h => (a4' n h).trans (a4 n h), fun n h => (a5' n h).trans (a5 n h)⟩,
    ⟨b1'.trans b1,b2'.trans b2,b3'.trans b3,b4'.trans b4,b5'.trans b5,b6'.trans b6,⟨b7'.trans b7,b8'.trans b8,b9'.trans b9,b10'.trans b10⟩,b11'.trans b11,b12'.trans b12,b13'.trans b13,b14'.trans b14⟩,
    a6'.trans a6, a7'.trans a7, ⟨c1'.trans c1,c2'.trans c2,c3'.trans c3,c4'.trans c4,c5'.trans c5⟩⟩

theorem keep_setFl (w dst m f) : Keep w (w.setFl f) dst m := by
  exact ⟨rfl, rfl, ⟨fun _ _ _ _ => rfl, fun _ _ => rfl, fun _ _ => rfl⟩, ⟨rfl,rfl,rfl,rfl,rfl,rfl,⟨rfl,rfl,rfl,rfl⟩,rfl,rfl,rfl,rfl⟩, rfl, rfl, ⟨rfl,rfl,rfl,rfl,rfl⟩⟩

theorem hitOut_eq (w : Wave) (k : Nat) : ∃ os, w.hitOut k = { w with outs := os } := by
  unfold Wave.hitOut; split
  · exact ⟨_, rfl⟩
  · exact ⟨w.outs, rfl⟩

theorem keep_v (w : Wave) (n : Fin 320) (l : Nat) (x : Word) (dst m) (hd : Opd.v n ∈ dst) (hm : m.getLsbD l = true) :
    Keep w (w.vwrite n.val l x) dst m := by
  have hl : l < 64 := by
    refine Nat.lt_of_not_le fun hc => ?_
    simp [BitVec.getLsbD_of_ge _ _ hc] at hm
  obtain ⟨os, ho⟩ := hitOut_eq w (Wave.vkey n.val l)
  unfold Wave.vwrite; rw [ho]
  refine ⟨rfl, rfl, ⟨?_, fun _ _ => rfl, fun _ _ => rfl⟩, ⟨rfl,rfl,rfl,rfl,rfl,rfl,⟨rfl,rfl,rfl,rfl⟩,rfl,rfl,rfl,rfl⟩, rfl, rfl, ⟨rfl,rfl,rfl,rfl,rfl⟩⟩
  intro n' l' hl' h
  simp only [Wave.vraw]
  apply Map.getD_set_ne
  simp only [Wave.vkey]
  intro heq
  have h1 : n'.val = n.val := by omega
  have h2 : l' = l := by omega
  have h3 : n' = n := Fin.ext h1
  subst h3 h2
  simp_all

theorem keep_s (w : Wave) (n : Fin 256) (x : Word) (dst m) (hd : Opd.s n ∈ dst) : Keep w (w.swrite n.val x) dst m := by
  obtain ⟨os, ho⟩ := hitOut_eq w (Wave.skey n.val)
  unfold Wave.swrite; rw [ho]
  refine ⟨rfl, rfl, ⟨fun _ _ _ _ => rfl, ?_, fun _ _ => rfl⟩, ⟨rfl,rfl,rfl,rfl,rfl,rfl,⟨rfl,rfl,rfl,rfl⟩,rfl,rfl,rfl,rfl⟩, rfl, rfl, ⟨rfl,rfl,rfl,rfl,rfl⟩⟩
  intro n' h
  simp only [Wave.sraw]
  apply Map.getD_set_ne
  intro heq
  exact h (Fin.ext heq ▸ hd)

theorem keep_p (w : Wave) (n : Fin 15) (l : Nat) (b : Bool) (dst m) (hd : Opd.p n ∈ dst) : Keep w (w.pwrite n.val l b) dst m := by
  unfold Wave.pwrite; split
  · obtain ⟨os, ho⟩ := hitOut_eq w (Wave.pkey n.val l)
    unfold Wave.pput; rw [ho]
    refine ⟨rfl, rfl, ⟨fun _ _ _ _ => rfl, fun _ _ => rfl, ?_⟩, ⟨rfl,rfl,rfl,rfl,rfl,rfl,⟨rfl,rfl,rfl,rfl⟩,rfl,rfl,rfl,rfl⟩, rfl, ?_, ⟨rfl,rfl,rfl,rfl,rfl⟩⟩
    · intro n' h
      simp only [List.getElem?_set]
      rw [if_neg]
      intro heq
      exact h (Fin.ext heq.symm ▸ hd)
    · simp
  · exact Keep.refl ..

theorem keep_dst (w : Wave) (d : Opd) (l : Nat) (x : Word) (dst m) (hd : d ∈ dst) (hm : m.getLsbD l = true ∨ ∀ n, d ≠ .v n) :
    Keep w (writeDst w d l x) dst m := by
  unfold writeDst; split
  · exact keep_v w _ l x dst m hd (hm.resolve_right fun h => h _ rfl)
  · exact keep_s w _ x dst m hd
  · exact Keep.refl ..

theorem keep_bit (w : Wave) (d : Opd) (l : Nat) (b : Bool) (dst m) (hd : d ∈ dst) : Keep w (writeBit w d l b) dst m := by
  unfold writeBit; split
  · exact keep_p w _ l b dst m hd
  · exact keep_s w _ _ dst m hd
  · exact Keep.refl ..

theorem keep_foldl {α} (w : Wave) (dst m) (xs : List α) (f : Wave → α → Wave)
    (h : ∀ v x, x ∈ xs → Keep v (f v x) dst m) : Keep w (xs.foldl f w) dst m := by
  induction xs generalizing w with
  | nil => exact Keep.refl ..
  | cons x xs ih => exact (h w x (by simp)).trans (ih _ fun v y hy => h v y (by simp [hy]))

theorem mem_lanesOf {m : Mask} {l : Nat} (h : l ∈ lanesOf m) : m.getLsbD l = true := by
  simp [lanesOf] at h; exact h.2

theorem maskOf_bit (ls : List Nat) (l : Nat) : (maskOf ls).getLsbD l = true → l ∈ ls := by
  suffices ∀ (m0 : Mask), (ls.foldl (fun m l => m ||| BitVec.ofNat 64 (2 ^ l)) m0).getLsbD l = true → m0.getLsbD l = true ∨ l ∈ ls by
    intro h; simpa using this 0 h
  induction ls with
  | nil => simp
  | cons k ks ih =>
    intro m0 h
    rcases ih _ h with h | h
    · simp only [BitVec.getLsbD_or, Bool.or_eq_true] at h
      rcases h with h | h
      · exact .inl h
      · right
        simp only [BitVec.getLsbD_ofNat, Nat.testBit_two_pow, Bool.and_eq_true, decide_eq_true_eq] at h
        simp [h.2]
    · exact .inr (by simp [h])

theorem selected_sub (e w o g l) : (selected e w o g).getLsbD l = true → g.getLsbD l = true := by
  unfold selected
  have base : ∀ (m1 : Mask), (m1.getLsbD l = true → g.getLsbD l = true) →
      (match o.pfx.bind Pfx.mask with
       | some n => maskOf ((lanesOf m1).filter fun l => w.pbit e n.val l)
       | none => m1).getLsbD l = true → g.getLsbD l = true := by
    intro m1 h1 h
    split at h
    · have := maskOf_bit _ _ h
      exact h1 (mem_lanesOf (List.mem_filter.1 this).1)
    · exact h1 h
  apply base
  split
  · exact id
  · intro h
    have := maskOf_bit _ _ h
    exact mem_lanesOf (List.mem_filter.1 this).1

theorem sel_touched {s : State} {c : Iss} {o : Ops} {l : Nat} (h : (selOf s c o).getLsbD l = true) :
    (touched s c o).getLsbD l = true := by
  unfold touched; split
  · exact selected_sub _ _ _ _ _ h
  · exact h

theorem vecLanes_ok (s : State) (c : Iss) (o : Ops) : ∀ l ∈ vecLanes o (selOf s c o), (touched s c o).getLsbD l = true ∨ ∀ n, o.d ≠ .v n := by
  intro l hl
  unfold vecLanes at hl
  split at hl
  · rename_i h; right; intro n hn; rw [h] at hn; cases hn
  · left; exact sel_touched (mem_lanesOf hl)

theorem keep_vecWrite (s c o f dst) (hd : o.d ∈ dst) : Keep c.w (vecWrite s c o f) dst (touched s c o) := by
  unfold vecWrite
  apply keep_foldl
  intro v l hl
  exact (keep_dst v o.d l _ dst _ hd (vecLanes_ok s c o l hl)).trans (keep_setFl ..)

theorem keep_vecBits (s c o f dst) (hd : o.d ∈ dst) : Keep c.w (vecBits s c o f) dst (touched s c o) := by
  unfold vecBits
  apply keep_foldl
  intro v l hl
  exact (keep_bit v o.d l _ dst _ hd).trans (keep_setFl ..)

theorem keep_zero (w d dst) (m mask : Mask) (hd : d ∈ dst) (hm : ∀ l, m.getLsbD l = true → mask.getLsbD l = true) :
    Keep w (zeroDst w d m) dst mask := by
  unfold zeroDst
  apply keep_foldl
  intro v l hl
  split
  · exact keep_v v _ l _ dst _ hd (hm l (mem_lanesOf hl))
  · exact keep_p v _ l _ dst _ hd
  · exact Keep.refl ..

theorem keep_sr (w o dst m) : Keep w (stepSr o w) dst m := by
  unfold stepSr; split
  · exact ⟨rfl, rfl, ⟨fun _ _ _ _ => rfl, fun _ _ => rfl, fun _ _ => rfl⟩, ⟨rfl,rfl,rfl,rfl,rfl,rfl,⟨rfl,rfl,rfl,rfl⟩,rfl,rfl,rfl,rfl⟩, rfl, rfl, ⟨rfl,rfl,rfl,rfl,rfl⟩⟩
  · exact Keep.refl ..

theorem SameDevice.refl (a) : SameDevice a a := ⟨rfl,rfl,rfl,rfl,rfl,rfl,rfl,rfl,rfl,rfl,rfl,rfl,rfl,rfl,rfl,rfl⟩
theorem SameDevice.trans {a b c} (h : SameDevice a b) (g : SameDevice b c) : SameDevice a c := by
  constructor <;> first | exact g.mem.trans h.mem | exact g.bad.trans h.bad | exact g.dies.trans h.dies | exact g.teams.trans h.teams | exact g.launches.trans h.launches | exact g.txs.trans h.txs | exact g.cmds.trans h.cmds | exact g.walks.trans h.walks | exact g.walking.trans h.walking | exact g.msgs.trans h.msgs | exact g.queues.trans h.queues | exact g.port.trans h.port | exact g.out.trans h.out | exact g.hostL2.trans h.hostL2 | exact g.claims.trans h.claims | exact g.lost.trans h.lost

/-- Nothing outside the cores changed. -/
structure DevW (s t : State) : Prop where
  dev : SameDevice s t
  waves : t.waves = s.waves
theorem DevW.refl (a) : DevW a a := ⟨.refl a, rfl⟩
theorem DevW.trans {a b c} (h : DevW a b) (g : DevW b c) : DevW a c := ⟨h.dev.trans g.dev, g.waves.trans h.waves⟩
theorem devw_foldl {α} (xs : List α) (f : State → α → State) (h : ∀ s x, DevW s (f s x)) (s) : DevW s (xs.foldl f s) := by
  induction xs generalizing s with
  | nil => exact .refl s
  | cons x xs ih => exact (h s x).trans (ih _)

theorem devw_accElem (s t h i j x) : DevW s (setAccElem s t h i j x) := by
  unfold setAccElem accWrite
  exact ⟨⟨rfl,rfl,rfl,rfl,rfl,rfl,rfl,rfl,rfl,rfl,rfl,rfl,rfl,rfl,rfl,rfl⟩, rfl⟩

/-- Everything the end of a vector instruction leaves. -/
theorem vecEnd_facts (s : State) (c : Iss) (o : Ops) (w : Wave) (dst) (hd : o.d ∈ dst) (hk : Keep c.w w dst (touched s c o)) :
    ∃ w', (vecEnd s c o w).wave? c.key = some w' ∧ SameDevice s (vecEnd s c o w) ∧ OtherWaves s (vecEnd s c o w) c.key
      ∧ (vecEnd s c o w).cores = s.cores
      ∧ w'.lanes = c.w.lanes ∧ OtherRegs c.w w' dst (touched s c o) ∧ SameStatus c.w w' := by
  unfold vecEnd
  generalize hw1 : stepSr o (zeroDst w o.d (zeroed o c.mask (selOf s c o))) = w1
  have hk1 : Keep c.w w1 dst (touched s c o) := by
    rw [← hw1]
    refine hk.trans ((keep_zero w o.d dst _ _ hd ?_).trans (keep_sr ..))
    intro l hl
    unfold zeroed at hl
    unfold touched
    split at hl
    · rename_i hz; rw [if_pos hz]; simp at hl; exact hl.1
    · simp at hl
  exact ⟨w1, by simp, ⟨rfl,rfl,rfl,rfl,rfl,rfl,rfl,rfl,rfl,rfl,rfl,rfl,rfl,rfl,rfl,rfl⟩, fun j hj => State.wave?_setWave_ne _ _ hj, rfl,
    hk1.lanes, hk1.other, hk1.st⟩

/-- What the drain of a wave's accumulator leaves: the wave itself but for its drain, every other wave, the device, and
the cores too where no operand is ACCDRAIN (R271). -/
theorem advanceDrain_facts (s : State) (key : Nat) (o : Ops) (w : Wave) (hw : s.wave? key = some w) :
    ∃ d, (advanceDrain s key o).wave? key = some { w with drain := d } ∧ SameDevice s (advanceDrain s key o)
      ∧ OtherWaves s (advanceDrain s key o) key ∧ (readsDrain o = false → advanceDrain s key o = s) := by
  have hwk : s.wave key = w := State.wave_of_some _ hw
  have base : ∃ d, s.wave? key = some { w with drain := d } ∧ SameDevice s s ∧ OtherWaves s s key
      ∧ (readsDrain o = false → s = s) :=
    ⟨w.drain, hw, ⟨rfl,rfl,rfl,rfl,rfl,rfl,rfl,rfl,rfl,rfl,rfl,rfl,rfl,rfl,rfl,rfl⟩, fun _ _ => rfl, fun _ => rfl⟩
  unfold advanceDrain
  simp only [hwk]
  split
  · exact base
  · split
    · rename_i d hdr hr
      generalize hs2 : (if d.clear = true then _ else s) = s2
      have h2 : DevW s s2 := by
        rw [← hs2]
        split
        · apply devw_foldl
          intro s l
          simp only [List.foldl]
          split <;> split <;> first | exact .refl _ | exact devw_accElem .. | exact (devw_accElem ..).trans (devw_accElem ..)
        · exact .refl _
      have h2w : s2.wave? key = some w := by simp only [State.wave?, h2.waves]; exact hw
      refine ⟨_, by rw [State.wave?_updWave_self, h2w]; rfl, ?_, ?_, ?_⟩
      · rw [State.updWave_of_some _ _ h2w]
        exact h2.dev.trans ⟨rfl,rfl,rfl,rfl,rfl,rfl,rfl,rfl,rfl,rfl,rfl,rfl,rfl,rfl,rfl,rfl⟩
      · intro j hj
        rw [State.wave?_updWave_ne _ _ hj]
        simp only [State.wave?, h2.waves]
      · intro h0
        exfalso
        simp only [readsDrain] at h0
        rw [h0] at hr
        cases hr
    · exact base

/-- A word none of whose operands is ACCDRAIN leaves the drain alone. -/
theorem drained_eq (i : Instr) (p : Parts) (key : Nat) (s : State) (hp : i.parts = some p) (h : readsDrain p.ops = false) :
    drained i key s = s := by
  unfold drained
  rw [hp]
  simp only
  split
  · unfold advanceDrain
    simp only [readsDrain] at h
    simp only
    split
    · rfl
    · rw [h, if_neg (by simp)]
  · rfl

theorem lane_mapLanes (w : Wave) (m : Mask) (f : Nat → Lane → Lane) (l : Nat) :
    (w.mapLanes m f).lane l = if m.getLsbD l = true ∧ l < w.lanes.length then f l (w.lane l) else w.lane l := by
  simp only [Wave.lane, Wave.mapLanes, List.getElem?_map, List.getElem?_zipIdx]
  by_cases hl : l < w.lanes.length
  · simp [hl]
  · simp [hl]

theorem length_mapLanes (w : Wave) (m f) : (w.mapLanes m f).lanes.length = w.lanes.length := by simp [Wave.mapLanes]

/-- A lane stands where it stood. -/
structure SameLane (a b : Lane) : Prop where
  pc : a.pc = b.pc
  wait : a.wait = b.wait
  st : a.st = b.st
  dd : a.dd = b.dd
theorem SameLane.refl (a) : SameLane a a := ⟨rfl, rfl, rfl, rfl⟩
theorem SameLane.trans {a b c} (h : SameLane a b) (g : SameLane b c) : SameLane a c :=
  ⟨h.pc.trans g.pc, h.wait.trans g.wait, h.st.trans g.st, h.dd.trans g.dd⟩

theorem lane_congr {w v : Wave} (h : w.lanes = v.lanes) (l : Nat) : w.lane l = v.lane l := by
  unfold Wave.lane; rw [h]

theorem mergeHolds_lanes (w : Wave) : w.mergeHolds.lanes = w.lanes := rfl

theorem markWave_lane (q m w l) : SameLane ((markWave q m w).lane l) (w.lane l) := by
  have h : (markWave q m w).lanes = ((w.mapLanes (~~~m) fun (i : Nat) (l : Lane) =>
    if l.st == .active && l.wait == .none && !(w.holds.any fun h => h.2.getLsbD i) then { l with passes := l.passes + 1 } else l).mapLanes
      m fun _ l => { l with passes := 0 }).lanes := rfl
  rw [lane_congr h, lane_mapLanes, lane_mapLanes]
  split <;> split <;> (try split) <;> exact ⟨rfl, rfl, rfl, rfl⟩

theorem markIssued_eq (s : State) (c : Iss) (w : Wave) (h : s.wave? c.key = some w) :
    s.markIssued c = { s.setWave c.key (markWave (s.quantumOf c.w) c.mask w) with issued := true } := by
  unfold State.markIssued State.updWave
  simp only [State.wave?] at h
  simp only [h]
  rfl

theorem stepLanes_lane (w : Wave) (m k l) (hl : l < w.lanes.length) (hm : m.getLsbD l = true) :
    ((w.stepLanes m k).lane l).pc = (w.lane l).pc + BitVec.ofNat 64 (8 * k) ∧ ((w.stepLanes m k).lane l).wait = .none
      ∧ ((w.stepLanes m k).lane l).st = (w.lane l).st ∧ ((w.stepLanes m k).lane l).dd = (w.lane l).dd := by
  unfold Wave.stepLanes
  rw [lane_congr (mergeHolds_lanes _), lane_mapLanes, if_pos ⟨hm, hl⟩]
  exact ⟨rfl, rfl, rfl, rfl⟩

theorem stepLanes_lane_other (w : Wave) (m k l) (hm : m.getLsbD l = false) : (w.stepLanes m k).lane l = w.lane l := by
  unfold Wave.stepLanes
  rw [lane_congr (mergeHolds_lanes _), lane_mapLanes, if_neg (by simp [hm])]

theorem stepLanes_regs (w : Wave) (m k) (w0 dst mm) (h : OtherRegs w0 w dst mm) : OtherRegs w0 (w.stepLanes m k) dst mm := ⟨h.v, h.s, h.p⟩
theorem stepLanes_status (w : Wave) (m k) (w0) (h : SameStatus w0 w) : SameStatus w0 (w.stepLanes m k) :=
  ⟨h.flags, h.fst, h.fpctl, h.srseed, h.seq, h.ldc, h.stc, h.engc, h.leash, h.xlc, h.xl⟩
theorem markWave_regs (w : Wave) (m k) (w0 dst mm) (h : OtherRegs w0 w dst mm) : OtherRegs w0 (markWave k m w) dst mm := ⟨h.v, h.s, h.p⟩
theorem markWave_status (w : Wave) (m k) (w0) (h : SameStatus w0 w) : SameStatus w0 (markWave k m w) :=
  ⟨h.flags, h.fst, h.fpctl, h.srseed, h.seq, h.ldc, h.stc, h.engc, h.leash, h.xlc, h.xl⟩

/-- Everything a lane group's going on leaves. -/
theorem goOn_facts (u : State) (c : Iss) (w' : Wave) (hw : u.wave? c.key = some w') (hl : w'.lanes = c.w.lanes) :
    let t := (u.goOn c).markIssued c
    GoneOn t c ∧ SameDevice u t ∧ OtherWaves u t c.key ∧ t.cores = u.cores
      ∧ (∀ dst m, OtherRegs c.w w' dst m → OtherRegs c.w (t.wave c.key) dst m)
      ∧ (SameStatus c.w w' → SameStatus c.w (t.wave c.key)) := by
  have h1 : u.goOn c = u.setWave c.key (w'.stepLanes c.mask c.k) := State.updWave_of_some _ _ hw
  have hlane : ∀ l, w'.lane l = c.w.lane l := fun l => by simp [Wave.lane, hl]
  generalize hv : w'.stepLanes c.mask c.k = v at h1
  have h2 := markIssued_eq (u.setWave c.key v) c _ (State.wave?_setWave_self u c.key _)
  rw [h1, h2]
  generalize (u.setWave c.key v).quantumOf c.w = q
  generalize hm : markWave q c.mask v = m
  intro t
  have hwave : t.wave c.key = m := State.wave_setWave_self ..
  refine ⟨⟨?_, ?_⟩, ⟨rfl,rfl,rfl,rfl,rfl,rfl,rfl,rfl,rfl,rfl,rfl,rfl,rfl,rfl,rfl,rfl⟩, ?_, rfl, ?_, ?_⟩
  · intro l hl' hm'
    have a := markWave_lane q c.mask v l
    have b := stepLanes_lane w' c.mask c.k l (by rw [hl]; exact hl') hm'
    rw [hv] at b
    rw [hm] at a
    rw [hwave, a.pc, a.wait, a.st, a.dd, b.1, b.2.1, b.2.2.1, b.2.2.2, hlane]
    exact ⟨rfl, rfl, rfl, rfl⟩
  · intro l hm'
    have a := markWave_lane q c.mask v l
    have b := stepLanes_lane_other w' c.mask c.k l hm'
    rw [hv] at b
    rw [hm] at a
    rw [hwave, a.pc, a.wait, a.st, a.dd, b, hlane]
    exact ⟨rfl, rfl, rfl, rfl⟩
  · intro j hj
    show (State.setWave (State.setWave u _ _) _ _).wave? j = _
    rw [State.wave?_setWave_ne _ _ hj, State.wave?_setWave_ne _ _ hj]
  · intro dst mm h
    rw [hwave, ← hm, ← hv]
    exact markWave_regs _ _ _ _ _ _ (stepLanes_regs _ _ _ _ _ _ h)
  · intro h
    rw [hwave, ← hm, ← hv]
    exact markWave_status _ _ _ _ (stepLanes_status _ _ _ _ h)

/-- An instruction whose body is performed by writing its wave. -/
theorem issue_done (s : State) (i : Instr) (c : Iss) (body : State → Iss → Res) (t : State) (h : Issues s i c)
    (hb : body s c = .done t) : s.issue i body = .next (((drained i c.key t).goOn c).markIssued c) := by
  unfold State.issue
  rw [h.group]
  simp only [h.quantum, h.calm, h.checks, h.free, h.room, Bool.not_true, hb, Res.issued, Bool.or_self, Bool.false_eq_true, if_false, State.settle]

end Sys2Proof.Machine
end

