-- ==== Sys2Proof/Tests/Slice0.lean ====
section
/-! SUPPORT. The tests: ill-formed terms that the checks refuse, words decoded, small results from the spec's worked
examples, and for the hypotheses of every statement a concrete state that meets them. -/

namespace Sys2Proof.Tests

open Sys2Proof Sys2Proof.Machine Sys2Proof.Machine.Wave

/-! ### Small states -/

/-- Operands: every lane, no leading word. -/
def op4 (d a b c : Opd) : Ops := { pred := .always, pfx := none, d, a, b, c }
def z : Opd := .zero
def vty (ty : ETy) (cnt : Cnt := .x1) : VTy := { ty, cnt }
def mty (scope : Scope) (ty : MTy) : MMod := { scope, ty }

/-- Lane l of vector register n, and the scalar register n. -/
def vr (n l : Nat) (x : Word) (w : Wave) : Wave := { w with v := w.v.set (vkey n l) x }
def sr (n : Nat) (x : Word) (w : Wave) : Wave := { w with s := w.s.set n x }
def pr (n : Nat) (x : Mask) (w : Wave) : Wave := { w with p := w.p.set n x }

/-- A wave of 16 lanes of team 0, which stand inside a clause at 0x1000. -/
def w0 : Wave :=
  { serial := 7, width := 16, teamSize := 16, nv := 320, ns := 256,
    lanes := List.replicate 16 { pc := 0x1000, cl := .inside 0x1040 none none } }

/-- A running device whose wave 0 is w and issues the word at 0x1000 with all its lanes; die 0 translates page 1 of
context 0 to itself with every right. -/
def st (w : Wave) : State :=
  let leaf : Leaf := { ctx := 0, size := 12, va := 1, pa := 1, rd := true, w := true, x := true }
  { dev := .running, cur := some { wave := 0, mask := 0xFFFF, pc := 0x1000 },
    mem := [(0x10000, 1)], dies := [(0, { ctxbase := 0x10001, tlb := [leaf] })], waves := [(0, w)],
    teams := [(0, { waves := [(0, 0)] })], launches := [(0, {})] }

/-- The issuing lane group of `st w`, of an instruction of k words. -/
def iss (w : Wave) (k : Nat := 1) : Iss :=
  { key := 0, w, mask := 0xFFFF, pc := 0x1000, fpc := 0x1000 + BitVec.ofNat 64 (8 * (k - 1)), k, seta := none, setb := none }

/-- Whether an instruction is well-formed and issues, as a Bool. -/
def ready (w : Wave) (i : Instr) : Bool :=
  i.Wf && (waveCheck i false w).isNone && i.words == 1 && !w.quantum.ended && !interlocked i w && flagAtMost i w none none

theorem issues (w : Wave) (i : Instr) (h : ready w i = true) : i.Wf = true ∧ Issues (st w) i (iss w) := by
  simp only [ready, Bool.and_eq_true, Option.isNone_iff_eq_none, beq_iff_eq, Bool.not_eq_true'] at h
  obtain ⟨⟨⟨⟨⟨h1, h2⟩, h3⟩, h4⟩, h5⟩, h6⟩ := h
  refine ⟨h1, ?_, ?_, rfl, h2, h5, h6⟩
  · show some _ = some _
    rw [h3]; rfl
  · show (w.quantum.ended && _) = false
    rw [h4]; rfl

/-- The state after an instruction. -/
def after (i : Instr) (w : Wave) : Option State :=
  match exec i (st w) with
  | .next t => some t
  | _ => none

/-- Lane l of vector register n, and scalar register n, after an instruction, where they hold a value. -/
def vAfter (i : Instr) (w : Wave) (n l : Nat) : Option Word := (after i w).bind fun t => (t.wave 0).v.find? (vkey n l)
def sAfter (i : Instr) (w : Wave) (n : Nat) : Option Word := (after i w).bind fun t => (t.wave 0).s.find? n
def pAfter (i : Instr) (w : Wave) (n : Nat) : Option Mask := (after i w).bind fun t => (t.wave 0).p[n]?
/-- The wave after a cross-lane instruction, with its result due, as the next cycle begins. -/
def landed (i : Instr) (w : Wave) : Option Wave :=
  (after i w).map fun t => ({ t.wave 0 with xl := (t.wave 0).xl.map fun r => { r with left := 0 } } : Wave).beginCycle
def vLanded (i : Instr) (w : Wave) (n l : Nat) : Option Word := (landed i w).bind fun u => u.v.find? (vkey n l)
def flAfter (i : Instr) (w : Wave) : Option Word := (after i w).map fun t => (t.wave 0).fpflags

/-! ### Ill-formed terms, one for each check of R173 -/

/-- A full word's scope and type pair that R187 does not give: an LDS at scope .k. -/
theorem test_wf_memory_scope : (Instr.lds (op4 (.v 1) (.v 2) z z) (mty .k .b64)).check = some .illegalInstruction := by decide
/-- LDSC of a type other than .b64 (R187). -/
theorem test_wf_memory_type : (Instr.ldsc (op4 (.s 0) (.s 2) z z) (mty .k .b32) 0).check = some .illegalInstruction := by decide
/-- ADD of a floating-point type (R213). -/
theorem test_wf_element_type : (Instr.add (op4 (.v 1) (.v 2) (.v 3) z) (vty .f32)).check = some .illegalInstruction := by decide
/-- A count that the type does not have (R113): .i32 × 4. -/
theorem test_wf_count : (Instr.add (op4 (.v 1) (.v 2) (.v 3) z) (vty .i32 .x4)).check = some .illegalInstruction := by decide
/-- FCVT of a scaled source type (R235). -/
theorem test_wf_source_type :
    (Instr.fcvt (op4 (.v 1) (.v 2) z z) (vty .f32 .x2) (vty .q8 .x8)).check = some .illegalInstruction := by decide
/-- ICMP with the unordered condition (R225). -/
theorem test_wf_condition : (Instr.icmp (op4 (.p 1) (.v 2) (.v 3) z) (vty .i32) .un false).check = some .illegalInstruction := by decide
/-- A scan that adds bits (R239). -/
theorem test_wf_scan : (Instr.scani (op4 (.v 1) (.v 2) z z) (vty .b32) .add).check = some .illegalInstruction := by decide
/-- A scalar form under a predicate (R165). -/
theorem test_wf_scalar_pred :
    (Instr.add { op4 (.s 1) (.s 2) (.s 3) z with pred := .sel 1 false } (vty .i32)).check = some .illegalInstruction := by decide
/-- A field the word does not use that holds an operand (R164). -/
theorem test_wf_unused : (Instr.nop (op4 (.v 1) z z z)).check = some .illegalInstruction := by decide
/-- A leading word before an instruction that takes none (R168). -/
theorem test_wf_lead : (Instr.exit { op4 z z z z with
    pfx := some { mask := some 1, zero := false, rnd := .rne, scope := none, e := none, lit := none } }).check
    = some .illegalInstruction := by decide
/-- A reserved operand code (R156). -/
theorem test_wf_reserved : (Instr.add (op4 (.rsv 700) (.v 2) (.v 3) z) (vty .i32)).check = some .illegalOperand := by decide
/-- A constant as a destination (R156). -/
theorem test_wf_operand : (Instr.add (op4 (.imm 1) (.v 2) (.v 3) z) (vty .i32)).check = some .illegalOperand := by decide
/-- A scalar form with a vector source (R165). -/
theorem test_wf_scalar_source : (Instr.add (op4 (.s 1) (.v 2) (.s 3) z) (vty .i32)).check = some .illegalOperand := by decide
/-- MXCVT whose scale and codes go to one register (R238). -/
theorem test_wf_mxcvt : (Instr.mxcvt (op4 (.v 1) (.v 2) (.v 3) (.v 1)) (vty .e4m3 .x8)).check = some .illegalOperand := by decide
/-- A paired word whose halves write one bank (R171). -/
theorem test_wf_paired : (Instr.pairedWord { op := .add, d := 8, a := 9, t := vty .i32 .x2 }
    { op := .add, d := 12, a := 14, t := vty .i32 .x2 }).check = some .illegalInstruction := by decide
/-- A header of length 0 (R160). -/
theorem test_wf_header :
    (Instr.clauseHeaderPass { wait := 0, seta := none, setb := none, len := 0, sp := false }).check = some .illegalInstruction := by
  decide
/-- An assigned word as an unassigned one (R174). -/
theorem test_wf_unassigned : (Instr.unassignedOpcode 0).check = some .illegalInstruction := by decide

/-! ### Words written out field by field from the encodings of the spec -/

/-- A full word from form, opcode, d, a, b, c, psel, pinv and mod (R163). -/
def full (op d a b c : BitVec 10) (psel : BitVec 4) (pinv : BitVec 1) (mod : BitVec 7) : Word :=
  0b00#2 ++ op ++ d ++ a ++ b ++ c ++ psel ++ pinv ++ mod

/-- ST 0x001 (R186): v4, in c, at v5 + 16, scope .k (3), type .b64 (9). -/
theorem test_decode_st : decode (full 0x001 320 5 912 4 15 0 0b0111001) 0
    = .ok (.st (op4 z (.v 5) (.imm 16) (.v 4)) (mty .k .b64)) := rfl
/-- LDSC 0x002 (R195): four words (k = 3 in c[2:0]) to s8. -/
theorem test_decode_ldsc : decode (full 0x002 520 514 320 3 15 0 0b0111001) 0
    = .ok (.ldsc (op4 (.s 8) (.s 2) z z) (mty .k .b64) 3) := rfl
/-- ADD 0x080 (R213): .i32 (2) × 2 (1): type in mod[6:2], count in mod[1:0]. -/
theorem test_decode_add : decode (full 0x080 8 8 9 320 3 1 0b0001001) 0
    = .ok (.add { op4 (.v 8) (.v 8) (.v 9) z with pred := .sel 3 true } (vty .i32 .x2)) := rfl
/-- The words of R251's example: SCANX 0x18F. -/
theorem test_decode_scanx : decode (full 0x18F 7 6 320 0 1 0 0x08) 0
    = .ok (.scanx { op4 (.v 7) (.v 6) z z with pred := .sel 1 false } (vty .i32) .add) := rfl
theorem test_word_scanx : full 0x18F 7 6 320 0 1 0 0x08 = 0x18F01C0650000108 := by decide
/-- BWALK 0x202 with tb12 and a screen in c (R300), as in the example of chapter 15. -/
theorem test_decode_bwalk : decode (full 0x202 320 2 522 0x4C 0 0 0) 0
    = .ok (.bwalk { op4 z (.v 2) (.s 10) z with pred := .sel 0 false } 12 true false) := rfl
/-- MMAQ 0x1C6 (R255, R264). -/
theorem test_decode_mmaq : decode (full 0x1C6 338 516 9 320 15 0 0) 0
    = .ok (.mmaq (op4 (.acc 2) (.s 4) z z) { tb := 9, z := false }) := rfl
/-- REJOIN 0x225 PALWAYS (R328). -/
theorem test_decode_rejoin : decode (full 0x225 320 367 320 320 15 0 0) 0 = .ok (.rejoin (op4 z .palways z z)) := rfl
/-- QTAKE 0x230 with its status in p4, c[3:0] (R323). -/
theorem test_decode_qtake : decode (full 0x230 520 514 320 0b0100 15 0 0) 0
    = .ok (.qtake (op4 (.s 8) (.s 2) z z) (some 4)) := rfl
/-- A paired word: two halves of opcode, d, a, a zero bit, type and count (R170). -/
theorem test_decode_paired : decode (0b01#2 ++ (0#7 ++ 8#8 ++ 9#8 ++ 0b0#1 ++ 2#5 ++ 1#2 : BitVec 31)
      ++ (0x12#7 ++ 13#8 ++ 14#8 ++ 0b0#1 ++ 11#5 ++ 1#2 : BitVec 31)) 0
    = .ok (.pairedWord { op := .add, d := 8, a := 9, t := vty .i32 .x2 } { op := .fmul, d := 13, a := 14, t := vty .f32 .x2 }) := rfl
/-- A header: wait for f3, no flags set, three words, no safe point (R160). -/
theorem test_decode_header : decode (0b11#2 ++ 0b000000001000#12 ++ 15#4 ++ 15#4 ++ 3#4 ++ 0b0#1 ++ 0#37) 0
    = .ok (.clauseHeaderPass { wait := 8, seta := none, setb := none, len := 3, sp := false }) := rfl
/-- A leading word with mask 1, Z, RZ and a literal for c of kind .f32 (R167), before FMA (R176's example). -/
theorem test_decode_lead : decode (0b10#2 ++ 1#4 ++ 1#1 ++ 1#3 ++ 0#3 ++ 0#1 ++ 0#10 ++ 1#1 ++ 2#2 ++ 2#2 ++ 0#5 ++ 0x0FF00000#30)
      (full 0x0A8 4 5 6 320 2 1 0x2D)
    = .ok (.fma { pred := .sel 2 true, d := .v 4, a := .v 5, b := .v 6, c := z,
                  pfx := some { mask := some 1, zero := true, rnd := .rz, scope := none, e := none,
                                lit := some { sel := .c, kind := .f32, val := 0x0FF00000 } } } (vty .f32 .x2)) := rfl

/-! ### States that meet the hypotheses of the statements: encoding, fetch, step and memory -/

theorem witness_DecodeOfEncode : ∃ i w next, Instr.Wf i = true ∧ encode i = some (w, some next) :=
  ⟨.fma { op4 (.v 4) (.v 5) (.v 6) z with
      pfx := some { mask := some 1, zero := true, rnd := .rz, scope := none, e := none, lit := none } } (vty .f32 .x2),
    _, _, by decide, rfl⟩
theorem witness_DecodeOfEncode_one : ∃ i w, Instr.Wf i = true ∧ encode i = some (w, none) :=
  ⟨.add (op4 (.v 319) (.s 255) (.imm (-128)) z) (vty .i32 .x2), _, by decide, rfl⟩
theorem witness_EncodeOfDecode : ∃ w next i, decode w next = .ok i ∧ bits w 63 62 = 2 := ⟨0x864000D00FF00000, 0x0A801005019402AD, _, rfl, rfl⟩
theorem witness_UnassignedWordsDecode :
    (∃ w : Word, bits w 63 62 = 0 ∧ opAssigned (bits w 61 52) = false) ∧ (∃ w : Word, bits w 63 62 = 1 ∧ 0x18 ≤ bits w 30 24)
    ∧ (∃ w next : Word, bits w 63 62 = 2 ∧ bits next 63 62 ≠ 0) ∧ ∃ s x c, State.issuer s (.unassignedOpcode x) = some c :=
  ⟨⟨full 0x029 0 0 0 0 15 0 0, by decide⟩, ⟨0x4000000018000000, by decide⟩, ⟨0x8000000000000000, 0x8000000000000000, by decide⟩,
    ⟨st w0, full 0x029 0 0 0 0 15 0 0, iss w0, rfl⟩⟩

/-- A wave of core 0 stands before the word w at 0x1000, after reset. -/
def sf (w : Nat) : State := State.reset.withFetchWord 128 w
/-- NOP, and the pair of R176's example. -/
def nopWord : Nat := 0x2275014050140F00
def fmaPair : Nat := 0x864000D00FF00000 + 0x0A801005019402AD * 2 ^ 64
def header3 : Nat := 0xC003FCC000000000

theorem witness_LaneGroupRunsDecoded_full : ∃ s s1 w x i stop a b, s.wave? 0 = some w ∧ w.stopped = false
    ∧ s.halts (dieOf 0) w.ctx = false ∧ s.lost.contains w.ctx = false
    ∧ fetchAt s 0 w 0xFFFF (w.lane (lowest 0xFFFF)).pc (w.lane (lowest 0xFFFF)).pc = .word s1 x
    ∧ clauseOf w 0xFFFF = .inside stop a b ∧ strayLanes w 0xFFFF false = 0 ∧ bits x 63 62 < 2 ∧ decode x 0 = .ok i :=
  ⟨sf nopWord, _, _, _, _, _, _, _, rfl, rfl, by decide, by decide, rfl, rfl, by decide, by decide, rfl⟩
theorem witness_LaneGroupRunsDecoded_pair : ∃ s s1 s2 w x y i stop a b, s.wave? 0 = some w ∧ w.stopped = false
    ∧ s.halts (dieOf 0) w.ctx = false ∧ s.lost.contains w.ctx = false
    ∧ fetchAt s 0 w 0xFFFF (w.lane (lowest 0xFFFF)).pc (w.lane (lowest 0xFFFF)).pc = .word s1 x
    ∧ clauseOf w 0xFFFF = .inside stop a b ∧ strayLanes w 0xFFFF false = 0 ∧ bits x 63 62 = 2
    ∧ (w.lane (lowest 0xFFFF)).pc + 8 ≠ stop
    ∧ fetchAt s1 0 w 0xFFFF (w.lane (lowest 0xFFFF)).pc ((w.lane (lowest 0xFFFF)).pc + 8) = .word s2 y ∧ decode x y = .ok i :=
  ⟨sf fmaPair, _, _, _, _, _, _, _, _, _, rfl, rfl, by decide, by decide, rfl, rfl, by decide, by decide, by decide, rfl, rfl⟩
theorem witness_LaneGroupRunsDecoded_header : ∃ s s1 w x i, s.wave? 0 = some w ∧ w.stopped = false
    ∧ s.halts (dieOf 0) w.ctx = false ∧ s.lost.contains w.ctx = false
    ∧ fetchAt s 0 w 0xFFFF (w.lane (lowest 0xFFFF)).pc (w.lane (lowest 0xFFFF)).pc = .word s1 x
    ∧ clauseOf w 0xFFFF = .header ∧ strayLanes w 0xFFFF true = 0 ∧ bits x 63 62 = 3 ∧ decode x 0 = .ok i :=
  ⟨sf header3, _, _, _, _, rfl, rfl, by decide, by decide, rfl, rfl, by decide, by decide, rfl⟩
/-- A NOP stands where the group's clause ended. -/
theorem witness_LaneGroupRunsDecoded_stray : ∃ s s1 w x, s.wave? 0 = some w ∧ w.stopped = false
    ∧ s.halts (dieOf 0) w.ctx = false ∧ s.lost.contains w.ctx = false
    ∧ fetchAt s 0 w 0xFFFF (w.lane (lowest 0xFFFF)).pc (w.lane (lowest 0xFFFF)).pc = .word s1 x
    ∧ strayLanes w 0xFFFF (decide (bits x 63 62 = 3)) ≠ 0 :=
  ⟨(sf nopWord).updWave 0 fun w => w.mapLanes 0xFFFF fun _ l => { l with cl := .header }, _, _, _, rfl, rfl, by decide, by decide,
    rfl, by decide⟩

/-- A control core that stands before NOP, and before a header. -/
def scOf (word : Nat) (cl : Clause) : State :=
  let w := { w0 with kind := .control, width := 1, nv := 0, lanes := [{ pc := 0x1000, cl }] }
  { sf word with agenda := [.control 0 0], waves := [(ctlNo 0 0, w)] }
def sc : State := scOf nopWord (.inside 0x1040 none none)

theorem witness_StepRunsDecoded : ∃ (s s1 : State) (rest : List Act) (w : Wave) (c : Cur) (i : Instr) (t : State),
    s.agenda = .control 0 0 :: rest
    ∧ (let sa : State := ({ s with epoch := s.epoch + 1, agenda := rest } : State).updWave (ctlNo 0 0) unyield
       let sb : State := sa.updWave (ctlNo 0 0) Wave.beginCycle
       sb.wave? (ctlNo 0 0) = some w ∧ w.stopped = false ∧ openGroups w = [1] ∧ w.holds = [] ∧ s.lost.contains w.ctx = false
       ∧ (w.lane 0).cl ≠ .header ∧ peek sb (ctlNo 0 0) w 1 = .instr s1 c i)
    ∧ exec i (issuing s1 c) = .next t ∧ t.issued = true :=
  ⟨sc, _, _, _, _, _, _, rfl, ⟨rfl, rfl, rfl, rfl, by decide, by decide, rfl⟩, rfl, rfl⟩
theorem witness_StepRunsDecoded_header : ∃ (s s1 : State) (rest : List Act) (w : Wave) (c : Cur) (i : Instr) (t : State),
    s.agenda = .control 0 0 :: rest
    ∧ (let sa : State := ({ s with epoch := s.epoch + 1, agenda := rest } : State).updWave (ctlNo 0 0) unyield
       sa.wave? (ctlNo 0 0) = some w ∧ w.stopped = false ∧ openGroups w = [1] ∧ w.holds = [] ∧ s.lost.contains w.ctx = false
       ∧ (w.lane 0).cl = .header ∧ peek sa (ctlNo 0 0) w 1 = .instr s1 c i)
    ∧ exec i (issuing s1 c) = .next t ∧ t.issued = true :=
  ⟨scOf header3 .header, _, _, _, _, _, _, rfl, ⟨rfl, rfl, rfl, rfl, by decide, rfl, rfl⟩, rfl, rfl⟩

theorem witness_SliceStepRunsDecoded : ∃ (s s1 : State) (rest : List Act) (w : Wave) (g : Mask) (c : Cur) (i : Instr) (t : State),
    s.agenda = .slice 0 0 :: rest ∧ coreOn { s with epoch := s.epoch + 1, agenda := rest } 0 = true
    ∧ ((s.waves.map Prod.fst).filter fun n => n / 32 == 0) = [waveNo 0 0 0]
    ∧ (let sa : State := onSlice { s with epoch := s.epoch + 1, agenda := rest } 0 0 unyield
       let sb : State := onSlice sa 0 0 Wave.beginCycle
       sb.wave? (waveNo 0 0 0) = some w ∧ w.stopped = false ∧ s.halts (dieOf (waveNo 0 0 0)) w.ctx = false
       ∧ s.lost.contains w.ctx = false ∧ openGroups w = [g] ∧ w.holds = [] ∧ g ≠ 0 ∧ (w.lane (lowest g)).cl ≠ .header
       ∧ peek sb (waveNo 0 0 0) w g = .instr s1 c i)
    ∧ exec i (issuing s1 c) = .next t ∧ t.issued = true :=
  ⟨sf nopWord, _, _, _, 0xFFFF, _, _, _, rfl, by decide, by decide,
    ⟨rfl, rfl, by decide, by decide, rfl, rfl, by decide, by decide, rfl⟩, rfl, rfl⟩
theorem witness_SliceStepRunsDecoded_header : ∃ (s s1 : State) (rest : List Act) (w : Wave) (g : Mask) (c : Cur) (i : Instr) (t : State),
    s.agenda = .slice 0 0 :: rest ∧ coreOn { s with epoch := s.epoch + 1, agenda := rest } 0 = true
    ∧ ((s.waves.map Prod.fst).filter fun n => n / 32 == 0) = [waveNo 0 0 0]
    ∧ (let sa : State := onSlice { s with epoch := s.epoch + 1, agenda := rest } 0 0 unyield
       sa.wave? (waveNo 0 0 0) = some w ∧ w.stopped = false ∧ s.halts (dieOf (waveNo 0 0 0)) w.ctx = false
       ∧ s.lost.contains w.ctx = false ∧ openGroups w = [g] ∧ w.holds = [] ∧ g ≠ 0 ∧ (w.lane (lowest g)).cl = .header
       ∧ peek sa (waveNo 0 0 0) w g = .instr s1 c i)
    ∧ exec i (issuing s1 c) = .next t ∧ t.issued = true :=
  ⟨sf header3, _, _, _, 0xFFFF, _, _, _, rfl, by decide, by decide,
    ⟨rfl, rfl, by decide, by decide, rfl, rfl, by decide, rfl, rfl⟩, rfl, rfl⟩

theorem witness_FetchReadsMemory : ∃ s w pc va pa d, gate s 0 w .fetch [(lowest 0xFFFF, va)] = .go [(lowest 0xFFFF, va, pa)] []
    ∧ place pa = .dev d ∧ pa % 8 = 0 ∧ inSpill s d pa = false ∧ inSpill s d (pa + 7) = false ∧ place (pa + 7) = .dev d
    ∧ anyBad s pa 8 = false ∧ pc = va :=
  ⟨sf nopWord, (sf nopWord).wave 0, _, 0x1000, _, _, rfl, rfl, by decide, by decide, by decide, by decide, by decide, rfl⟩

theorem witness_StepKeepsMemoryCanonical : ∃ s t, MemInv s ∧ step s = .next t := ⟨sf nopWord, _, by unfold MemInv; decide, rfl⟩
theorem witness_ReadAfterWrite : ∃ s, MemInv s ∧ s.mem ≠ [] := ⟨sf nopWord, by unfold MemInv; decide, by decide⟩

/-- The step runs the NOP: the wave stands at the next word. -/
theorem test_step_nop : (match step (sf nopWord) with | .next t => some ((t.wave 0).lane 15).pc | _ => none) = some 0x1008 := by
  decide
/-! ### The vector and cross-lane groups -/

/-- One instruction of every name of the vector group, with vector registers. -/
def intAll : List Instr :=
  let o := op4 (.v 8) (.v 2) (.v 3) (.v 4)
  let o2 := op4 (.v 8) (.v 2) (.v 3) z
  let o1 := op4 (.v 8) (.v 2) z z
  let t := vty .i32 .x2
  [.add o2 t, .sub o2 t, .addsat o2 t, .subsat o2 t, .mul o2 t, .mulhi o2 t, .mad o t, .neg o1 t, .abs o1 t, .min o2 t,
   .max o2 t, .clamp o t, .absdiff o2 t, .div o2 t, .rem o2 t, .madw o (vty .n8 .x4), .lea o (vty .n32), .bfx o t]
def logicAll : List Instr :=
  let o := op4 (.v 8) (.v 2) (.v 3) (.v 4)
  let o2 := op4 (.v 8) (.v 2) (.v 3) z
  let o1 := op4 (.v 8) (.v 2) z z
  let t := vty .b32 .x2
  [.and o2 t, .or o2 t, .xor o2 t, .andn o2 t, .not o1 t, .shl o2 (vty .n64), .shr o2 (vty .n16 .x4), .sar o2 (vty .i8 .x8),
   .rotl o2 (vty .n32 .x2), .funshr o (vty .b64), .popc o1 t, .clz o1 t, .ctz o1 t, .brev o1 t, .bfi o t, .permb o (vty .b64),
   .sel (op4 (.v 8) (.v 2) (.v 3) (.p 1)) t, .mov o1 t, .mov (op4 (.p 3) (.s 2) z z) (vty .b64)]
def bitAll : List Instr :=
  [.icmp (op4 (.p 4) (.v 2) (.v 3) z) (vty .i32 .x2) .lt true, .icmp (op4 (.s 4) (.s 2) (.s 3) z) (vty .n64) .ge false,
   .fcmp (op4 (.p 4) (.v 2) (.v 3) z) (vty .f32 .x2) .un false, .fclass (op4 (.p 4) (.v 2) (.imm 3) z) (vty .f32 .x2) false,
   .pand (op4 (.p 4) (.p 1) (.p 2) z), .por (op4 (.p 4) (.p 1) (.p 2) z), .pxor (op4 (.p 4) (.p 1) (.p 2) z),
   .pandn (op4 (.p 4) (.p 1) (.p 2) z), .pset (op4 (.p 4) (.v 1) z z) true]
def floatAll : List Instr :=
  let o := op4 (.v 8) (.v 2) (.v 3) (.v 4)
  let o2 := op4 (.v 8) (.v 2) (.v 3) z
  let o1 := op4 (.v 8) (.v 2) z z
  let t := vty .f32 .x2
  [.fadd o2 t, .fsub o2 t, .fmul o2 t, .fma o t, .fms o t, .fnma o t, .fmin o2 t, .fmax o2 t, .fabs o1 t, .fneg o1 t,
   .fdiv o2 t, .fsqrt o1 t, .frcp o1 t, .frsq o1 t, .fexp2 o1 t, .flog2 o1 t, .fsin o1 t, .fcos o1 t, .ftanh o1 t, .fsigm o1 t,
   .frnd o1 t, .ffrac o1 t, .fscale o2 t, .fdot2 o (vty .f16 .x4), .fdot4 o (vty .n8 .x8)]
def convAll : List Instr :=
  let o2 := op4 (.v 8) (.v 2) (.s 3) z
  [.fcvt o2 (vty .e4m3 .x8) (vty .f32 .x2), .ftoi o2 (vty .i32 .x2) (vty .f64), .itof o2 (vty .f16 .x4) (vty .n32 .x2),
   .icvt o2 (vty .i8 .x8) (vty .i64), .pack (op4 (.v 8) (.v 2) (.v 3) z) (vty .i16 .x4), .unpk o2 (vty .n16 .x4), .qcvt o2 (vty .q8 .x8) (vty .f32 .x2),
   .qdeq o2 (vty .f32 .x2) (vty .q4 .x8), .mxcvt (op4 (.v 8) (.v 2) (.v 3) (.v 4)) (vty .e4m3 .x8)]

/-- Every name of the group issues, as VectorGroupCompletes and the result statements ask. -/
theorem witness_IntegerResults : intAll.all (ready w0) = true := by decide
theorem witness_WideningAndAddressResults : [Instr.madw (op4 (.v 8) (.v 2) (.v 3) (.v 4)) (vty .n8 .x4),
    .lea (op4 (.v 8) (.v 2) (.v 3) (.v 4)) (vty .n32)].all (ready w0) = true := by decide
theorem witness_BitFieldAndSelectionResults : [Instr.bfx (op4 (.v 8) (.v 2) (.v 3) (.v 4)) (vty .i32 .x2),
    .bfi (op4 (.v 8) (.v 2) (.v 3) (.v 4)) (vty .b32 .x2), .permb (op4 (.v 8) (.v 2) (.v 3) (.v 4)) (vty .b64),
    .sel (op4 (.v 8) (.v 2) (.v 3) (.p 1)) (vty .b32 .x2)].all (ready w0) = true := by decide
theorem witness_LogicAndShiftResults : logicAll.all (ready w0) = true := by decide
theorem witness_CompareAndPredicateResults : bitAll.all (ready w0) = true ∧ w0.p.length = 15 := by decide
theorem witness_FloatResults : floatAll.all (ready w0) = true ∧ w0.p.length = 15 := by decide
theorem witness_ConversionResults : convAll.all (ready w0) = true := by decide
theorem witness_VectorGroupCompletes : (intAll ++ logicAll ++ bitAll ++ floatAll ++ convAll).all (fun i =>
    match i.parts with | some p => 0x080 ≤ p.op && p.op < 0x180 && !readsDrain p.ops | none => false) = true := by decide
theorem witness_VectorGroup_issues : ∃ s c i p, Instr.parts i = some p ∧ 0x080 ≤ p.op ∧ p.op < 0x180 ∧ i.Wf = true ∧ Issues s i c :=
  ⟨_, _, .mov (op4 (.v 319) (.s 255) z z) (vty .b64), _, rfl, by decide, by decide, issues w0 _ (by decide)⟩
/-- The first clause of FloatResults: values that are no NaN, subnormals kept. -/
theorem witness_FloatResults_sign : ∃ s c o t, (Instr.fneg o t).Wf = true ∧ Issues s (.fneg o t) c ∧ c.w.fz = false
    ∧ selOf s c o ≠ 0 ∧ ∀ l ∈ vecLanes o (selOf s c o), ∀ j, j < t.cnt.n →
      (srcVal t.ty false (elem t.ty.width (readSrc s c.w o .a t l) j)).isNan = false :=
  have h := issues w0 (.fneg (op4 (.v 8) (.imm 1) z z) (vty .f32 .x2)) (by decide)
  ⟨_, _, _, _, h.1, h.2, by decide, by decide, by decide⟩
theorem witness_PairedWordResults :
    ready w0 (.pairedWord { op := .mov, d := 255, a := 9, t := vty .b64 } { op := .fmul, d := 13, a := 14, t := vty .f32 .x2 })
      = true := by decide

/-- One instruction of every name of the cross-lane group. -/
def crossAll : List Instr :=
  let ou := op4 (.v 8) (.v 2) (.s 3) z
  let o2 := op4 (.v 8) (.v 2) (.v 3) z
  let o1 := op4 (.v 8) (.v 2) z z
  let t := vty .i32 .x2
  [.shfl o2 t, .shflx ou t, .shflu ou t, .shfld ou t, .shfls o2 t, .push o2 (vty .b64), .pushs o2 t, .bcast ou t,
   .bcast (op4 (.s 8) (.v 2) (.imm 3) z) t, .voteany (op4 (.s 8) (.v 2) z z) (vty .b32), .voteall (op4 (.p 8) (.v 2) z z) (vty .b32),
   .voteeq (op4 (.s 8) (.v 2) z z) t, .ballot (op4 (.v 8) (.p 2) z z), .pcount (op4 (.s 8) (.p 2) z z),
   .matchv o1 (vty .b32), .scani o1 t .max, .scanx o1 (vty .f32 .x2) .add, .wred (op4 (.s 8) (.v 2) z z) t .and, .wredv o1 t .add,
   .segscan (op4 (.v 8) (.v 2) (.p 1) z) t .add, .compact (op4 (.v 8) (.v 2) (.p 1) z) t, .firstl (op4 (.s 8) (.p 2) z z)]

theorem witness_CrossLaneCompletes : crossAll.all (fun i => ready w0 i &&
    match i.parts with | some p => 0x180 ≤ p.op && p.op < 0x1C0 && !readsDrain p.ops | none => false) = true
    ∧ w0.pending 0xFFFF = 0 ∧ w0.xlc < 15 := by decide
/-- A wave whose lane 15 parked from the group. -/
def wPend : Wave := { w0 with lanes := List.replicate 15 { pc := 0x1000 } ++ [{ pc := 0x1000, st := .parked, pend := 0xFFFF }] }
theorem witness_CrossLaneCompletes_held : ready wPend (.ballot (op4 (.v 8) (.p 2) z z)) = true ∧ wPend.pending 0x7FFF ≠ 0 := by decide
theorem witness_CrossLaneCompletes_full : ready { w0 with xlc := 15 } (.ballot (op4 (.v 8) (.p 2) z z)) = true
    ∧ 15 ≤ ({ w0 with xlc := 15 } : Wave).xlc := by decide
/-- A wave on which a result for lane 3 of v9 is on its way, and a result for a predicate. -/
def wXl (left : Nat) : Wave := { w0 with xlc := 2, xl := [{ left := 3, writes := [(pkey 2 1, 1)] }, { left, writes := [(vkey 9 3, 5)] }] }
theorem witness_CrossLaneCompletes_interlocked : ∃ s c i p, Instr.parts i = some p ∧ 0x080 ≤ p.op ∧ p.op < 0x1C0
    ∧ State.issuer s i = some c ∧ c.w.quantum.ended = false ∧ s.replay.struck.contains c.key = false
    ∧ waveCheck i (isCtl c.key) c.w = none ∧ interlocked i c.w = true :=
  ⟨st (wXl 0), iss (wXl 0), .add (op4 (.v 8) (.v 9) (.v 3) z) (vty .i32), _, rfl, by decide, by decide, rfl, rfl, rfl, rfl, by decide⟩
theorem witness_CrossLaneCompletes_due : ∃ w r xs ys, Wave.xl w = xs ++ r :: ys ∧ (∀ q ∈ xs ++ ys, q.left ≠ 0) ∧ w.fall = []
    ∧ w.p.length = 15 ∧ w.width ≤ 64 ∧ r.left = 0 :=
  ⟨wXl 0, { left := 0, writes := [(vkey 9 3, 5)] }, [{ left := 3, writes := [(pkey 2 1, 1)] }], [], rfl, by decide, rfl, rfl, by decide, rfl⟩
theorem witness_CrossLaneCompletes_later : ∃ w r xs ys, Wave.xl w = xs ++ r :: ys ∧ (∀ q ∈ xs ++ ys, q.left ≠ 0) ∧ w.fall = []
    ∧ w.p.length = 15 ∧ w.width ≤ 64 ∧ r.left ≠ 0 :=
  ⟨wXl 4, { left := 4, writes := [(vkey 9 3, 5)] }, [{ left := 3, writes := [(pkey 2 1, 1)] }], [], rfl, by decide, rfl, rfl, by decide, by decide⟩
/-- A result that falls due is written, and the other comes one cycle nearer. -/
theorem test_cross_lane_lands : (wXl 0).beginCycle.v.find? (vkey 9 3) = some 5 ∧ (wXl 0).beginCycle.xlc = 1
    ∧ (wXl 0).beginCycle.xl.map (fun r => r.left) = [2] := by decide
theorem witness_ShuffleResults : ∃ s c i, Instr.Wf i = true ∧ Issues s i c ∧ c.w.pending c.mask = 0 ∧ c.w.xlc < 15 ∧ selOf s c (op4 (.v 8) (.v 2) (.v 3) z) ≠ 0 :=
  have h := issues w0 (.shfl (op4 (.v 8) (.v 2) (.v 3) z) (vty .i32 .x2)) (by decide)
  ⟨_, _, _, h.1, h.2, by decide, by decide, by decide⟩
/-- Lanes 0 and 1 both push to lane 2. -/
def wPush : Wave := (List.range 16).foldl (fun w l => w |> vr 2 l (BitVec.ofNat 64 (100 + l)) |> vr 3 l (if l < 2 then 2 else 5)) w0
theorem witness_PushAndCompactResults :
    ready wPush (.push (op4 (.v 8) (.v 2) (.v 3) z) (vty .b64)) = true ∧ ready wPush (.compact (op4 (.v 8) (.v 2) (.p 1) z) (vty .b64)) = true
    ∧ (readSrc (st wPush) wPush (op4 (.v 8) (.v 2) (.v 3) z) .b b64 0).toNat % 64 % wPush.width = 2
    ∧ selOf (st wPush) (iss wPush) (op4 (.v 8) (.v 2) (.v 3) z) = 0xFFFF := by decide
theorem witness_VoteResults : (crossAll.filter fun i => match i with
    | .voteany _ _ | .voteall _ _ | .voteeq _ _ | .ballot _ | .pcount _ | .firstl _ | .matchv _ _ => true
    | _ => false).length = 7 := by decide
theorem witness_IntegerScanResults : ∃ s c o t op, (Instr.scani o t op).Wf = true ∧ Issues s (.scani o t op) c
    ∧ c.w.pending c.mask = 0 ∧ c.w.xlc < 15 ∧ t.ty.isFp = false ∧ c.w.width = 16 ∧ ∀ l, c.mask.getLsbD l = true → l < c.w.width :=
  have h := issues w0 (.scani (op4 (.v 8) (.v 2) z z) (vty .i32 .x2) .max) (by decide)
  ⟨_, _, _, _, _, h.1, h.2, by decide, by decide, rfl, rfl, fun l hl => by
    have h64 : l < 64 := Nat.lt_of_not_le fun hn => by rw [BitVec.getLsbD_of_ge _ _ hn] at hl; cases hl
    exact (by decide : ∀ l, l < 64 → (0xFFFF : Mask).getLsbD l = true → l < 16) l h64 hl⟩

/-! ### Results of the spec's worked examples, and of its formulas by hand -/

/-- An instruction's 64 bits in lane 0 of v8, from v2, v3 and v4. -/
def one (i : Instr) (a b c : Word) : Option Word := vAfter i (w0 |> vr 2 0 a |> vr 3 0 b |> vr 4 0 c |> vr 8 0 0) 8 0
def o1 : Ops := op4 (.v 8) (.v 2) z z
def o2 : Ops := op4 (.v 8) (.v 2) (.v 3) z
def o3 : Ops := op4 (.v 8) (.v 2) (.v 3) (.v 4)

/-- R176's example: the paired ADD wraps in one sub-element and FMUL multiplies; both read before either writes. -/
def pairEx : Instr := .pairedWord { op := .add, d := 8, a := 9, t := vty .i32 .x2 } { op := .fmul, d := 13, a := 14, t := vty .f32 .x2 }
def wEx : Wave := w0 |> vr 8 0 0x00000005FFFFFFFF |> vr 9 0 0x0000000100000001 |> vr 13 0 0x400000003F800000 |> vr 14 0 0x40400000C0000000
theorem test_paired_add : vAfter pairEx wEx 8 0 = some 0x0000000600000000 := by decide
theorem test_paired_fmul : vAfter pairEx wEx 13 0 = some 0x40C00000C0000000 := by decide
/-- R176's example: FMA rounds 1.5 + 1.5 × 2^−23 by RZ. -/
def litEx : Lit := { sel := .c, kind := .f32, val := 0x0FF00000 }
def pfxEx : Pfx := { mask := some 1, zero := true, rnd := .rz, scope := none, e := none, lit := some litEx }
def fmaEx : Instr := .fma { op4 (.v 4) (.v 5) (.v 6) z with pred := .sel 2 true, pfx := some pfxEx } (vty .f32 .x2)
theorem test_fma_rz : vAfter fmaEx (w0 |> vr 5 0 0x404000003F800000 |> vr 6 0 0x4000000034400000 |> pr 2 4 |> pr 1 5) 4 0
    = some 0x40F000003FC00001 := by decide
/-- Its unselected lane 2, active in the group, takes 0 by Z = 1. -/
theorem test_fma_zeroes : vAfter fmaEx (w0 |> vr 4 2 9 |> pr 2 4 |> pr 1 5) 4 2 = some 0 := by decide
/-- R221's examples. -/
theorem test_lea_signed : vAfter (.lea (op4 (.v 8) (.s 4) (.v 3) (.imm 3)) (vty .i32))
    (w0 |> sr 4 0x0000200000000100 |> vr 3 0 0xFFFFFFFE) 8 0 = some 0x00002000000000F0 := by decide
theorem test_lea_unsigned : vAfter (.lea (op4 (.v 8) (.s 4) (.v 3) (.imm 3)) (vty .n32))
    (w0 |> sr 4 0x0000200000000100 |> vr 3 0 0xFFFFFFFE) 8 0 = some 0x00002008000000F0 := by decide
/-- R227's example. -/
theorem test_pandn : pAfter (.pandn { op4 (.p 4) (.p 1) (.p 2) z with pred := .sel 3 false })
    (w0 |> pr 1 0x00F0 |> pr 2 0x0FF0 |> pr 3 0x00FF |> pr 4 0xFFFF) 4 = some 0xFF00 := by decide
/-- R235's example, by RNE and by RUP, and its flags. -/
def fcvtEx : Instr := .fcvt (op4 (.v 10) (.v 2) (.imm 1) z) (vty .e4m3 .x8) (vty .f32 .x2)
def wCvt : Wave := (List.range 16).foldl (fun w l => w |> vr 2 l 0xC47A000043960000 |> vr 10 l 0x1111111111111111) w0
theorem test_fcvt : vAfter fcvtEx wCvt 10 0 = some 0x11111111FE791111 := by decide
theorem test_fcvt_flags : flAfter fcvtEx wCvt = some 2 := by decide
theorem test_fcvt_up : vAfter (.fcvt { op4 (.v 10) (.v 2) (.imm 1) z with
      pfx := some { mask := none, zero := false, rnd := .rup, scope := none, e := none, lit := none } } (vty .e4m3 .x8) (vty .f32 .x2))
    wCvt 10 0 = some 0x11111111FE7A1111 := by decide
/-- R238's example. -/
def mxEx : Instr := .mxcvt { op4 (.v 20) (.v 1) (.v 2) (.v 30) with pred := .sel 1 false } (vty .e4m3 .x8)
def wMx : Wave := (List.range 4).foldl (fun w l => w |> vr 1 l (if l = 0 then 0x0000BF003F8040C0 else 0)
    |> vr 2 l (if l = 3 then 0x7F80000000000000 else 0)) (w0 |> pr 1 0xF)
theorem test_mxcvt_codes : vAfter mxEx wMx 20 0 = some 0x0000000000E0687C ∧ vAfter mxEx wMx 20 3 = some 0x7E00000000000000 := by decide +kernel
theorem test_mxcvt_scale : vAfter mxEx wMx 30 1 = some 0x79 := by decide +kernel
/-- R251's example: lane 3 receives lane 2's value, lane 2 keeps its own; the scan of the results. -/
def wPushEx : Wave := (List.range 16).foldl (fun w l => w |> vr 2 l (BitVec.ofNat 64 (100 + l)) |> vr 6 l 0xFF
    |> vr 3 l (BitVec.ofNat 64 (([3, 5, 3, 7, 12, 0, 6, 1][l]?).getD 0))) (w0 |> pr 1 0xFF)
def pushEx : Instr := .push { op4 (.v 6) (.v 2) (.v 3) z with pred := .sel 1 false } (vty .b64)
theorem test_push : (List.range 9).map (vLanded pushEx wPushEx 6) = [105, 107, 255, 102, 255, 101, 106, 103, 255].map some := by decide
def wScan : Wave := (List.range 16).foldl (fun w l => vr 6 l (BitVec.ofNat 64 (([105, 107, 255, 102, 255, 101, 106, 103][l]?).getD 255)) w)
  (w0 |> pr 1 0xFF)
theorem test_scanx : (List.range 8).map (vLanded (.scanx { op4 (.v 7) (.v 6) z z with pred := .sel 1 false } (vty .i32) .add) wScan 7)
    = [0, 105, 212, 467, 569, 824, 925, 1031].map some := by decide

theorem test_addsat : one (.addsat o2 (vty .i8 .x8)) 0x7F80 0x0180 0 = some 0x7F80 := by decide
theorem test_subsat : one (.subsat o2 (vty .n16 .x4)) 0x00010005 0x00020003 0 = some 2 := by decide
theorem test_mulhi : one (.mulhi o2 (vty .i32)) 0xFFFFFFFF 2 0 = some 0xFFFFFFFF := by decide
theorem test_mad : one (.mad o3 (vty .i16)) 0xFFFF 3 5 = some 2 := by decide
theorem test_madw : one (.madw o3 (vty .n8 .x4)) 0xFFFFFFFF 0x02020202 0x0001000100010001 = some 0x01FF01FF01FF01FF := by decide
theorem test_div_least : one (.div o2 (vty .i32)) 0x80000000 0xFFFFFFFF 0 = some 0x80000000 := by decide
theorem test_div_zero : one (.div o2 (vty .n32 .x2)) 0x0000000700000009 0x0000000000000002 0 = some 0xFFFFFFFF00000004 := by decide
theorem test_rem_sign : one (.rem o2 (vty .i32)) 0xFFFFFFF9 3 0 = some 0xFFFFFFFF := by decide
theorem test_abs_least : one (.abs o1 (vty .i8 .x8)) 0x80FF 0 0 = some 0x8001 := by decide
theorem test_clamp : one (.clamp o3 (vty .i32)) 9 8 4 = some 4 := by decide
theorem test_absdiff : one (.absdiff o2 (vty .i8 .x8)) 0x80 0x7F 0 = some 0xFF := by decide
theorem test_sar_far : one (.sar o2 (vty .n16 .x4)) 0x8000 0x0010 0 = some 0xFFFF := by decide
theorem test_shl_far : one (.shl o2 (vty .n64)) 1 64 0 = some 0 := by decide
theorem test_rotl : one (.rotl o2 (vty .n8 .x8)) 0x81 9 0 = some 0x03 := by decide
theorem test_funshr : one (.funshr o3 (vty .b32)) 0x1 0x80000000 36 = some 0x18000000 := by decide
theorem test_bfx_signed : one (.bfx o3 (vty .i32)) 0xF0 4 4 = some 0xFFFFFFFF := by decide
theorem test_bfx_beyond : one (.bfx o3 (vty .i32)) 0x80000000 28 8 = some 0xFFFFFFF8 := by decide
theorem test_clz_zero : one (.clz o1 (vty .b32 .x2)) 0x0000000100000000 0 0 = some 0x0000001F00000020 := by decide
theorem test_brev : one (.brev o1 (vty .b64)) 1 0 0 = some 0x8000000000000000 := by decide
theorem test_permb : one (.permb o3 (vty .b64)) 0x0706050403020100 0x0F0E0D0C0B0A0908 0x80FF000F08070001 = some 0x0000000F08070001 := by
  decide
theorem test_fdiv_zero : one (.fdiv o2 (vty .f32)) 0xBF800000 0x00000000 0 = some 0xFF800000 := by decide +kernel
theorem test_fsqrt : one (.fsqrt o1 (vty .f64)) 0x4000000000000000 0 0 = some 0x3FF6A09E667F3BCD := by decide +kernel
theorem test_fmin_zeros : one (.fmin o2 (vty .f32)) 0x00000000 0x80000000 0 = some 0x80000000 := by decide
theorem test_frnd_sign : one (.frnd o1 (vty .f32)) 0xBE800000 0 0 = some 0x80000000 := by decide
theorem test_fsin_half : one (.fsin o1 (vty .f32)) 0x3F000000 0 0 = some 0x3F800000 := by decide +kernel
theorem test_fexp2_integer : one (.fexp2 o1 (vty .f16 .x1)) 0x4200 0 0 = some 0x4800 := by decide +kernel
theorem test_fscale : one (.fscale o2 (vty .f32)) 0x3F800000 0xFFFFFFFF 0 = some 0x3F000000 := by decide +kernel
theorem test_fdot4_int : one (.fdot4 o3 (vty .i8 .x8)) 0x00000000FF020304 0x0000000001010101 0xFFFFFFFF = some 0x0000000000000007 := by
  decide
theorem test_pack : one (.pack o2 (vty .i8 .x8)) 0x0004000300020001 0x0008000700060105 0 = some 0x0807060504030201 := by decide
theorem test_unpk : one (.unpk (op4 (.v 8) (.v 2) (.imm 1) z) (vty .i16 .x4)) 0x80FF7F0100000000 0 0 = some 0xFF80FFFF007F0001 := by decide

/-! ### Memory instructions -/

/-- Lane l of v2 holds 0x1100 + 32 l, and s2 holds 0x1200. -/
def wM : Wave := (List.range 16).foldl (fun w l => vr 2 l (BitVec.ofNat 64 (0x1100 + 32 * l)) w) (w0 |> sr 2 0x1200)
def addrs : List (Nat × Word) := (List.range 16).map fun l => (l, BitVec.ofNat 64 (0x1100 + 32 * l))
def pas : List (Nat × Word × Nat) := (List.range 16).map fun l => (l, BitVec.ofNat 64 (0x1100 + 32 * l), 0x1100 + 32 * l)
def mk : MMod := mty .k .b64
def oL : Ops := op4 (.v 4) (.v 2) (.imm 0) z
def oS : Ops := op4 z (.v 2) (.imm 0) (.v 5)
def oA : Ops := op4 (.v 4) (.v 2) (.v 6) z
def oR : Ops := op4 z (.v 2) (.v 6) z

/-- Every lane's access is translated, for reads and for writes, at every width up to 32. -/
theorem translated (need : Need) (h : need = .read ∨ need = .write ∨ need = .both) : Translated (st wM) (iss wM) need 32 addrs pas := by
  refine ⟨by decide, by decide, ?_, by decide⟩
  obtain h | h | h := h <;> subst h <;> rfl
theorem translated8 (need : Need) (h : need = .read ∨ need = .write ∨ need = .both) : Translated (st wM) (iss wM) need 8 addrs pas :=
  ⟨by decide, by decide, (translated need h).gate, by decide⟩

theorem witness_LoadsIssue : ready wM (.ld oL mk) = true
    ∧ (if onceFor (.ld oL mk) then (lanesOf (selOf (st wM) (iss wM) oL)).take 1 else lanesOf (selOf (st wM) (iss wM) oL)).map
        (fun l => (l, readSrc (st wM) wM oL .a b64 l + readSrc (st wM) wM oL .b b64 l)) = addrs
    ∧ (∀ x ∈ pas, mapWidthBad false x.2.2 mk.ty.bytes = false) ∧ wM.ldc < 63 := by decide
/-- Operands without a selected lane: p1 is 0. -/
def noLane (o : Ops) : Ops := { o with pred := .sel 1 false }
theorem witness_LoadsIssue_none : [Instr.ld (noLane oL) mk, .ldbc (noLane (op4 (.v 4) (.s 2) (.imm 0) z)) mk].all (ready wM) = true
    ∧ selOf (st wM) (iss wM) (noLane oL) = 0 ∧ wM.ldc < 63 := by decide
/-- LDC stays raised until the next cycle. -/
theorem test_load_without_lanes : ((after (.ld (noLane oL) mk) wM).map fun t => ((t.wave 0).ldc, (t.wave 0).beginCycle.ldc)) = some (1, 0) := by
  decide +kernel
/-- LDBC reads one block, and LDSC eight words, the greatest number. -/
theorem witness_LoadsIssue_ldbc : ready wM (.ldbc (op4 (.v 4) (.s 2) (.imm 0) z) mk) = true := by decide
theorem witness_LoadsIssue_ldsc : ready wM (.ldsc (op4 (.s 8) (.s 2) (.imm 0) z) mk 7) = true
    ∧ (∃ ok, Translated (st wM) (iss wM) .read 8 ((List.range 8).map fun n => (0, 0x1200 + BitVec.ofNat 64 (8 * n))) ok) :=
  ⟨by decide, (List.range 8).map fun n => (0, 0x1200 + BitVec.ofNat 64 (8 * n), 0x1200 + 8 * n), by decide, by decide, rfl, by decide⟩
theorem witness_StoresIssue : ready wM (.st oS mk) = true ∧ ready wM (.stsc (op4 (.s 8) (.s 2) (.imm 0) z) mk 7) = true
    ∧ onceFor (.st oS mk) = false ∧ (∀ x ∈ pas, mapWidthBad true x.2.2 mk.ty.bytes = false) ∧ ∀ sc : Scope, wM.stc sc < 63 :=
  ⟨by decide, by decide, by decide, by decide, fun sc => by cases sc <;> decide⟩
theorem witness_StoresIssue_none : ready wM (.st (noLane oS) mk) = true ∧ selOf (st wM) (iss wM) (noLane oS) = 0 := by decide
theorem witness_AtomicsIssue : [Instr.aadd oA (mty .k .i64), .amin oA (mty .k .f64), .amax oA (mty .s .i64), .aand oA mk, .aor oA mk,
      .axor oA mk, .aexch oA mk, .acas (op4 (.p 4) (.v 2) (.v 6) (.v 7)) mk, .redadd oR (mty .k .n64), .redmin oR (mty .k .n64),
      .redmax oR (mty .k .f64), .redand oR mk, .redor oR mk, .redxor oR mk, .badd oR (mty .k .f64),
      .bread (op4 (.v 4) (.v 2) z z) (mty .k .f64)].all (fun i => ready wM i && !onceFor i) = true
    ∧ recMode (st wM) wM = 0 ∧ (∀ x ∈ pas, isMap x.2.2 = false)
    ∧ (lanesOf (selOf (st wM) (iss wM) oA)).map (fun l => (l, readSrc (st wM) wM oA .a b64 l)) = addrs := by decide
theorem witness_AtomicsIssue_none : [Instr.aadd (noLane oA) (mty .k .i64), .redadd (noLane oR) (mty .k .n64),
      .bread (noLane (op4 (.v 4) (.v 2) z z)) (mty .k .f64)].all (ready wM) = true ∧ selOf (st wM) (iss wM) (noLane oA) = 0
    ∧ selOf (st wM) (iss wM) (noLane oR) = 0 := by decide

/-- Lane 3's address has bit 56 set; lane 4's is odd. -/
def wBad : Wave := wM |> vr 2 3 0x0100000000001100
def wOdd : Wave := wM |> vr 2 4 0x1101
theorem witness_AddressChecksTrap_range : ready wBad (.ld oL mk) = true ∧ onceFor (.ld oL mk) = false
    ∧ ((lanesOf (selOf (st wBad) (iss wBad) oL)).filter fun l =>
        bits (readSrc (st wBad) wBad oL .a b64 l + readSrc (st wBad) wBad oL .b b64 l) 63 56 != 0).head? = some 3 := by decide
theorem witness_AddressChecksTrap_aligned : ready wOdd (.badd oR (mty .k .f64)) = true ∧ onceFor (.badd oR (mty .k .f64)) = false
    ∧ ((lanesOf (selOf (st wOdd) (iss wOdd) oR)).filter fun l => bits (readSrc (st wOdd) wOdd oR .a b64 l) 63 56 != 0) = []
    ∧ ((lanesOf (selOf (st wOdd) (iss wOdd) oR)).filter fun l => (readSrc (st wOdd) wOdd oR .a b64 l).toNat % 32 != 0).head? = some 4 := by
  decide
/-- Page 1 maps to the on-chip map. -/
def stMap : State :=
  let leaf : Leaf := { ctx := 0, size := 12, va := 1, pa := (2 ^ 40 + 2 ^ 36) / 2 ^ 12 + 1, rd := true, w := true, x := true }
  { st wM with dies := [(0, { ctxbase := 0x10001, tlb := [leaf] })] }
theorem witness_AddressChecksTrap_target : ∃ ok, Translated stMap (iss wM) .both 8 addrs ok
    ∧ (ok.filter fun x => isMap x.2.2).map Prod.fst ≠ [] ∧ onceFor (.aadd oA (mty .k .i64)) = false ∧ recMode stMap wM = 0
    ∧ wM.ldc < 63 :=
  ⟨addrs.map fun x => (x.1, x.2, 2 ^ 40 + 2 ^ 36 + x.2.toNat), ⟨by decide, by decide, rfl, by decide⟩, by decide, by decide, by decide, by decide⟩

/-- A team with two lines of scratchpad and READY tile 5, of four lines. -/
def tile5 (x : TileSt) : TileEnt := { st := x, scr := true, err := false, tid := 9, base := 8, lines := 4, gen := 3 }
def stT (x : TileSt) (w : Wave) : State :=
  { st w with teams := [(0, { waves := [(0, 0)], scratch := (2, 2) })], cores := [(0, { tiles := [(5, (tile5 x).word)] })] }
def wT : Wave := (List.range 16).foldl (fun w l => vr 2 l (BitVec.ofNat 64 (16 * l + 8)) w) w0
theorem witness_BufferAccessesComplete : ready wT (.lds oL (mty .t .b64)) = true ∧ ready wT (.sts oS (mty .t .b64)) = true
    ∧ onceFor (.lds oL (mty .t .b64)) = false ∧ recMode (stT .ready wT) wT = 0
    ∧ (lanesOf (selOf (stT .ready wT) (iss wT) oL)).all (fun l =>
        (readSrc (stT .ready wT) wT oL .a b64 l + readSrc (stT .ready wT) wT oL .b b64 l).toNat % 8 == 0
        && (readSrc (stT .ready wT) wT oL .a b64 l + readSrc (stT .ready wT) wT oL .b b64 l).toNat + 8 ≤ 2 * 128) = true := by decide
theorem witness_BufferAccessesComplete_tile : ready wT (.ldt (op4 (.v 4) (.imm 0) (.v 2) z) (mty .t .b64) 5) = true
    ∧ ready wT (.stt (op4 (.v 4) (.imm 0) (.v 2) z) (mty .t .b64) 5) = true
    ∧ tileAt (stT .ready wT) 0 (5 : BitVec 6).toNat = some (tile5 .ready) ∧ readyAt (stT .ready wT) 0 5 (tile5 .ready) = true
    ∧ wT.stct < 63 ∧ 16 * 15 + 8 + 8 ≤ (tile5 .ready).lines * 128 := by decide
theorem witness_PrefetchAndCounterWait : ready wM (.pref (op4 z (.v 2) (.imm 0) z) mk) = true
    ∧ ready { wM with ldc := 2 } (.waitc (op4 z (.imm 1) z z) .ldc) = true
    ∧ ¬ ({ wM with ldc := 2 } : Wave).counter .ldc ≤ (readSrc (st wM) wM (op4 z (.imm 1) z z) .a b64 0).toNat := by decide
def oW : Ops := op4 (.s 10) (.s 2) (.s 3) z
theorem witness_WaituRegisters : ready wM (.waitu oW .ges true (some 5)) = true ∧ selOf (st wM) (iss wM) oW ≠ 0
    ∧ wM.leash = none ∧ wM.adopted = none ∧ recMode (st wM) wM = 0 ∧ State.waitable 0x1200 = true ∧ unmapped (st wM) 0x1200 = false
    ∧ mapWidthBad false 0x1200 8 = false ∧ Translated (st wM) (iss wM) .read 8 [(lowest (selOf (st wM) (iss wM) oW), readSrc (st wM) wM oW .a b64 0)]
        [(lowest (selOf (st wM) (iss wM) oW), readSrc (st wM) wM oW .a b64 0, 0x1200)] :=
  ⟨by decide, by decide, rfl, rfl, by decide, by decide, by decide, by decide, by decide, by decide, rfl, by decide⟩
def oNoneS : Ops := { op4 (.s 10) (.imm 0) (.imm 0) z with pred := .sel 1 false }
theorem witness_WaituRegisters_none : ready w0 (.waitu oNoneS .ne false none) = true
    ∧ selOf (st w0) (iss w0) oNoneS = 0 := by decide
theorem witness_EngineCommandsIssue : [Instr.gath (op4 z (.s 252) (.s 3) z) mk, .scat (op4 z (.s 0) (.imm 3) z) mk,
      .scatr (op4 z (.s 0) (.s 3) z) (mty .k .i64), .copy (op4 z (.s 252) z z), .stream (op4 z (.s 0) z z) true,
      .tnset (op4 z (.s 248) z z) 255, .tnget (op4 (.s 248) z z z) 0, .trav (op4 z (.v 2) (.v 3) (.s 4))].all (ready w0) = true
    ∧ selOf (st w0) (iss w0) (op4 z (.s 0) z z) ≠ 0 ∧ w0.engc < 255 ∧ ((st w0).core 0).credits < 16
    ∧ (copyQueue (st w0) (copyEngine 0)).length < 64 ∧ (streamQueue (st w0) 0 true).length < 5 := by decide
theorem witness_EngineCommandsIssue_none : ready w0 (.trav (noLane (op4 z (.v 2) (.v 3) (.s 4)))) = true
    ∧ selOf (st w0) (iss w0) (noLane (op4 z (.v 2) (.v 3) (.s 4))) = 0 := by decide
/-- A command of a later slice has changed the table in this cycle. -/
def stLate (w : Wave) : State := (stT .empty w).updCore 0 fun c => { c with tableAt := (0, placeOf 1 (waveNo 0 1 0)) }
theorem witness_TileCommands : tileAt (stT .empty w0) ((stT .empty w0).team 0).core (5 : BitVec 6).toNat = some (tile5 .empty)
    ∧ tileAt (stT .filling w0) 0 (5 : BitVec 6).toNat = some (tile5 .filling) ∧ (tile5 .filling).st ≠ .ready
    ∧ readyAt (stT .filling w0) 0 5 (tile5 .filling) = false
    ∧ (stT .empty w0).inTurn 0 ((stT .empty w0).core 0).tableAt (placeOf 1 0) = true
    ∧ (stLate w0).inTurn 0 ((stLate w0).core 0).tableAt (placeOf 1 0) = false
    ∧ tileAt (stT .empty w0) 0 (63 : BitVec 6).toNat = none
    ∧ [Instr.ttrdy (op4 z z z z) 5, .ttrel (op4 z z z z) 5, .ttsub (op4 z z z z) 63, .ttstop (op4 z z z z) true,
        .ttget (op4 (.v 4) z z z) 5, .ttget (op4 (.s 4) z z z) 63].all (ready w0) = true := by decide

/-! ### Memory instructions after their issue -/

def ldTx (lane : Nat) : Tx :=
  { wave := 0, serial := 7, kind := .load, scope := .k, ty := .b64, dst := .v 319, pc := 0x1000, seq := 0, ldc := true,
    accs := [{ lane, va := 0x1100, pa := 0x1100, n := 8 }] }
def stTx (stage : Nat) : Tx :=
  { wave := 0, serial := 7, kind := .store, scope := .k, ty := .b64, dst := .zero, pc := 0x1000, seq := 0, owed := [.t, .d, .k],
    accs := [{ lane := 0, va := 0x1100, pa := 0x1100, n := 8, data := 9, stage }] }
def atTx (kind : TxKind) : Tx := { stTx 0 with kind, scope := .k, owed := [], ldc := true, dst := .v 4 }
def inFlight (t : Tx) (w : Wave) : State := { st w with txs := [(0, t)], fresh := 1, subj := { a := 0, b := 0, scope := .k } }
def wOut : Wave := { w0 with ldc := 1, outs := [{ tx := 0, reg := vkey 319 63 }] }

theorem witness_LoadCompletes : ∃ t a x, accAt (inFlight (ldTx 63) wOut) 0 0 = some (t, a) ∧ t.kind = .load ∧ t.ldc = true ∧ a.done = false
    ∧ t.sample = none ∧ t.run = false ∧ t.dst = .v 319 ∧ t.dst2 = .zero ∧ (inFlight (ldTx 63) wOut).waveAt t.wave t.serial = some wOut
    ∧ ((inFlight (ldTx 63) wOut).arrive (slicePort t.wave a.pa) a.pa).late = false
    ∧ (t.accs.zipIdx.filter fun p => !p.1.done && p.1.pa / 8 == a.pa / 8) = [(a, 0)]
    ∧ a.failed = none ∧ isMap a.pa = false ∧ a.lane < 64 ∧ a.pa % 8 + a.n ≤ 8
    ∧ (∃ r, (wOut.outs.find? fun o => o.tx == 0 && o.reg == vkey 319 a.lane) = some r ∧ r.hit = false) ∧ t.scope ≠ .w
    ∧ behind (inFlight (ldTx 63) wOut) 0 t 0 a (match pointOf (inFlight (ldTx 63) wOut) t with | .w => 1 | .t => 1 | .d => 2 | _ => 3) = false
    ∧ readAt (inFlight (ldTx 63) wOut) t.core (dieOf t.wave) (pointOf (inFlight (ldTx 63) wOut) t) a.pa a.n = .ok x :=
  ⟨_, _, _, rfl, rfl, rfl, rfl, rfl, rfl, rfl, rfl, rfl, by decide, rfl, rfl, by decide, by decide, by decide, ⟨_, rfl, rfl⟩, by decide,
    by decide, rfl⟩
/-- The load of two lanes of the same 8 bytes completes for both at once (R175). -/
theorem test_load_unit : (match exec .loadComplete (inFlight { ldTx 0 with ty := .b32, accs := [{ lane := 0, va := 0x1100, pa := 0x1100, n := 4 },
      { lane := 1, va := 0x1104, pa := 0x1104, n := 4 }] } { w0 with ldc := 1, outs := [{ tx := 0, reg := vkey 319 0 }, { tx := 0, reg := vkey 319 1 }] }) with
    | .next u => (u.wave 0).ldc == 0 && (u.wave 0).outs.isEmpty | _ => false) = true := by decide
theorem writable (s : State) (a n : Nat) (h : s.bad = []) : Writable s a n := fun k _ hk => by rw [h] at hk; cases hk
theorem witness_StoresReachHome_home : ∃ t a, accAt (inFlight (stTx 0) w0) 0 0 = some (t, a) ∧ t.kind = .store ∧ t.held = false
    ∧ a.stage < 3 ∧ a.failed = none ∧ place a.pa = .dev 0 ∧ unmapped (inFlight (stTx 0) w0) a.pa = false
    ∧ ((inFlight (stTx 0) w0).arrive (slicePort t.wave a.pa) a.pa).late = false
    ∧ Writable (inFlight (stTx 0) w0) a.pa a.n ∧ homeDie a.pa (dieOf t.wave) = dieOf t.wave
    ∧ behind (inFlight (stTx 0) w0) 0 t 0 a 3 = false ∧ MemInv (inFlight (stTx 0) w0)
    ∧ ∀ d, ((inFlight (stTx 0) w0).die d).leash = [] :=
  ⟨_, _, rfl, rfl, rfl, by decide, rfl, by decide, by decide, by decide, writable _ _ _ rfl, by decide, by decide, rfl, fun d => by
    match d with
    | 0 => rfl
    | n + 1 => rfl⟩
/-- A store to the first byte of host memory, whose home is die 0. -/
def stHost (sc : Scope) : Tx := { stTx 0 with scope := sc, accs := [{ lane := 0, va := 0x1100, pa := 2 ^ 51, n := 8, data := 9 }] }
theorem witness_StoresReachHome_host : ∃ t a, accAt (inFlight (stHost .s) w0) 0 0 = some (t, a) ∧ place a.pa = .host ∧ t.scope = .s
    ∧ unmapped (inFlight (stHost .s) w0) a.pa = false ∧ homeDie a.pa (dieOf t.wave) = dieOf t.wave
    ∧ ((inFlight (stHost .s) w0).arrive (slicePort t.wave a.pa) a.pa).late = false ∧ behind (inFlight (stHost .s) w0) 0 t 0 a 3 = false :=
  ⟨_, _, rfl, by decide, rfl, by decide, by decide, by decide, by decide⟩
/-- The sector of the store cannot be read, and no cache holds it. -/
def stLost : State := { inFlight (stTx 0) w0 with bad := [(0x1100 / 32, { kind := 1, fresh := false })] }
theorem witness_StoresReachHome_lost : ∃ t a, accAt stLost 0 0 = some (t, a) ∧ place a.pa = .dev 0 ∧ 0 < a.n ∧ a.pa % 32 + a.n ≤ 32 ∧ a.n < 32
    ∧ (stLost.bad.find? (a.pa / 32)).isSome = true ∧ l2Has stLost (a.pa / 32) = false :=
  ⟨_, _, rfl, by decide, by decide, by decide, by decide, by decide, by decide⟩
/-- The store's home is die 1. -/
def stFar : Tx := { stTx 0 with accs := [{ lane := 0, va := 0x1100, pa := 2 ^ 36 + 0x1100, n := 8, data := 9 }] }
theorem witness_StoresReachHome_die : ∃ t a, accAt (inFlight stFar w0) 0 0 = some (t, a) ∧ t.kind = .store ∧ t.held = false
    ∧ a.stage < 2 ∧ a.failed = none ∧ isCached a.pa = true ∧ homeDie a.pa (dieOf t.wave) ≠ dieOf t.wave
    ∧ behind (inFlight stFar w0) 0 t 0 a 2 = false := ⟨_, _, rfl, rfl, rfl, by decide, rfl, by decide, by decide, by decide⟩
theorem witness_StoresReachHome_ack : (stTx 3).tasks = [] ∧ (stTx 3).owed.head? = some .t ∧ (stTx 3).accs ≠ [] ∧ (∀ a ∈ (stTx 3).accs, a.stage = 3)
    ∧ (inFlight (stTx 3) { w0 with stct := 1 }).waveAt 0 7 = some { w0 with stct := 1 }
    ∧ (inFlight (stTx 3) { w0 with stct := 1 }).txs.find? 0 = some (stTx 3) := by decide
theorem witness_AtomicsAtHome : ∃ t a, accAt (inFlight (atTx .cas) w0) 0 0 = some (t, a)
    ∧ firstThere (inFlight (atTx .cas) w0) 0 t 0 a = true ∧ sameAddr t a.pa = [(0, a)] ∧ place a.pa = .dev 0
    ∧ unmapped (inFlight (atTx .cas) w0) a.pa = false ∧ anyBad (inFlight (atTx .cas) w0) a.pa a.n = false
    ∧ Writable (inFlight (atTx .cas) w0) a.pa a.n ∧ ((inFlight (atTx .cas) w0).arrive (slicePort t.wave a.pa) a.pa).late = false
    ∧ a.clash = false ∧ a.n = t.ty.bytes ∧ MemInv (inFlight (atTx .cas) w0) :=
  ⟨_, _, rfl, by decide, rfl, by decide, by decide, by decide, writable _ _ _ rfl, by decide, rfl, rfl, rfl⟩
def binTx (kind : TxKind) : Tx := { atTx kind with ty := .f32 }
theorem witness_AtomicsAtHome_binned : ∃ t a, accAt (inFlight (binTx .badd) w0) 0 0 = some (t, a) ∧ t.kind = .badd
    ∧ firstThere (inFlight (binTx .badd) w0) 0 t 0 a = true ∧ sameAddr t a.pa = [(0, a)] ∧ place a.pa = .dev 0 ∧ a.pa % 32 = 0
    ∧ anyBad (inFlight (binTx .badd) w0) a.pa 32 = false ∧ ((inFlight (binTx .badd) w0).arrive (slicePort t.wave a.pa) a.pa).late = false
    ∧ ∃ f, fmtOf t.ty.ety = some f := ⟨_, _, rfl, rfl, by decide, rfl, by decide, by decide, by decide, by decide, _, rfl⟩
theorem witness_AtomicsAtHome_read : ∃ t a, accAt (inFlight (binTx .bread) w0) 0 0 = some (t, a) ∧ t.kind = .bread ∧ reached t a < 3
    ∧ behind (inFlight (binTx .bread) w0) 0 t 0 a 3 = false := ⟨_, _, rfl, rfl, by decide, by decide⟩
def dramSt (o : DramOutcome) : State :=
  { st w0 with subj := { a := 0x80, copy := .l1 175, outcome := o, nums := [31], bytes := [0] } }
theorem witness_CachesAndDram (o : DramOutcome) : (dramSt o).dev.up = true ∧ isDev (32 * (dramSt o).subj.a) = true
    ∧ ((dramSt o).bad.find? (dramSt o).subj.a).isNone = true ∧ ((dramSt o).reg 0 Off.msCorr).toNat + 5 < 2 ^ 64
    ∧ Memory.byte (dramSt o).mem (32 * (dramSt o).subj.a + 31) = 0 ∧ l2Has (dramSt o) 0x80 = false
    ∧ (dramSt o).subj.outcome = o ∧ (dramSt o).subj.flag = false := by
  refine ⟨rfl, rfl, rfl, ?_, rfl, rfl, rfl, rfl⟩
  exact (by decide : ((dramSt (.clean 0)).reg 0 Off.msCorr).toNat + 5 < 2 ^ 64)
theorem witness_CachesAndDram_drop : isCached 0x80 = true ∧ unmapped (dramSt (.clean 0)) 0x80 = false
    ∧ failsThere (dramSt (.clean 0)) 175 2 .d 0x80 32 = false ∧ l1Room (dramSt (.clean 0)) 175 0x80 = true
    ∧ (dramSt (.clean 0)).subj.copy = .l1 175 ∧ coreWorks (175 / 64) (175 % 64) = true := by decide
theorem witness_CachesAndDram_slice : isDev 0x80 = true ∧ badSector (dramSt (.clean 0)) (0x80 / 32) = false
    ∧ sliceRoom (dramSt (.clean 0)) (homeDie 0x80 0) 0x80 = true := by decide
/-- The stacked layer holds the sector. -/
theorem witness_CachesAndDram_layer : layerHas ((dramSt .layerCorrected).layerUse 0x80 true) 0x80 = true := by decide
/-! ### Matrix instructions -/

/-- An entry word for tiles alone (R130): format, kind, group size, tr and tc. -/
def tileWord (fmt kind gsz tr tc : Nat) : Word :=
  BitVec.ofNat 64 (2 ^ 63 + fmt * 2 ^ 54 + kind * 2 ^ 52 + gsz * 2 ^ 50 + tr * 2 ^ 16 + tc)
def entry8 (w : Word) : List Word := w :: List.replicate 7 0
/-- The team of R264's example: acc2 is one .f32 element, tb5 a .bf16 tile and tb9 a .q4 tile; with a kennel. -/
def tmM : Team :=
  { waves := [(0, 0)], accSize := 64, handles := (List.replicate 16 0).set 2 0x8000000000000000,
    tiles := [{ tb := 5, entry := entry8 (tileWord 4 0 0 1 128) }, { tb := 9, entry := entry8 (tileWord 0x19 2 0 1 128) },
              { tb := 10, entry := entry8 (tileWord 4 0 0 1 128) }, { tb := 11, entry := entry8 (tileWord 2 0 0 1 1) }] }
def rdyWord (tid base lines : Nat) : Word := ({ st := .ready, scr := true, err := false, tid, base, lines, gen := 0 } : TileEnt).word
def coreM (mq : List MOp) : Core :=
  { tiles := [(5, rdyWord 1 0 2), (9, rdyWord 2 2 2), (10, rdyWord 3 4 2), (11, rdyWord 4 8 1)], mq }
def stM (w : Wave) (mq : List MOp := []) : State := { st w with teams := [(0, tmM)], cores := [(0, coreM mq)] }
/-- s4 names the activation tile tb5. -/
def wMat : Wave := w0 |> sr 4 0x0005000000000000 |> sr 6 0x8000000000000000 |> sr 7 0
def oM : Ops := op4 (.acc 2) (.s 4) z z
def mmaqEx : Instr := .mmaq oM { tb := 9, z := false }

def matAll : List (Instr × Word) :=
  [(.mldw (op4 z (.s 7) z z) 9, 0), (.mma oM { tb := 10, z := true }, 0x0005000000000000), (mmaqEx, 0x0005000000000000),
   (.mmas oM { tb := 10, z := false } .code, 0x0005000000000000), (.msta (op4 (.acc 2) z z z) 11 false, 0), (.mlda (op4 (.acc 2) z z z) 11, 0),
   (.mscale (op4 (.acc 2) (.s 7) z z), 0), (.mcvt (op4 (.acc 2) z z z) true, 0)]
def matOk (x : Instr × Word) : Bool :=
  match mform x.1 with
  | none => false
  | some f => ready wMat x.1 && readSrc (stM wMat) wMat (((x.1.parts.map (·.ops))).getD (op4 z z z z)) .a b64 0 == x.2
      && (mcheck (stM wMat) tmM x.1 f x.2 0 16 320 false).isNone && mtilesReady (stM wMat) tmM f x.2
      && !queuesFull (stM wMat) (queuesFor tmM f (hnd (match f.handle with | some n => (tmM.handles[n.val]?).getD 0 | none => 0)))

theorem witness_MatrixOperationsQueue : matAll.all matOk = true ∧ recMode (stM wMat) wMat = 0 ∧ wMat.quantum.redo = []
    ∧ (stM wMat).team 0 = tmM := ⟨by decide, by decide, rfl, rfl⟩

/-- An operation of the team in the queue of its array: the MMAQ of the example. -/
def mopEx (i : Instr) (a : Word) : MOp :=
  match mform i with
  | some f => { mopOf (stM wMat) wMat 0 i f a with no := 3, setb := some 2 }
  | none => mopOf (stM wMat) wMat 0 i { handle := none, tb := none } a
theorem witness_HandlesAndPairing_busy : teamBusy (stM wMat [mopEx mmaqEx 0x0005000000000000]) 0 = true
    ∧ [Instr.mbind (op4 (.acc 2) (.s 6) z z), .munbind (op4 (.acc 2) z z z), .mzero (op4 (.acc 2) z z z), .mpair (op4 (.s 4) z z z) true,
        .mswap (op4 z z z z)].all (ready wMat) = true := by decide
theorem witness_HandlesAndPairing : teamBusy (stM wMat) 0 = false ∧ ((stM wMat).teams.find? 0).isSome = true ∧ tmM.handles.length = 16
    ∧ badHandle tmM (readSrc (stM wMat) wMat (op4 (.acc 2) (.s 6) z z) .a b64 0) = false
    ∧ badHandle tmM (readSrc (stM wMat) wMat (op4 (.acc 2) (.s 7) z z) .a b64 0) = true
    ∧ (hnd (handleAt tmM (.acc 2))).v = true ∧ (hnd (handleAt tmM (.acc 15))).v = false
    ∧ (tmM.handles.any fun x => bit x 63 && crosses tmM (hnd x)) = false := by decide

/-- Two waves of a team, entry 3 of whose scoreboard waits for both: wave 1 has arrived. -/
def tmS : Team :=
  { tmM with nwaves := 2, waves := [(0, 0), (1, 1)], accSize := 128, handles := tmM.handles.set 3 (0x8000000000000000 + 31 * 2 ^ 51),
             scb := (List.replicate 4 {}).set 3 { mask := 3, arrived := 2 } }
def wScb : Wave := wMat |> sr 8 0x0000000100000000 |> sr 9 0
def stS : State := { stM wScb with teams := [(0, tmS)] }
theorem witness_ScoreboardDrainsAndProgress_mscb : [Instr.mscbRead (op4 (.s 254) z z z) 3, .mscbSet (op4 (.s 254) (.s 8) z z) 0,
      .mscbWrite (op4 (.s 254) (.s 8) z z) 3].all (ready wScb) = true ∧ (stS.teams.find? 0).isSome = true
    ∧ badScb tmS (wScb.sread stS.epoch 8) (wScb.sread stS.epoch 9) = false
    ∧ (scbOf tmS 0).busy = false ∧ (scbOf tmS 0).arrived = 0 ∧ (scbOf tmS 3).arrived ≠ 0 := by decide
theorem witness_ScoreboardDrainsAndProgress_mrdy : ready wScb (.mrdy (op4 z z z z) 3) = true
    ∧ (scbBit (scbOf tmS 3) wScb.waveId).isSome = true ∧ (scbOf tmS 3).busy = false ∧ wScb.pending 0xFFFF = 0
    ∧ wScb.live = 0xFFFF ∧ tmS.scb.length = 4 := by decide
def mmaxEx : Instr := .mmax (op4 (.acc 3) (.v 0) z z) .bf16 { tb := 10, z := true } 3
theorem witness_ScoreboardDrainsAndProgress_mmax : ∃ f, mform mmaxEx = some f ∧ ready wScb mmaxEx = true
    ∧ mcheck stS tmS mmaxEx f 0 (scbOf tmS 3).mask 16 320 false = none ∧ wScb.live = 0xFFFF
    ∧ allArrived stS tmS { scbOf tmS 3 with arrived := (scbOf tmS 3).arrived ||| (scbBit (scbOf tmS 3) wScb.waveId).getD 0 } = true
    ∧ mtilesReady stS tmS f 0 = true
    ∧ queuesFull stS (queuesFor tmS f (hnd (match f.handle with | some n => (tmS.handles[n.val]?).getD 0 | none => 0))) = false :=
  ⟨_, rfl, by decide, by decide, by decide, by decide, by decide, by decide⟩
theorem witness_ScoreboardDrainsAndProgress_drain : ready wMat (.mdrn (op4 (.acc 2) (.imm 0) (.imm 0) z)) = true
    ∧ ready wMat (.mdrnc (op4 (.acc 15) (.imm 0) (.imm 0) z)) = true ∧ (hnd (handleAt tmM (.acc 2))).v = true
    ∧ (readSrc (stM wMat) wMat (op4 (.acc 2) (.imm 0) (.imm 0) z) .a b64 0).toNat < (hnd (handleAt tmM (.acc 2))).rows
    ∧ (readSrc (stM wMat) wMat (op4 (.acc 2) (.imm 0) (.imm 0) z) .b b64 0).toNat < (hnd (handleAt tmM (.acc 2))).cols := by decide
/-- A record of MLDW s7, tb9 at its start. -/
def wRec : Wave := wMat |> sr 10 (full 0x1C2 320 519 9 320 15 0 0) |> sr 11 0x8000000000000000 |> sr 12 0x1000 |> sr 13 0
theorem witness_ScoreboardDrainsAndProgress_records : ready wRec (.mpget (op4 (.s 252) z z z) 15 false) = true
    ∧ ready wRec (.mpset (op4 z (.s 10) z z)) = true ∧ ready wRec (.mpset (op4 z (.s 12) z z)) = true
    ∧ bit (wRec.sread 0 13) 63 = false ∧ bit (wRec.sread 0 11) 63 = true
    ∧ waveCheck (.mldw (op4 z (.s 7) z z) 9) false wRec = none
    ∧ mcheck (stM wRec) tmM (.mldw (op4 z (.s 7) z z) 9) { handle := none, tb := some 9 } 0 0 16 320 true = none
    ∧ mtilesReady (stM wRec) tmM { handle := none, tb := some 9 } 0 = true
    ∧ queuesFull (stM wRec) (queuesFor tmM { handle := none, tb := some 9 } (hnd 0)) = false := by decide
theorem witness_ScoreboardDrainsAndProgress_decode :
    decodeFull (wRec.sread 0 10) none = .ok (.mldw (op4 z (.s 7) z z) 9) := rfl

/-- The array of core 0 at an operation. -/
def stQ (op : MOp) : State := { stM wMat [op] with subj := { a := 0 } }
theorem witness_MatrixArrayRuns_plane : headOp (stQ (mopEx (.mldw (op4 z (.s 7) z z) 9) 0)) 0 = some (mopEx (.mldw (op4 z (.s 7) z z) 9) 0)
    ∧ (tileGeom tmM 9).isSome = true ∧ opArrays (stQ (mopEx (.mldw (op4 z (.s 7) z z) 9) 0)) 0 (mopEx (.mldw (op4 z (.s 7) z z) 9) 0) = [0] := by
  decide
theorem witness_MatrixArrayRuns_step : headOp (stQ (mopEx (.mscale (op4 (.acc 2) (.s 7) z z)) 0)) 0 = some (mopEx (.mscale (op4 (.acc 2) (.s 7) z z)) 0)
    ∧ (mopEx (.mscale (op4 (.acc 2) (.s 7) z z)) 0).step = 0 ∧ (mopEx (.mscale (op4 (.acc 2) (.s 7) z z)) 0).ended = false := by decide
/-- A streamed MMA: tensor 7 in memory, its entry at 0x1000 + 64 × 7. -/
def strOp : MOp := mopEx (.mma oM { tb := 10, z := true }) 0x8007000000000000
def strTensor : List Word := [BitVec.ofNat 64 (2 ^ 63 + 4 * 2 ^ 54 + 1 * 2 ^ 48 + 1 * 2 ^ 16 + 128), 0x1800, 0x00010080, 0x80, 0, 0, 0, 0]
def stStream (op : MOp) : State :=
  let s := { stQ op with launches := [(0, { tnbase := 0x1000 })] }
  s.poke (0x1000 + 64 * 7) (strTensor.flatMap fun x => bytesOf x.toNat 8)
theorem witness_MatrixArrayRuns_entry : ∃ f r bs, mform strOp.instr = some f ∧ f.w.isSome = true ∧ f.joint = none ∧ (actWord strOp.factor).mem = true
    ∧ headOp (stStream strOp) 0 = some strOp ∧ strOp.tensor = none
    ∧ unitRead (stStream strOp) (dieOfCore 0) strOp.ctx (0x1000 + 64 * (actWord strOp.factor).id) 64 = (r, .ok bs)
    ∧ r.cores = (stStream strOp).cores ∧ streamCheck r strOp f (tent (wordsOf bs)) = 0 :=
  ⟨_, _, _, rfl, rfl, rfl, by decide, rfl, rfl, rfl, rfl, by decide +kernel⟩
def strOp2 : MOp := { strOp with tensor := some strTensor }
theorem witness_MatrixArrayRuns_row : ∃ f tb e r cells, mform strOp2.instr = some f ∧ weightOf (stStream strOp2) strOp2 f = some (tb, e)
    ∧ strOp2.step < stepsOf e ∧ streamRow (stStream strOp2) (dieOfCore 0) strOp2.ctx (tent strTensor) ((actWord strOp2.factor).o1 + strOp2.row)
        ((actWord strOp2.factor).o0 + strOp2.step * (e.k / stepsOf e)) (e.k / stepsOf e) = (r, .ok cells)
    ∧ r.cores = (stStream strOp2).cores :=
  ⟨_, _, _, _, _, rfl, rfl, by decide, rfl, rfl⟩
def endOp : MOp := { mopEx mmaqEx 0x0005000000000000 with ended := true }
theorem witness_MatrixArrayRuns_complete : headOp (stQ endOp) 0 = some endOp ∧ endOp.hits = [] ∧ endOp.joined = [] ∧ (stQ endOp).replay.snap = []
    ∧ tmM.waves.find? endOp.waveId = some 0 := by decide

/-! ### Beams -/

/-- The team's kennel: two slots in lines 1 to 3 of core 0, with the first 16 bytes given. -/
def tmK : Team := { waves := [(0, 0)], kennel := (1, 3), kslots := 2 }
def head16 (at_ : Nat) (x : Slot) : Map Byte := (x.bytes.take 16).zipIdx.map fun p => (at_ + p.2, p.1)
def stK (a b : Slot) (w : Wave) (e : Beam := {}) : State :=
  { st w with teams := [(0, tmK)], cores := [(0, { beam := e, sram := head16 128 a ++ head16 320 b })] }
/-- Lane 0's frame in v10 to v18, the axes from the origin, and slot number 1 in v2. -/
def wK : Wave :=
  ([0, 0, 0x3F80000000000000, 0x3F800000, 0, 0x3F800000, 0x42C800003F800000, 0, 0x3F8000003F800000].zipIdx.foldl
    (fun w p => vr (10 + p.2) 0 (BitVec.ofNat 64 p.1) w) w0) |> pr 0 1 |> vr 2 0 1 |> sr 5 0x777 |> sr 6 3 |> sr 7 0x38
def oB : Ops := { op4 (.v 20) (.v 10) (.s 5) z with pred := .sel 0 false }
def oSl : Ops := { op4 z (.v 2) z z with pred := .sel 0 false }
def gK (k : Nat) : Nat := elem 32 (wK.vread 0 (10 + k / 2) 0) (k % 2)
def vK (k : Nat) : Geo.V3 := ⟨gK k, gK (k + 1), gK (k + 2)⟩

theorem witness_BeamSlotInstructions_make : ready wK (.bmake oB) = true ∧ ready wK (.bmakea oB) = true
    ∧ selOf (stK { state := slotHeld } {} wK) (iss wK) oB = 1 ∧ lanesOf 1 = [0]
    ∧ frameOk false ⟨vK 0, vK 3, vK 6, vK 9⟩ (gK 12) (gK 13) (gK 14) (gK 15) (gK 16) (gK 17) = true
    ∧ (freeSlots (stK { state := slotHeld } {} wK) 0).head? = some 1
    ∧ (freeSlots (stK { state := slotHeld } { state := slotEnded } wK) 0).head? = none := by decide +kernel
theorem witness_BeamSlotInstructions_kennel : kennelOf (stK {} {} wK) 0 = some (0, tmK) := by decide +kernel
/-- With a far distance below the near one the frame fails. -/
theorem witness_BeamSlotInstructions_bad :
    frameOk false ⟨vK 0, vK 3, vK 6, vK 9⟩ (gK 13) (gK 12) (gK 14) (gK 15) (gK 16) (gK 17) = false := by decide +kernel
theorem witness_BeamSlotInstructions_free : ready wK (.bkalloc { op4 (.v 20) z z z with pred := .sel 0 false }) = true
    ∧ ready wK (.bkfree oSl) = true ∧ (∀ l ∈ lanesOf 1, bits (readSrc (stK {} {} wK) wK oSl .a b64 l) 10 0 < kslots (stK {} {} wK) 0)
    ∧ slotState (stK {} { state := slotEnded } wK) 0 1 ≠ slotQueued ∧ slotState (stK {} { state := slotQueued } wK) 0 1 = slotQueued := by
  decide
def oV (b : Opd) : Ops := { op4 z (.v 2) b z with pred := .sel 0 false }
theorem witness_BeamSlotInstructions_bovf : ready wK (.bovf (oV (.imm 2))) = true ∧ ready wK (.bovf (oV (.s 6))) = true
    ∧ slotState (stK {} { state := slotHeld } wK) 0 1 = slotHeld ∧ (readSrc (stK {} {} wK) wK (oV (.imm 2)) .b b64 0).toNat < 3
    ∧ 3 ≤ (readSrc (stK {} {} wK) wK (oV (.s 6)) .b b64 0).toNat := by decide +kernel
/-- A scene descriptor at 0x1000 and its primitives at 0x1080; slot 1 has hit primitive 0. -/
def hitSlot : Slot := { state := slotEnded, hitv := true, hit := 0 }
def stH : State := (stK {} hitSlot wK).poke 0x1000 ([0x1100, 0x1080, 0x0000000100000001, 0].flatMap fun x => bytesOf x 8)
def oRf : Ops := { op4 (.v 20) (.v 2) (.imm 0) z with pred := .sel 0 false }
theorem witness_BeamSlotInstructions_brefl : ready wK (.brefl { op4 (.v 20) (.v 2) (.s 8) z with pred := .sel 0 false }) = true
    ∧ slotState stH 0 1 = slotEnded ∧ (slotAt stH 0 1).hitv = true
    ∧ (slotAt (stK {} { state := slotEnded } wK) 0 1).hitv = false := by decide +kernel
theorem witness_BeamSlotInstructions_scene :
    (match gate stH 0 wK .read [(0, 0x1000)] with
      | .go [(0, 0x1000, pa)] [] =>
        match readAt stH 0 0 .k pa 32 with
        | .ok ds =>
          match sceneOf 0x1000 (wordsOf (bytesOf ds 32)) with
          | some sc =>
            let prim := BitVec.ofNat 64 (sc.prims + 64 * (slotAt stH 0 1).hit)
            match gate stH 0 wK .read [(0, prim)] with
            | .go [(0, va, pb)] [] => va == prim && (match readAt stH 0 0 .k pb 64 with | .ok _ => true | _ => false)
            | _ => false
          | none => false
        | _ => false
      | _ => false) = true := by decide +kernel
def stFrag : State := stK {} {} wK { frags := [[1, 2, 3, 4, 5, 6, 7, 8]] }
theorem witness_BeamSlotInstructions_bpop : ready wK (.bpop { op4 (.v 312) z z z with pred := .sel 0 false } (some 3) false) = true
    ∧ recMode stFrag wK = 0 ∧ (stFrag.core 0).beam.pops = [] ∧ (lanesOf 1).length ≤ (stFrag.core 0).beam.frags.length
    ∧ ∀ x ∈ wK.outs, x.tx < stFrag.fresh := by decide +kernel

theorem witness_BeamEngineInstructions_split : ready wK (.bsplit (op4 (.s 4) z z z) false) = true ∧ ready wK (.bsplit (op4 (.s 4) (.s 7) z z) true) = true
    ∧ ready wK (.bstatRead (op4 (.s 4) z z z)) = true ∧ ready wK (.bstatStop (op4 (.s 4) z z z)) = true
    ∧ ready wK (.bstatResume (op4 (.s 4) z z z)) = true ∧ badSplit (wK.sread 0 7) = false ∧ badSplit (wK.sread 0 5) = true
    ∧ ((stK {} {} wK).teams.find? 0).isSome = true := by decide +kernel
theorem witness_BeamEngineInstructions_save : [Instr.bkget (op4 (.s 232) (.imm 1) z z) .slot, .bkget (op4 (.s 252) (.imm 15) z z) .walk,
      .bkget (op4 (.s 248) z z z) .frag, .bkput (op4 z (.s 232) (.imm 1) z) .slot, .bkput (op4 z (.s 252) (.imm 15) z) .walk,
      .bkput (op4 z (.s 248) z z) .frag].all (ready wK) = true
    ∧ (readSrc (stK {} {} wK) wK (op4 (.s 232) (.imm 1) z z) .a b64 0).toNat < kslots (stK {} {} wK) 0
    ∧ ((stK {} {} wK { stopped := true }).core 0).beam.stopped = true
    ∧ ((stK {} {} wK { stopped := true }).core 0).beam.walks.find? 15 = none := by decide +kernel
def oBw : Ops := { op4 z (.v 2) (.s 10) z with pred := .sel 0 false }
theorem witness_BeamEngineInstructions_bwalk : ready wK (.bwalk oBw 0 false true) = true
    ∧ selOf (stK {} { state := slotHeld } wK) (iss wK) oBw ≠ 0
    ∧ (∀ m ∈ (lanesOf (selOf (stK {} { state := slotHeld } wK) (iss wK) oBw)).map (fun l =>
          bits (readSrc (stK {} { state := slotHeld } wK) wK oBw .a b64 l) 10 0),
        m < kslots (stK {} { state := slotHeld } wK) 0 ∧ slotState (stK {} { state := slotHeld } wK) 0 m = slotHeld)
    ∧ ((List.range 16).find? fun j => (((stK {} { state := slotHeld } wK).core 0).beam.walks.find? j).isNone) = some 0
    ∧ wK.engc < 255 ∧ wK.waveId < 512 := by decide +kernel

/-- Walk 0 of wave 0 on slot 1, its scene at 0x1000. -/
def bw (started : Bool) : BWalk :=
  { w0 := BitVec.ofNat 64 (2 ^ 63 + 15 * 2 ^ 34 + 15 * 2 ^ 30 + started.toNat), scene := 0x1000, seq := 1, live := 1, pc := 0x1000, order := 0,
    serial := 7, wave := 0, slots := [1], desc := if started then some [0x1100, 0x1080, 0x0000000100000001, 0] else none }
def stB (x : Slot) (e : Beam) : State := { ((stK {} x wK e).poke 0x1000 ([0x1100, 0x1080, 0x0000000100000001, 0].flatMap fun x => bytesOf x 8)) with
  subj := { a := 0, b := 0 } }
def stStart : State := stB { state := slotHeld } { walks := [(0, bw false)] }
theorem witness_BeamEngineRuns_start : nextStart stStart 0 = some (0, bw false)
    ∧ (bw false).held = false ∧ bit (bw false).w0 61 = false ∧ bit (bw false).w0 0 = false
    ∧ (match unitRead stStart (dieOfCore 0) (beamCtx stStart 0) (bw false).scene.toNat 32 with
        | (r, .ok bs) => decide (r.cores = stStart.cores) && (sceneOf (bw false).scene.toNat (wordsOf bs)).isSome
        | _ => false) = true := by decide +kernel
def endBeam : Slot := { state := slotQueued, cursor := endCursor }
theorem witness_BeamEngineRuns_step : (readySlots (stB endBeam { walks := [(0, bw true)] }) 0).head? = some 1
    ∧ (slotAt (stB endBeam { walks := [(0, bw true)] }) 0 1).walk = 0 ∧ (slotAt (stB endBeam { walks := [(0, bw true)] }) 0 1).cursor = endCursor
    ∧ (slotAt (stB endBeam { walks := [(0, bw true)] }) 0 1).hitv = false
    ∧ (sceneOf 0x1000 [0x1100, 0x1080, 0x0000000100000001, 0]).isSome = true := by decide +kernel
def pendE : Beam := { walks := [(0, bw true)], pending := some (1, [1, 2, 3, 4, 5, 6, 7, 8]) }
theorem witness_BeamEngineRuns_append : ((stB endBeam pendE).core 0).beam.pending = some (1, [1, 2, 3, 4, 5, 6, 7, 8])
    ∧ ((stB endBeam pendE).core 0).beam.pops = [] ∧ bit (bw true).w0 61 = false := by decide +kernel
theorem witness_BeamEngineRuns_complete : kennelOf (stB endBeam { walks := [(0, { bw true with ended := true })] }) 0 = some (0, tmK)
    ∧ tmK.waves.find? (bits (bw true).w0 46 38) = some 0 ∧ (stB endBeam { walks := [(0, { bw true with ended := true })] }).wave? 0 = some wK
    ∧ (stB endBeam {}).replay.snap = [] := by decide +kernel

/-- What the engine and the slices do in the cycle, in its order and past it; and a walk that has ended early. -/
theorem witness_BeamSlotInstructions_turn :
    (stK {} {} wK).inTurn 0 ((stK {} {} wK).core 0).kennelAt (placeOf 2 0) = true
    ∧ (stK {} {} wK).inTurn 0 (0, placeOf 2 (waveNo 0 5 31)) (placeOf 2 0) = false
    ∧ (stK {} {} wK).inTurn 0 ((stK {} {} wK).core 0).kennelAt (placeOf 0 0) = true
    ∧ (stK {} {} wK).inTurn 0 (0, placeOf 1 0) (placeOf 0 0) = false
    ∧ (stB endBeam { walks := [(0, bw true)] }).inTurn 0 ((stB endBeam { walks := [(0, bw true)] }).core 0).kennelAt (placeOf 1 0) = true := by
  decide
theorem witness_BeamEngineInstructions_stop :
    (((stK {} {} wK { walks := [(0, { bw true with ended := true, status := 2 })] }).core 0).beam.walks.any fun p => p.2.ended && p.2.status != 0) = true
    ∧ (((stK {} {} wK { walks := [(0, bw true)] }).core 0).beam.walks.any fun p => p.2.ended && p.2.status != 0) = false := by decide +kernel
/-! ### Control, synchronisation and system instructions -/

def oP (d a b c : Opd) : Ops := { op4 d a b c with pred := .sel 1 false }
/-- Half of the lanes are selected by p1; v2 holds targets in lanes 0 and 1. -/
def wC : Wave := w0 |> pr 1 0xFF |> vr 2 0 0x1008 |> vr 2 1 0x2001 |> pr 2 1 |> pr 3 2 |> sr 2 1 |> sr 3 0x8
def brEx : Instr := .br (oP z z z z) .always false 4
theorem witness_TransfersCompleteOrTrap : ready wC brEx = true
    ∧ takes (st wC) (iss wC) (oP z z z z) .always .a &&& ~~~(iss wC).mask = 0
    ∧ ((lanesOf (takes (st wC) (iss wC) (oP z z z z) .always .a)).filter fun _ => bits (offPc (iss wC) 4) 63 56 != 0) = []
    ∧ ((lanesOf (takes (st wC) (iss wC) (oP z z z z) .always .a)).filter fun _ => (offPc (iss wC) 4).toNat % 8 != 0) = [] := by decide
theorem witness_TransfersCompleteOrTrap_forms : [Instr.bri { op4 z (.v 2) z z with pred := .sel 2 false } .always true,
      .bri (oP z (.s 3) (.s 2) z) .z false, .call (oP (.v 6) z z z) false 0x7FFFF, .call (op4 (.s 6) z z z) false 4,
      .calli (oP (.v 6) (.s 3) z z) true, .ret (oP z (.s 3) z z) false].all (ready wC) = true := by decide
/-- A branch of −2^19 words from 0x1000 leaves the canonical range; lane 1's far target is odd. -/
theorem witness_TransfersCompleteOrTrap_range : ready wC (.br (oP z z z z) .always false 0x80000) = true
    ∧ ((lanesOf 0xFF).filter fun _ => bits (offPc (iss wC) 0x80000) 63 56 != 0).head? = some 0 := by decide
theorem witness_TransfersCompleteOrTrap_aligned : ready wC (.ret { op4 z (.v 2) z z with pred := .sel 3 false } false) = true
    ∧ selOf (st wC) (iss wC) { op4 z (.v 2) z z with pred := .sel 3 false } = 2
    ∧ ((lanesOf 2).filter fun l => (addr56 (st wC) (iss wC) (op4 z (.v 2) z z) l).toNat % 8 != 0).head? = some 1 := by decide

/-- A wave of 32 lanes, the upper half of which stands elsewhere. -/
def w32 : Wave := { w0 with width := 32, teamSize := 32, lanes := w0.lanes ++ List.replicate 16 { pc := 0x1200, cl := .header } }
theorem witness_WaitingAndLeaving : [Instr.nop (op4 z z z z), .yield (op4 z z z z), .rejoin (op4 z .palways z z), .exit (oP z z z z)].all (ready w32) = true
    ∧ (readSrc (st w32) w32 (op4 z .palways z z) .a b64 0 &&& lowMask 32).getLsbD 31 = true ∧ w32.isActive 31 = true
    ∧ rejoinMask (w32.lane 31) = none
    ∧ (∀ l, l < 16 → w32.isActive l = true ∧ (w32.lane l).pc = 0x1000) ∧ (∀ l, l < 32 → (rejoinMask (w32.lane l)).isNone = true) := by decide
theorem witness_WaitingAndLeaving_exit : selOf (st wC) (iss wC) (oP z z z z) = 0xFF ∧ wC.live &&& ~~~0xFF ≠ 0 ∧ 0xFF &&& ~~~(iss wC).mask = 0
    ∧ selOf (st w0) (iss w0) (oP z z z z) = 0 ∧ inSave { wC with save := .saving 0 } = true := by decide
/-- A header that waits for f3 and sets f0, with f3 clear and with f3 raised. -/
def hdr : Header := { wait := 8, seta := some 0, setb := none, len := 3, sp := false }
def wF : Wave := { w0 with flags := (List.replicate 12 0).set 3 1, lanes := List.replicate 16 { pc := 0x1000 } }
theorem witness_WaitingAndLeaving_header : ready w0 (.clauseHeaderPass hdr) = true ∧ saveHolds (st w0) (iss w0) hdr = false
    ∧ ((List.range 12).any fun n => hdr.wait.getLsbD n && w0.flag n) = false
    ∧ ((List.range 12).any fun n => hdr.wait.getLsbD n && wF.flag n) = true
    ∧ flagFull (st w0) 0 w0 0x1000 hdr = false := by decide

/-- Team 0 has waves 0 and 1; the launch is cooperative. -/
def tmB (n : Nat) : Team := { nwaves := n, waves := (List.range n).map fun k => (k, k) }
def stBar (n : Nat) (w : Wave) : State :=
  { st w with waves := (0, w) :: (List.range (n - 1)).map fun k => (k + 1, { w with waveId := k + 1 }), teams := [(0, tmB n)], launches := [(0, { co := true })] }
def wBar : Wave := w0 |> sr 8 0x8000000000000001 |> sr 9 1 |> sr 10 0 |> sr 11 0 |> sr 12 0 |> sr 13 0 |> sr 14 0 |> sr 15 0
theorem witness_BarrierInstructions : ((stBar 2 w32).teams.find? 0).isSome = true ∧ (tmB 2).bars.length = 5
    ∧ ((stBar 2 w32).launch 0).rec_ = 0 ∧ (tmB 2).waves.find? 0 = some 0 ∧ w32.live ≠ 0
    ∧ heldWaves (stBar 2 w32) (tmB 2) = 2 ∧ heldWaves (stBar 1 w32) (tmB 1) = 1 ∧ ((stBar 2 w32).launch 0).co = true ∧ w32.kind = .team := by
  decide
theorem witness_BarrierInstructions_lanes : w32.live &&& ~~~((barOf (tmB 2) 3).la.getD 0 0 ||| (iss w32).mask) ≠ 0
    ∧ w0.live &&& ~~~((barOf (tmB 2) 3).la.getD 0 0 ||| (iss w0).mask) = 0
    ∧ [Instr.bar (op4 z z z z) 3, .bara (op4 z z z z) 0, .barl (op4 z z z z)].all (ready w32) = true := by decide
/-- A launch that is not cooperative. -/
theorem witness_BarrierInstructions_scope : ready w0 (.barl (op4 z z z z)) = true ∧ ((st w0).launch 0).co = false := by decide
def barMask (n : Nat) : BitVec 384 := BitVec.ofNat 384 ((List.range 6).map fun j => (wBar.sread 0 (n + 1 + j)).toNat * 2 ^ (64 * j)).sum
theorem witness_BarrierInstructions_parts : ready wBar (.barget (op4 (.s 248) z z z) 4 true) = true ∧ ready wBar (.barset (op4 z (.s 8) z z) 4 false) = true
    ∧ ready wBar (.barset (op4 z (.s 8) z z) 0 true) = true
    ∧ bits (wBar.sread 0 8) 8 0 = popc (barMask 8) ∧ (barMask 8).toNat < 2 ^ 2 ∧ bits (wBar.sread 0 8) 61 9 = 0 ∧ wBar.sread 0 15 = 0
    ∧ bit (wBar.sread 0 8) 62 = false ∧ wBar.live &&& ~~~(wBar.sread 0 8 &&& lowMask 16) ≠ 0
    ∧ bits (wBar.sread 0 9) 8 0 ≠ popc (barMask 9) := by decide +kernel

/-- A launch of one spawnable kernel of width 16, at 0x4000 with entry 0x80. -/
def lnS : Launch := { spawn := [{ va := 0x4000, entry := 0x80 }] }
def wSp : Wave := w0 |> vr 2 0 0x4080 |> vr 3 0 5 |> pr 1 1 |> vr 2 1 0x4000 |> pr 2 2 |> vr 4 0 0x1200 |> sr 4 0x1200 |> vr 5 0 0x4080
def stSp : State := { st wSp with launches := [(0, lnS)] }
theorem witness_SpawnQueueAndTaskInstructions_spawn : ready wSp (.spawn (oP z (.v 2) (.v 3) z)) = true ∧ recMode stSp wSp = 0
    ∧ lanesOf (selOf stSp (iss wSp) (oP z (.v 2) (.v 3) z)) = [0]
    ∧ spawnKernel stSp 0 (bits (readSrc stSp wSp (oP z (.v 2) (.v 3) z) .a b64 0) 55 0) = some 0 ∧ binBusy stSp 0 0 0 = false
    ∧ (spawnKernel stSp 0 (bits (readSrc stSp wSp (oP z (.v 2) (.v 3) z) .a b64 1) 55 0)).isNone = true := by decide
theorem witness_SpawnQueueAndTaskInstructions_queue : [Instr.spawnl (oP (.p 4) (.s 4) (.v 5) (.imm 1)), .qput (oP z (.s 4) (.imm 0) (.imm 1)),
      .qtake (oP (.v 318) (.s 4) z z) (some 3), .qsteal (oP (.v 6) (.s 4) z z) none].all (ready wSp) = true
    ∧ (match gate stSp 0 wSp .both [(0, 0x1200)] with | .go [(0, 0x1200, pa)] [] => isDev pa | _ => false) = true
    ∧ (spawnKernel stSp 0 (bits (readSrc stSp wSp (oP z z (.v 5) z) .b b64 0) 55 0)).isSome = true := by decide
theorem witness_SpawnQueueAndTaskInstructions_task : [Instr.tasknew (oP (.v 304) (.v 4) (.imm 1) (.imm 0)) 16, .taskdec (oP (.v 6) (.v 4) z z),
      .suspend (oP (.v 304) (.v 4) (.imm 8) z) 0].all (ready wSp) = true
    ∧ (match gate stSp 0 wSp .both (([0, 8, 0x10, 0x18] : List Nat).map fun k => (0, 0x1200 + BitVec.ofNat 64 k)) with
        | .go ok [] => ok.length == 4 && ok.all fun x => isDev x.2.2
        | _ => false) = true ∧ (∀ sc ∈ [Scope.w, .t, .d, .k, .s], wSp.stc sc < 63) := by decide

def oD : Ops := op4 (.v 4) z z z
def oSr : Ops := op4 z (.s 2) z z
theorem witness_SystemInstructions : [Instr.srget oD 0, .srget oD 0x1B, .srget oD 0x22, .srset oSr 3, .srset oSr 0x1B,
      .pcget oD 0xFFFFF, .clkget oD, .seqget (op4 (.s 255) z z z), .seqset oSr, .divget oD, .divset (oP z (.v 2) z z), .flgget (op4 (.s 254) z z z),
      .flgset (op4 z (.s 254) z z), .lsdet (op4 (.s 252) (.s 2) z z), .lsatt (op4 (.s 0) (.s 252) z z), .trap (oP z (.v 2) z z) 127,
      .brkpt (op4 z z z z) 127, .pwrhint (op4 z z z z) 3, .ratio (op4 z z z z) 3].all (ready wC) = true ∧ recMode (st wC) wC = 0 := by decide
/-- A register that is not listed: the wave's checks are passed, and the word itself is refused. -/
theorem witness_SystemInstructions_unlisted : waveCheck (.srset oSr 0x3FF) false wC = none ∧ interlocked (.srset oSr 0x3FF) wC = false
    ∧ flagAtMost (.srset oSr 0x3FF) wC none none = true ∧ (Instr.srset oSr 0x3FF).check = some .illegalInstruction := by decide
/-- The hypotheses of single clauses: lanes that DIVSET resumes, the flag counts, a registration and its counter, records. -/
def wSy : Wave := { w0 with leash := some { token := 5, pa := 0x1300, sel := 1, lanes := 0xFFFF, dst := .zero, status := none, units := 0, wide := false, since := 0, operand := 0, cmp := .eq } } |> pr 2 1 |> vr 2 0 0x0100000000001008 |> sr 2 0x1200
  |> sr 4 0x5800000000001300 |> sr 5 0 |> sr 6 0 |> sr 7 0
theorem witness_SystemInstructions_clauses : selOf (st wSy) (iss wSy) { op4 z (.v 2) z z with pred := .sel 2 false } = 1
    ∧ (readSrc (st wSy) wSy (op4 z (.v 2) z z) .a b64 0).toNat % 8 = 0 ∧ wSy.flags.length = 12 ∧ (∀ n ∈ wSy.flags, n < 256) ∧ wSy.engc < 256
    ∧ (match gate (st wSy) 0 wSy .both [(lowest (iss wSy).mask, wSy.sread 0 2)] with | .go [(0, _, pa)] [] => isDev pa | _ => false) = true
    ∧ wSy.leash.isSome = true ∧ bits (wSy.sread 0 4) 63 62 = 1 ∧ LCmp.ofCode (bits (wSy.sread 0 4) 61 58) = some .chg
    ∧ bits (wSy.sread 0 5) 63 62 ≠ 1 := by decide
theorem witness_SystemInstructions_debug : bit ((st w0).reg 0 0x5000) 62 = false
    ∧ bit (((st w0).setReg 0 0x5000 0x4000000000000000).reg 0 0x5000) 62 = true := by decide
/-- A control core has TKERNEL. -/
theorem witness_SystemInstructions_control : isCtl (ctlNo 0 0) = true ∧ waveCheck (.srset oSr 0x28) true w0 = none := by decide

/-! ### Registrations, queues and task counts -/

/-- `st w` with message 0 and one Leash entry table of die 0. -/
def stMsg (m : Msg) (w : Wave := w0) (leash : List (Nat × LeashEntry) := []) : State :=
  { st w with msgs := [(0, m)], fresh := 1, dies := [(0, { (st w).die 0 with leash })] }
/-- A registration of wave 0, on word 0x1300. -/
def ent (operand : Word := 0) (st : LeashSt := .waiting) : LeashEntry :=
  { st, cmp := .eq, wide := true, pa := 0x1300, operand, wave := 0, serial := 7, ctx := 0, token := 5, order := 0 }
def wReg : Wave := { w0 with leash := some { token := 5, pa := 0x1300, sel := 1, lanes := 0xFFFF, dst := .s 255, status := some 14, units := 2, wide := true, since := 0, operand := 0, cmp := .eq }
                             lanes := List.replicate 16 { pc := 0x1000, cl := .inside 0x1040 none none, wait := .leash } }

/-- The condition of a registration at reset memory holds for operand 0 and not for operand 1. -/
theorem witness_LeashEvents_register : (∀ x : Word, x = 0 ∨ x = 1 → msgAt (stMsg (.register 0 7 (ent x))) 0 = some (.register 0 7 (ent x)))
    ∧ place (ent 0).pa = .dev 0 ∧ anyBad (stMsg (.register 0 7 (ent 0))) 0x1300 8 = false
    ∧ ((stMsg (.register 0 7 (ent 0))).arrive (slicePort 0 0x1300) 0x1300).late = false ∧ (stMsg (.register 0 7 (ent 0))).waveAt 0 7 = some w0 ∧ recMode (stMsg (.register 0 7 (ent 0))) w0 = 0
    ∧ leashHolds .eq true (BitVec.ofNat 64 (Memory.read (st w0).mem 0x1300 8)) 0 = true
    ∧ leashHolds .eq true (BitVec.ofNat 64 (Memory.read (st w0).mem 0x1300 8)) 1 = false := by
  refine ⟨fun x h => ?_, by decide⟩
  obtain h | h := h <;> subst h <;> rfl
/-- A full table: 1,024 entries of one slice. -/
def fullLeash : List (Nat × LeashEntry) := List.replicate 1024 (homeSlice 0x1300, ent 1)
theorem witness_LeashEvents_full : 1024 ≤ (fullLeash.filter fun p => p.1 == homeSlice 0x1300 && !p.2.spilled).length
    ∧ bit ((stMsg (.register 0 7 (ent 1)) w0 fullLeash).reg 0 Off.lsSpillbase) 0 = false := by
  refine ⟨?_, by rfl⟩
  have h := List.filter_replicate_of_pos (n := 1024) (p := fun p : Nat × LeashEntry => p.1 == homeSlice 0x1300 && !p.2.spilled) (a := (homeSlice 0x1300, ent 1)) (by decide)
  exact Nat.le_of_eq (by rw [fullLeash, h, List.length_replicate])
/-- A registration of the same slice waits already. -/
theorem witness_LeashEvents_behind : (((stMsg (.register 0 7 (ent 1))).updDie 0 fun d => { d with leashHeld := [(homeSlice 0x1300, ent 1)] }).die 0).leashHeld
    = [(homeSlice 0x1300, ent 1)] ∧ (∃ p ∈ [(homeSlice 0x1300, ent 1)], p.1 = homeSlice 0x1300 ∧ homeSlice p.2.pa = p.1) :=
  ⟨rfl, _, List.mem_singleton.mpr rfl, rfl, rfl⟩
def stHeld : State := { st w0 with subj := { a := 0, b := homeSlice 0x1300 }, dies := [(0, { leashHeld := [(homeSlice 0x1300, ent 1)] })] }
theorem witness_LeashEvents_admit : ∃ p : Nat × LeashEntry, ((stHeld.die stHeld.subj.a).leashHeld.find? fun q => q.1 == stHeld.subj.b) = some p
    ∧ p.2.st = .waiting ∧ holdsNow stHeld p.2 = false ∧ anyBad stHeld p.2.pa 8 = false
    ∧ ((stHeld.die 0).leash.filter fun q => q.1 == homeSlice p.2.pa && !q.2.spilled).length < 1024 :=
  ⟨_, rfl, rfl, by decide, by decide, by decide⟩
theorem witness_LeashEvents_timeout : ∃ r, ({ st wReg with time := 2048 } : State).wave? 0 = some wReg ∧ wReg.leash = some r ∧ r.units ≠ 0
    ∧ r.cancelled = false ∧ r.since + 1024 * r.units ≤ ({ st wReg with time := 2048 } : State).now (clockOf 0) :=
  ⟨_, rfl, rfl, by decide, rfl, by decide⟩
/-- The registration that LSATT adopted, no WAITU of which has come yet (R349). -/
theorem witness_LeashEvents_timeout_adopted : ∃ r, let w := { wReg with leash := none, adopted := wReg.leash }
    ({ st w with time := 2048 } : State).wave? 0 = some w ∧ w.leash = none ∧ w.adopted = some r ∧ r.units ≠ 0
    ∧ r.cancelled = false ∧ r.since + 1024 * r.units ≤ ({ st w with time := 2048 } : State).now (clockOf 0) :=
  ⟨_, rfl, rfl, rfl, by decide, rfl, by decide⟩
def stCancel (e : LeashEntry) : State := stMsg (.cancel 0 7 5 0x1300) wReg [(homeSlice 0x1300, e)]
theorem witness_LeashEvents_cancel : tokenInFlight (stCancel (ent 1)) 0 7 5 = false
    ∧ entryOfToken (stCancel (ent 1)) (homeDie 0x1300 0) 0 7 5 = some (false, ent 1) ∧ (ent 1).st = .waiting
    ∧ entryOfToken (stCancel (ent 1 .waking)) (homeDie 0x1300 0) 0 7 5 = some (false, ent 1 .waking) ∧ (ent 1 .waking).st ≠ .waiting := by decide
theorem witness_LeashEvents_reply : (stMsg (.reply 0 7 5 0x1300 (some 9) true) wReg).waveAt 0 7 = some wReg
    ∧ (wReg.leash.map Reg.token) = some 5 ∧ wReg.save = .none ∧ recMode (stMsg (.reply 0 7 5 0x1300 (some 9) true) wReg) wReg = 0
    ∧ (wReg.leash.map Reg.dst) = some (.s 255) ∧ (wReg.leash.bind Reg.status) = some 14 ∧ wReg.p.length = 15
    ∧ (0 : Nat) < wReg.lanes.length ∧ (1 : Mask).getLsbD 0 = true := by decide
theorem witness_LeashEvents_kept : ∃ r, let w := { wReg with leash := none, adopted := wReg.leash }
    (stMsg (.reply 0 7 5 0x1300 none false) w).waveAt 0 7 = some w ∧ w.leash = none ∧ w.adopted = some r ∧ r.token = 5 :=
  ⟨_, rfl, rfl, rfl, rfl⟩
theorem witness_LeashEvents_acks : msgAt (stMsg (.wakeAck 0x1300 5 0)) 0 = some (.wakeAck 0x1300 5 0)
    ∧ msgAt (stMsg (.decrement 0x1300 0x1400 5 0 none)) 0 = some (.decrement 0x1300 0x1400 5 0 none) := by decide
def stDetach (w : Wave) : State := stMsg (.detach 0 7 5 0x1300 0x1400 252) w [(homeSlice 0x1300, ent 1)]
theorem witness_LeashEvents_detach : tokenInFlight (stDetach wReg) 0 7 5 = false ∧ (stDetach wReg).waveAt 0 7 = some wReg
    ∧ wReg.leash.isSome = true ∧ entryOfToken (stDetach wReg) (homeDie 0x1300 0) 0 7 5 = some (false, ent 1)
    ∧ (stDetach w0).waveAt 0 7 = some w0 ∧ w0.leash = none ∧ w0.adopted = none := by decide
def stAttach (leash : List (Nat × LeashEntry)) : State := stMsg (.attach 0 7 255 2 (ent 1)) w0 leash
theorem witness_LeashEvents_attach : (stAttach []).waveAt 0 7 = some w0
    ∧ ((stAttach [(homeSlice 0x1300, ent 1 .detached)]).die 0).leash.find? (fun p => p.2.st == .detached && p.2.token == 5 && p.2.ctx == 0 && p.2.pa == 0x1300)
      = some (homeSlice 0x1300, ent 1 .detached) ∧ ((stAttach []).die 0).leash.find? (fun p => p.2.st == .detached) = none
    ∧ ((stAttach []).die 0).leashHeld.find? (fun p => p.2.st == .detached) = none := by decide
/-- `st w` with a store of a unit of context 0 to a control register of die 0, and the subject of its event. -/
def stCtl (off : Nat) (x : Word) (subj : Subj := {}) : State := { stMsg (.ctlWrite 0 off x 0) with subj := subj }
theorem witness_LeashEvents_purge : ctlDue (stCtl Off.lsPurge 3 { b := 3 }) 0 Off.lsPurge (fun x => bits x 11 0 == 3) = some (.msg 0, 3, 0) := by decide

/-- A queue of four slots at 0x1400, whose items stand at 0x1800 and which holds one item, and one with a reserved bit set. -/
def qReq (put steal once : Bool) : QReq :=
  { wave := 0, serial := 7, put, steal, desc := 0x1400, va := 0x1400, ctx := 0, sel := 1, mask := 0xFFFF, once, items := if put then [(3, 4)] else []
    dst := .v 318, status := .p 14, pc := 0x1000, seq := 0 }
def stQueue (r : QReq) (top : Byte := 0x10) : State :=
  { stMsg .queue with subj := { a := 0 }, queues := [(0, r)], mem := [(0x1404, 1), (0x1409, 0x18), (0x140F, top), (0x10000, 1)] }
theorem witness_QueueAndTaskEvents_desc : (stQueue (qReq true false false) 0x11).queues.find? 0 = some (qReq true false false)
    ∧ unmapped (stQueue (qReq true false false) 0x11) 0x1400 = false ∧ anyBad (stQueue (qReq true false false) 0x11) 0x1400 32 = false
    ∧ (qdesc (stQueue (qReq true false false) 0x11) 0x1400).ok = false := by decide
theorem noLeash (s : State) (h : (s.dies.map fun p => p.2.leash) = [[]]) (k : s.dies.map Prod.fst = [0]) (d : Nat) : (s.die d).leash = [] := by
  match e : s.dies, h, k with
  | [(i, x)], h, k =>
    simp only [List.map_cons, List.map_nil, List.cons.injEq, and_true] at h k
    subst k
    match d with
    | 0 => show (s.dies.getD 0 {}).leash = []; rw [e]; exact h
    | n + 1 => show (s.dies.getD (n + 1) {}).leash = []; rw [e]; rfl
/-- The state in which the items of a request are looked at. -/
def qAt (s : State) (r : QReq) : State :=
  ((dropVisitorLine s (dieOf r.wave) r.desc).layerRead r.desc 32).arrive (slicePort r.wave r.desc) r.desc (if r.put then none else some r.steal)
def qWaits (s : State) (r : QReq) : Nat → Nat → Nat → Bool := fun j pa len => laneBehind s r.wave r.serial (r.lanesAt j) 0 pa len
theorem witness_QueueAndTaskEvents_put : ∃ s', let r := qReq true false false; let s := stQueue r
    (qdesc s 0x1400).ok = true ∧ isDev 0x1400 = true ∧ r.afterTake s = false ∧ laneBehind s r.wave r.serial r.sel 0 r.desc 32 = false
    ∧ MemInv s ∧ (∀ d, (s.die d).leash = []) ∧ (qdesc s 0x1400).count = 1
    ∧ itemsXl (qAt s r) 0 0 .write (qWaits s r) ((List.range (min 1 (2 ^ (qdesc s 0x1400).lcap - (qdesc s 0x1400).count))).map fun j =>
        (j, (qdesc s 0x1400).item ((qdesc s 0x1400).tail + j))) = (s', .ok [[(0x1810, 16)]]) ∧ s'.late = false ∧ s'.bad = [] :=
  ⟨_, by decide, by decide, by decide, by decide, by unfold MemInv; decide, noLeash _ rfl rfl, by decide, rfl, rfl, rfl⟩
theorem witness_QueueAndTaskEvents_take : ∃ s', let r := qReq false true false; let s := stQueue r
    (qdesc s 0x1400).ok = true ∧ r.afterTake s = false
    ∧ itemsXl (qAt s r) 0 0 .read (qWaits s r) ((List.range (min 1 (qdesc s 0x1400).count)).map fun j => (j, (qdesc s 0x1400).item ((qdesc s 0x1400).head + j)))
      = (s', .ok [[(0x1800, 16)]]) ∧ s'.late = false ∧ s'.bad = [] ∧ isDev 0x1800 = true ∧ unmapped s 0x180F = false :=
  ⟨_, by decide, by decide, rfl, rfl, rfl, by decide, by decide⟩
def wQ : Wave := { w0 with lanes := List.replicate 16 { pc := 0x1000, cl := .inside 0x1040 none none, wait := .reply 0 } }
theorem witness_QueueAndTaskEvents_reply : (∀ l, l < 16 → (wQ.lane l).wait = .reply 0) ∧ wQ.p.length = 15
    ∧ msgAt (stMsg (.queueReply [(3, 4)] 1 none) wQ) 0 = some (.queueReply [(3, 4)] 1 none)
    ∧ (stMsg (.queueReply [(3, 4)] 1 none) wQ).waveAt 0 7 = some wQ ∧ (qReq false true false).dst = .v 318
    ∧ (lanesOf (qReq false true false).sel)[0]? = some 0 := by decide
def tdTx : Tx := { stTx 0 with accs := [], owed := [], tasks := [{ lane := 0, va := 0x1500, pa := 0x1500 }] }
def stTask : State := { stMsg (.taskDec 3 0) wQ with txs := [(3, tdTx)], mem := [(0x1500, 1), (0x10000, 1)] }
theorem witness_QueueAndTaskEvents_decrement : ∃ k, stTask.txs.find? 3 = some tdTx ∧ tdTx.tasks[0]? = some k ∧ tdTx.suspend = false
    ∧ isDev k.pa = true ∧ unmapped stTask k.pa = false ∧ anyBad stTask k.pa 8 = false ∧ Writable stTask k.pa 8
    ∧ laneBehind stTask tdTx.wave tdTx.serial (maskOf [k.lane]) 3 k.pa 8 = false ∧ (stTask.arrive (slicePort tdTx.wave k.pa) k.pa).late = false
    ∧ MemInv stTask ∧ (∀ d, (stTask.die d).leash = [])
    ∧ Memory.read stTask.mem k.pa 8 = 1 ∧ (stTask.die 0).ready.length < 4096 ∧ stTask.waveAt 0 7 = some wQ :=
  ⟨_, rfl, rfl, rfl, by decide, by decide, by decide, writable _ _ _ rfl, by decide, by decide, by unfold MemInv; decide, noLeash _ rfl rfl,
    by decide, by decide, rfl⟩
/-- A detached wake at the count of a record at 0x1500, with value 9. -/
def stWake : State := { stMsg (.decrement 0x1300 0x1500 5 0 (some 9)) with subj := { a := 0 }, mem := [(0x1500, 1), (0x10000, 1)] }
theorem witness_QueueAndTaskEvents_wake : msgAt stWake 0 = some (.decrement 0x1300 0x1500 5 0 (some 9))
    ∧ (stWake.msgs.any fun p => p.1 < 0 && (match p.2 with | .decrement _ c _ _ (some _) => c == 0x1500 | _ => false)) = false
    ∧ isDev 0x1500 = true ∧ countFails stWake 0x1500 = false ∧ Writable stWake 0x1500 8 ∧ Writable stWake 0x1508 8
    ∧ (stWake.arrive (unitPort (homeDie 0x1300 0) 0x1500) 0x1500).late = false ∧ MemInv stWake ∧ (∀ d, (stWake.die d).leash = [])
    ∧ Memory.read stWake.mem 0x1500 8 = 1 ∧ (stWake.die 0).ready.length < 4096 :=
  ⟨rfl, by decide, by decide, by decide, writable _ _ _ rfl, writable _ _ _ rfl, by decide, by unfold MemInv; decide, noLeash _ rfl rfl,
    by decide, by decide⟩
/-- The ready queue is full and the count is 1: the decrement waits. -/
def fullReady (s : State) : State := s.updDie 0 fun d => { d with ready := List.replicate 4096 { pa := 0, va := none, ctx := 0 } }
theorem witness_QueueAndTaskEvents_full : ∃ k, msgAt (fullReady stTask) 0 = some (.taskDec 3 0) ∧ (fullReady stTask).txs.find? 3 = some tdTx
    ∧ tdTx.tasks[0]? = some k ∧ countFails (fullReady stTask) k.pa = false ∧ Memory.read (fullReady stTask).mem k.pa 8 = 1 :=
  ⟨_, rfl, rfl, rfl, rfl, rfl⟩
theorem witness_QueueAndTaskEvents_full_waits : countWaits (fullReady stTask) 0x1500 = true := by
  have h : ((fullReady stTask).die 0).ready.length = 4096 := List.length_replicate ..
  have k : kRead (fullReady stTask) 0x1500 8 = 1 := rfl
  simp [countWaits, k, show homeDie 0x1500 0 = 0 from rfl, h]
theorem witness_QueueAndTaskEvents_ready : ∃ n r, List.find? (fun (p : Nat × Msg) => match p.2 with | .readyHeld d' _ => d' == 0 | _ => false)
      (stMsg (.readyHeld 0 { pa := 0x1500, va := none, ctx := 0 })).msgs = some (n, .readyHeld 0 r)
    ∧ ((stMsg (.readyHeld 0 r)).die 0).ready.length < 4096 := ⟨_, _, rfl, by decide⟩

/-! ### Translation and control registers -/

/-- Context 0's tables at 0x11000 to 0x15000, which map page 1 to itself. -/
def tables : Memory :=
  [(0x10000, 1), (0x10001, 0x10), (0x10002, 1), (0x11000, 1), (0x11001, 0x20), (0x11002, 1), (0x12000, 1), (0x12001, 0x30), (0x12002, 1),
   (0x13000, 1), (0x13001, 0x40), (0x13002, 1), (0x14000, 1), (0x14001, 0x50), (0x14002, 1), (0x15008, 0x3B), (0x15009, 0x10)]
def stWalk (vpn : Nat) : State :=
  { st w0 with mem := tables, dies := [(0, { ctxbase := 0x10001 })], walking := [(0, { die := 0, ctx := 0, vpn, waiting := [(0, 7, 3)] })] }
theorem okOf (r : Walked × Except Trap Leaf) (l : Leaf) (h : r.2.toOption = some l) : ∃ ws, r = (ws, .ok l) := by
  obtain ⟨ws, x⟩ := r
  cases x with
  | error e => cases h
  | ok y => cases h; exact ⟨ws, rfl⟩
theorem errorOf (r : Walked × Except Trap Leaf) (t : Trap) (h : (match r.2 with | .error x => some x | .ok _ => none) = some t) : ∃ ws, r = (ws, .error t) := by
  obtain ⟨ws, x⟩ := r
  cases x with
  | error e => cases h; exact ⟨ws, rfl⟩
  | ok y => cases h
/-- The walk of R47 to R50 on five tables written out in memory. -/
theorem test_walk : (walkLeaf (stWalk 1) 0 0 0x1000).2.toOption = some { ctx := 0, size := 12, va := 1, pa := 1, rd := true, w := true, x := true } := by
  decide +kernel
theorem witness_TranslationAndRegisterEvents_walk : ∃ w, (stWalk 1).walking.find? 0 = some w
    ∧ ((stWalk 1).walking.filter fun p => p.1 < 0 && p.2.die == w.die).length < 128
    ∧ ∃ l ws, walkLeaf (stWalk 1) w.die w.ctx (w.vpn * 4096) = (ws, .ok l) := ⟨_, rfl, by decide, _, okOf _ _ test_walk⟩
theorem witness_TranslationAndRegisterEvents_fault : ∃ w, (stWalk 2).walking.find? 0 = some w ∧ w.waiting = [(0, 7, 3)]
    ∧ (stWalk 2).waveAt 0 7 = some w0 ∧ ∃ ws, walkLeaf (stWalk 2) w.die w.ctx (w.vpn * 4096) = (ws, .error .notPresent) :=
  ⟨_, rfl, rfl, rfl, errorOf _ _ (by decide +kernel)⟩
def fq : FaultReq := { ctx := 0, va := 0x2000, access := 0, fault := 1, requester := 0, origin := 0, lanes := 2, pc := 0x1000, seq := 0, who := .lanes 0 7 3 }
def fe : FaultEntry := { idx := 0, ctx := 0, vpn := 2, access := 0, who := [.lanes 0 7 3] }
/-- A request for a ring of 1,024 entries at 0x20000, with or without an unresolved entry of its key. -/
def stRing (fs : List FaultEntry) : State :=
  { st w0 with dies := [(0, { faultWait := [fq], faults := fs, regs := [(Off.xlFqbase, 0x20000)] })] }
theorem witness_TranslationAndRegisterEvents_ring : ((stRing []).die 0).faultWait.zipIdx.find? (fun p => canWrite (stRing []) 0 p.1) = some (fq, 0)
    ∧ ((stRing [fe]).die 0).faultWait.zipIdx.find? (fun p => canWrite (stRing [fe]) 0 p.1) = some (fq, 0)
    ∧ ((stRing [fe]).die 0).faults.any (sameKey fq) = true ∧ ((stRing []).die 0).faults.any (sameKey fq) = false
    ∧ MemInv (stRing []) ∧ (∀ d, ((stRing []).die d).leash = []) ∧ (0 : Nat) < (faultBytes fq).length
    ∧ isDev 0x20000 = true ∧ unmapped (stRing []) 0x20000 = false ∧ unmapped (stRing []) 0x2001F = false :=
  ⟨by decide, by decide, by decide, by decide, by unfold MemInv; decide, noLeash _ rfl rfl, by decide, by decide, by decide, by decide⟩
def wPark : Wave := { w0 with lanes := List.replicate 2 { pc := 0x1000, cl := .inside 0x1040 none none, st := .parked } ++ List.replicate 14 {} }
def stRes (x : Word) : State :=
  { stCtl Off.xlFresolve x { a := 0, b := 0 } with waves := [(0, wPark)], dies := [(0, { faults := [fe] })] }
theorem witness_TranslationAndRegisterEvents_resolve : ctlDue (stRes 0x4000000000000000) 0 Off.xlFresolve (fun x => bits x 63 62 == 1 && bits x 31 0 == 0)
      = some (.msg 0, 0x4000000000000000, 0)
    ∧ ctlDue (stRes 0x8000000000000000) 0 Off.xlFresolve (fun x => bits x 63 62 == 2 && bits x 31 0 == 0) = some (.msg 0, 0x8000000000000000, 0)
    ∧ (((stRes 0).die 0).faults.find? fun e => e.idx == BitVec.ofNat 32 0) = some fe ∧ (stRes 0).waveAt 0 7 = some wPark ∧ wPark.lanes.length ≤ 64
    ∧ ∀ l, l < 2 → (3 : Mask).getLsbD l = true ∧ (wPark.lane l).st = .parked := by decide
theorem witness_TranslationAndRegisterEvents_stores : ctlDue (stCtl Off.xlCtxbase 0x20001) 0 Off.xlCtxbase (fun x => x == 0x20001) = some (.msg 0, 0x20001, 0)
    ∧ ctlDue (stCtl Off.xlInvcmd 0x10000) 0 Off.xlInvcmd (fun x => bits x 63 62 == 0 && bits x 11 0 == 0 && bits x 59 16 == bits (0x1000 : Word) 55 12) = some (.msg 0, 0x10000, 0)
    ∧ ((stCtl Off.xlInvcmd 0x10000).die 0).inval.length < 16
    ∧ ctlDue (stCtl Off.lsSpillbase 0x20001) 0 Off.lsSpillbase (fun x => x == 0x20001) = some (.msg 0, 0x20001, 0)
    ∧ (stCtl Off.lsSpillbase 0x20001).launched = false ∧ 14 < bits (0x1F : Word) 4 1
    ∧ ctlDue (stCtl Off.msElog 0) 0 Off.msElog (fun x => x == 0) = some (.msg 0, 0, 0) := by decide
theorem witness_TranslationAndRegisterEvents_stores2 : ctlDue (stCtl 0x6000 0x4000000000000000) 0 0x6000 (fun x => x == 0x4000000000000000) = some (.msg 0, 0x4000000000000000, 0)
    ∧ bits ((stCtl 0x6000 0).reg 0 0x6038) 63 56 ≠ 2
    ∧ bits (((stCtl 0x6000 0).setReg 0 0x6038 0x0200000000000000).reg 0 0x6038) 63 56 = 2
    ∧ ctlDue (stCtl Off.trBase 0x20008) 0 Off.trBase (fun x => x == 0x20008) = some (.msg 0, 0x20008, 0)
    ∧ ctlDue (stCtl tsState 0) 0 tsState (fun x => x == 0) = some (.msg 0, 0, 0)
    ∧ ctlDue (stCtl tsCtl 0x2000000000000003) 0 tsCtl (fun x => bit x 61) = some (.msg 0, 0x2000000000000003, 0)
    ∧ ctlDue (stCtl tsCtl 3) 0 tsCtl (fun x => !bit x 61) = some (.msg 0, 3, 0)
    ∧ ctlDue (stCtl (pcSet 11) 0x100) 0 (pcSet 11) (fun x => decide (11 < 12) && x == 0x100) = some (.msg 0, 0x100, 0)
    ∧ (clusterAt (stCtl (pcSet 11) 0x100) 0 11).gate = .on := by decide
theorem witness_TranslationAndRegisterEvents_kinds : ctlDue (stCtl Off.xlInvcmd 0x4000000000000003) 0 Off.xlInvcmd (fun x => bits x 63 62 == 1 && bits x 11 0 == 3) = some (.msg 0, 0x4000000000000003, 0)
    ∧ ctlDue (stCtl Off.xlInvcmd 0x8000000000000000) 0 Off.xlInvcmd (fun x => bits x 63 62 == 2) = some (.msg 0, 0x8000000000000000, 0)
    ∧ ctlDue (stCtl Off.xlInvcmd 0xC000000000000000) 0 Off.xlInvcmd (fun x => bits x 63 62 == 3) = some (.msg 0, 0xC000000000000000, 0) := by decide
/-- Command 0 of kind 2 and a load that came after it. -/
def stInv : State := { inFlight (ldTx 0) wOut with dies := [(0, { inval := [{ kind := 2, size := 0, va := 0, ctx := 0, upto := 0 }] })] }
theorem witness_TranslationAndRegisterEvents_invalidation : (stInv.die 0).inval = [{ kind := 2, size := 0, va := 0, ctx := 0, upto := 0 }]
    ∧ stInv.txs ≠ [] ∧ (∀ p ∈ stInv.txs, usedRemoved { kind := 2, size := 0, va := 0, ctx := 0, upto := 0 } p.1 p.2 = false)
    ∧ ∀ p ∈ stInv.msgs, msgUsesRemoved stInv { kind := 2, size := 0, va := 0, ctx := 0, upto := 0 } p.1 p.2 = false := by decide
theorem witness_TranslationAndRegisterEvents_register : ownEvent Off.xlFqhead 5 = false ∧ plainFields Off.xlFqhead = some [(31, 0)]
    ∧ ctlDue (stCtl Off.xlFqhead 5) 0 Off.xlFqhead (fun x => x == 5) = some (.msg 0, 5, 0) ∧ outOfRange Off.xlFqhead 5 = false
    ∧ ownEvent 0x6FF8 5 = false ∧ plainFields 0x6FF8 = none ∧ ctlDue (stCtl 0x6FF8 5) 0 0x6FF8 (fun x => x == 5) = some (.msg 0, 5, 0)
    ∧ outOfRange Off.xlFqbase 15 = true ∧ ownEvent Off.xlFqbase 15 = false
    ∧ ownEvent (pcCap 11) 0x10000 = false ∧ plainFields (pcCap 11) = some [(17, 16), (15, 0)] ∧ outOfRange (pcCap 11) 0x10000 = false
    ∧ ctlDue (stCtl (pcCap 11) 0x10000) 0 (pcCap 11) (fun x => x == 0x10000) = some (.msg 0, 0x10000, 0)
    ∧ bits (0x10000 : Word) 15 0 = 0 := by decide
/-- A load and a store at the last 8 bytes of the SRAM of core 0's window. -/
def winTx (kind : TxKind) : Tx := { stTx 0 with kind, owed := [], accs := [{ lane := 0, va := 0x1100, pa := 0x1000217FFF8, n := 8, data := 9 }] }
theorem witness_TranslationAndRegisterEvents_window : ∃ a, accAt (inFlight (winTx .load) w0) 0 0 = some (winTx .load, a) ∧ place a.pa = .win 0 0x217FFF8
    ∧ (winTx .load).held = false ∧ a.old = none ∧ reached (winTx .load) a < 3 ∧ behind (inFlight (winTx .load) w0) 0 (winTx .load) 0 a 3 = false
    ∧ winGate (inFlight (winTx .load) w0) a.pa = (inFlight (winTx .load) w0, true)
    ∧ accAt (inFlight (winTx .store) w0) 0 0 = some (winTx .store, a) ∧ reached (winTx .store) a < 3
    ∧ behind (inFlight (winTx .store) w0) 0 (winTx .store) 0 a 3 = false
    ∧ winGate (inFlight (winTx .store) w0) a.pa = (inFlight (winTx .store) w0, true) :=
  ⟨_, rfl, by decide, rfl, rfl, by decide, by decide, by decide, rfl, by decide, by decide, by decide⟩
theorem witness_TranslationAndRegisterEvents_front : devFailed (st w0) = false ∧ (3 : Nat) < 4 := by decide

/-! ### Engines at work -/

/-- The result of an operation that succeeds, and of one that writes, with a test of it. -/
theorem okThat {σ ε α : Type} (r : σ × Except ε α) (p : σ → α → Bool) (h : (match r.2 with | .ok x => p r.1 x | .error _ => false) = true) :
    ∃ t x, r = (t, .ok x) ∧ p t x = true := by
  obtain ⟨t, e⟩ := r
  cases e with
  | error e => cases h
  | ok x => exact ⟨t, x, rfl, h⟩
theorem noneThat {σ ε : Type} (r : σ × Option ε) (h : r.2.isNone = true) : ∃ t, r = (t, none) :=
  ⟨r.1, Prod.ext rfl (Option.isNone_iff_eq_none.mp h)⟩
theorem noneAnd {σ ε : Type} (r : σ × Option ε) (p : σ → Bool) (h : (r.2.isNone && p r.1) = true) : ∃ t, r = (t, none) ∧ p t = true :=
  ⟨r.1, Prod.ext rfl (Option.isNone_iff_eq_none.mp (Bool.and_eq_true _ _ ▸ h).1), (Bool.and_eq_true _ _ ▸ h).2⟩
theorem readsThat {σ α ε : Type} (r : σ × α × Option ε) (p : σ → α → Bool) (h : (r.2.2.isNone && p r.1 r.2.1) = true) :
    ∃ t x, r = (t, x, none) ∧ p t x = true := by
  obtain ⟨t, x, e⟩ := r
  cases e with
  | some e => cases h
  | none => exact ⟨t, x, rfl, by simpa using h⟩
/-- The state in which an engine's access of a command runs. -/
def svOf (x : Cmd) (s : State) : State := { s with via := some { core := x.core, scope := x.scope, noAlloc := x.noAlloc }, replay := { s.replay with writer := none } }

/-- The tensor table at 0x1800: entry 0 is a tensor of 16 by 1 raw bytes at 0x1C00, entry 1 a tile of 8 by 1. -/
def tnMem : Memory :=
  [(0x1100, 2), (0x1104, 1), (0x1800, 8), (0x1802, 1), (0x1806, 1), (0x1807, 0x88), (0x1809, 0x1C), (0x1810, 16), (0x1812, 1), (0x1818, 16), (0x1840, 8),
   (0x1842, 1), (0x1847, 0x88), (0x10000, 1)]
def bind5 (st : TileSt) : TileEnt := { st, scr := false, err := false, tid := 1, base := 8, lines := 1, gen := 3 }
/-- One command of wave 0, at the head of the queue of its engine; tile 5 is bound. -/
def cmd (kind : CmdKind) (words : List Word) : Cmd :=
  { kind, wave := 0, serial := 7, ctx := 0, core := 0, launch := 0, seta := some 0, setb := none, pc := 0x1000, seq := 0, words, tnbase := 0x1800 }
def stCmd (x : Cmd) (tile : TileSt) : State :=
  { st w0 with mem := tnMem, cmds := [(0, x)], dies := [(0, { (st w0).die 0 with copyq := [(0, [0])] })],
               cores := [(0, { tiles := [(5, (bind5 tile).word)], stream0 := [0] })] }
/-- Copies from tensor 0 to tile 5 and from tile 5 to tensor 0 at .k. -/
def toTile : Cmd := cmd .copy [0x0000100500000000, 0, 0, 0x10008]
def toMem : Cmd := cmd .copy [0x0000414010000000, 0, 0, 0x10008]
/-- The conditions of a copy's acceptance on the entries that it reads. -/
def copyOk (x : Cmd) (s : State) (es : List (List Word)) : Bool :=
  let es0 := (es[0]?).getD []
  let es1 := (es[1]?).getD []
  let st := (copyTiles x).1
  let dt := (copyTiles x).2
  let j := copyJob s { x with st := .running, src := (st.bind (tileWords s 0)).getD es0, dstE := (dt.bind (tileWords s 0)).getD es1 }
  !(tent es0).illegal && !(tent es1).illegal && (st.isSome || !(tent es0).tileOnly) && (dt.isSome || !(tent es1).tileOnly)
    && (st.isNone || (tent es0).prune == 0)
    && !badRegion j.src j.so j.ext (j.src0 (nth j.ext 0)) && !badRegion j.dst j.dO j.ext (nth j.ext 0) && !badPair j.src.e j.dst.e
theorem witness_EngineEvents_accept : (((stCmd toTile .empty).die 0).copyq.getD 0 []).head? = some 0
    ∧ copyNeeds (stCmd toTile .empty) 0 toTile = (false, true) ∧ toTile.held = false ∧ toTile.st = .queued ∧ badCopyWord (wordAt toTile.words 0) = false
    ∧ copyTiles toTile = (none, some 5)
    ∧ tileHome (stCmd toTile .empty) 0 = 0 ∧ (stCmd toTile .empty).inTurn 0 ((stCmd toTile .empty).core 0).tableAt (acceptPlace 0) = true
    ∧ ∃ s' es, readEntries (stCmd toTile .empty) 0 0 0x1800 [] [0, 1] = (s', es, none) ∧ copyOk toTile s' es = true :=
  ⟨by decide, by decide, rfl, rfl, by decide, by decide, by decide, by decide, readsThat _ _ (by decide +kernel)⟩
theorem witness_EngineEvents_accept_drain : copyNeeds (stCmd toMem .ready) 0 toMem = (false, true) ∧ badCopyWord (wordAt toMem.words 0) = false
    ∧ copyTiles toMem = (some 5, none)
    ∧ ∃ s' es, readEntries (stCmd toMem .ready) 0 0 0x1800 [] [1, 0] = (s', es, none) ∧ copyOk toMem s' es = true :=
  ⟨by decide, by decide, by decide, readsThat _ _ (by decide +kernel)⟩
/-- A stream record at 0x1100: tensor 0, slot 5, two tiles, once; the drain has bit 44 set. -/
def recWord (drain : Bool) : Word := BitVec.ofNat 64 (5 * 2 ^ 50 + (if drain then 2 ^ 44 else 0) + 1)
def recMem (drain : Bool) : Memory :=
  [(0x1100, 1), (0x1105, if drain then 0x10 else 0), (0x1106, 0x14), (0x1110, 2), (0x1112, 1), (0x1114, 1), (0x1116, 1)].filter fun p => p.2 != 0
def stStrm (x : Cmd) (tile : TileSt) (drain : Bool) : State := { stCmd x tile with mem := recMem drain ++ tnMem.drop 2 }
def streamQ : Cmd := cmd .stream [0x1100]
/-- The conditions of a stream's start on what it reads. -/
def streamOk (x : Cmd) (s : State) (ws : List Word) (es : List (List Word)) : Bool :=
  let r := streamRec ws
  let mem := (es[0]?).getD []
  let e0 := tent mem
  let tile := (tileWords s 0 r.tb0).getD ((es[1]?).getD [])
  let j := streamJob s { x with st := .running, words := x.words.take 1 ++ ws, src := if r.drain then tile else mem, dstE := if r.drain then mem else tile }
  !e0.illegal && !(tent ((es[1]?).getD [])).illegal && !e0.tileOnly && (tent ((es[1]?).getD [])).tileOnly
    && (!r.drain || (tent ((es[1]?).getD [])).prune == 0) && !badPair j.src.e j.dst.e && e0.kind == 0
theorem witness_EngineEvents_start (drain : Bool) : headStream (stStrm streamQ .empty drain) 0 false = some (0, streamQ)
    ∧ ∃ s1 ws, recordRead (stStrm streamQ .empty drain) 0 streamQ 0x1100 = (s1, .ok ws)
      ∧ ((!(streamRec ws).bad && (streamRec ws).drain == drain && (streamRec ws).tb0 == 5
          && (streamRec ws).slots == 1 && tileAt s1 0 5 == some (bind5 .empty)
          && (let r := readEntries s1 0 0 0x1800 [] [(streamRec ws).mtid, 1]
              r.2.2.isNone && streamOk streamQ r.1 ws r.2.1)) = true) := by
  cases drain
  all_goals exact ⟨by decide, okThat _ (fun (s1 : State) (ws : List Word) => _) (by decide +kernel)⟩
/-- The stream at its tiles: before the first, inside a drain, and after the last. -/
def streamAt (drain : Bool) (phase pos : Nat) (subs : List Nat) : Cmd :=
  { streamQ with st := .running, words := [0x1100, recWord drain, 0, 0x0001000100010002, 0], phase, pos, submits := subs }
theorem witness_EngineEvents_tiles : (∀ b, (stCmd (streamAt b 0 0 []) .empty).inTurn 0 ((stCmd (streamAt b 0 0 []) .empty).core 0).tableAt (acceptPlace 0) = true ∧  headStream (stCmd (streamAt b 0 0 []) .empty) 0 false = some (0, streamAt b 0 0 [])
      ∧ tileAt (stCmd (streamAt b 0 0 []) .empty) 0 (slotNow (streamAt b 0 0 [])) = some (bind5 .empty)
      ∧ streamPaused (stCmd (streamAt b 0 0 []) .empty) (streamAt b 0 0 []) = false ∧ visits (streamAt b 0 0 []) = true
      ∧ firstFor (stCmd (streamAt b 0 0 []) .empty) 0 5 0 = true ∧ (cmdRec (streamAt b 0 0 [])).drain = b)
    ∧ (streamAt true 1 0 [69]).submits.contains (64 + slotNow (streamAt true 1 0 [69])) = true
    ∧ (streamAt true 1 0 [5]).submits.contains (64 + 5) = false ∧ (streamAt true 1 0 [5]).submits.contains 5 = true
    ∧ tileAt (stCmd (streamAt true 1 0 [5]) .ready) 0 5 = some (bind5 .ready)
    ∧ visits (streamAt false 0 2 []) = false := by decide
theorem witness_EngineEvents_tnset : ∃ s', unitWrite (svOf (cmd .tnset []) (stCmd (cmd .tnset (List.replicate 8 1)) .empty)) 0 0 0x1800
    ((List.replicate 8 1).flatMap fun (w : Word) => bytesOf w.toNat 8) = (s', none) ∧ (!s'.late) = true :=
  noneAnd _ (fun (s' : State) => !s'.late) (by decide +kernel)
theorem witness_EngineEvents_tnget : ∃ s' bs, unitRead (svOf (cmd .tnget []) (stCmd (cmd .tnget []) .empty)) 0 0 0x1800 64 = (s', .ok bs) ∧ (bs.length == 64 && !s'.late) = true :=
  okThat _ (fun (s' : State) (bs : List Byte) => bs.length == 64 && !s'.late) (by decide +kernel)
def ent0 : List Word := [0x8801000000010008, 0x1C00, 0x10010, 0x10, 0, 0, 0, 0]
def ent1 : List Word := [0x8800000000010008, 0, 0, 0, 0, 0, 0, 0]
def copyRun : Cmd := { toTile with st := .running, src := ent0, dstE := ent1 }
def jobRun : Job := cmdJob (stCmd copyRun .filling) copyRun
theorem witness_EngineEvents_read : copyRun.held = false ∧ (copyRun.units.getD 0 {}).over = false ∧ (copyRun.units.getD 0 {}).parked = false
    ∧ sideGone (stCmd copyRun .filling) copyRun = false ∧ 0 < (cmdJob (stCmd copyRun .filling) copyRun).units
    ∧ ∃ s' xs, readBlock (svOf copyRun (stCmd copyRun .filling)) 0 0 (cmdJob (stCmd copyRun .filling) copyRun) 0 [] = (s', .ok xs) ∧ (xs.length == 8 && !s'.late) = true :=
  ⟨rfl, by decide, by decide, by decide, by decide +kernel, okThat _ (fun (s' : State) (xs : List Elem) => xs.length == 8 && !s'.late) (by decide +kernel)⟩
def copyGot : Cmd := { toMem with st := .running, src := ent1, dstE := ent0, units := [(0, { got := some [1, 2, 3, 4, 5, 6, 7, 8] })] }
theorem witness_EngineEvents_write : tileUsed (stCmd copyGot .draining) 0 5 = false
    ∧ drainNew (stCmd copyGot .draining) 0 5 = false ∧ sideGone (stCmd copyGot .draining) copyGot = false
    ∧ ∃ s', writeBlock (svOf copyGot (stCmd copyGot .draining)) 0 0 0 (cmdJob (stCmd copyGot .draining) copyGot) 0 [1, 2, 3, 4, 5, 6, 7, 8] [] [] = (s', none)
      ∧ (!s'.late) = true := ⟨by decide, by decide, by decide, noneAnd _ (fun (s' : State) => !s'.late) (by decide +kernel)⟩
def copyDone (x : Cmd) (f : Option Nat) : Cmd := { x with units := (List.range 16).map fun n => (n, { done := f.isNone, failed := f }) }
theorem witness_EngineEvents_ends : allOver (stCmd (copyDone copyRun none) .filling) (copyDone copyRun none) = true
    ∧ allOver (stCmd (copyDone copyRun (some 2)) .filling) (copyDone copyRun (some 2)) = true ∧ anyFailed (copyDone copyRun (some 2)) = true
    ∧ anyFailed (copyDone copyRun none) = false ∧ (copyDone copyRun none).phase / 1 % 2 = 0 ∧ (copyTiles copyRun).2 = some 5
    ∧ tileAt (stCmd (copyDone copyRun none) .filling) 0 5 = some (bind5 .filling)
    ∧ allOver (stCmd (copyDone copyGot none) .draining) (copyDone copyGot none) = true ∧ (copyDone copyGot none).phase / 2 % 2 = 0
    ∧ tileAt (stCmd (copyDone copyGot none) .draining) 0 5 = some (bind5 .draining) := by decide +kernel
def tngetDone : Cmd := { cmd .tnget [] with st := .running, dst := .s 248, units := [(0, { done := true, got := some [1, 2, 3, 4, 5, 6, 7, 8] })] }
def wGet : Wave := { w0 with engc := 1, outs := [{ tx := 0, reg := Wave.skey 255 }] }
theorem witness_EngineEvents_complete : cmdOver (stCmd tngetDone .empty) tngetDone = true ∧ ctlWaits (stCmd tngetDone .empty) 0 = false
    ∧ ({ stCmd tngetDone .empty with waves := [(0, wGet)] } : State).waveAt 0 7 = some wGet ∧ firstOf tngetDone.dst + 7 = 255
    ∧ (wGet.outs.find? fun o => o.tx == 0 && o.reg == Wave.skey (firstOf tngetDone.dst + 7)) = some { tx := 0, reg := Wave.skey 255 }
    ∧ (copyDone toMem none).kind ≠ .tnget := by decide
/-- A gather of one element of 4 bytes: base 0x1C00, list 0x1900, pack 0x1D00, stride 4, limit 4; and one with a misaligned list. -/
def gth (kind : CmdKind) (list : Word) : Cmd := { cmd kind [0x1C00, list, 0x1D00, 0x400000004] with count := 1 }
theorem witness_EngineEvents_gather : (gatherCmd (gth .gath 0x1901)).bad = true ∧ (gatherCmd (gth .gath 0x1900)).bad = false ∧ (gth .gath 0x1900).count ≠ 0
    ∧ ∃ s' pa, xlNow (stCmd (gth .gath 0x1900) .empty) 0 0 (BitVec.ofNat 64 (gatherCmd (gth .gath 0x1900)).list) .read = (s', .ok pa)
      ∧ (pa == 0x1900) = true := ⟨by decide, by decide, by decide, okThat _ (fun (_ : State) (pa : Nat) => pa == 0x1900) (by decide +kernel)⟩
def gthAt (kind : CmdKind) (un : EUnit) : Cmd := { gth kind 0x1900 with st := .running, units := [(0, un)] }
theorem witness_EngineEvents_index : (0 : Nat) < (gthAt .gath {}).count ∧ (gthAt .gath {}).phase = 0
    ∧ ∃ s' bs, posRead (svOf (gthAt .gath {}) (stCmd (gthAt .gath {}) .empty)) (gthAt .gath {}) 0x1900 4 .k = (s', .ok bs) ∧ (ofBytes bs == 0 && !s'.late) = true :=
  ⟨by decide, rfl, okThat _ (fun (s' : State) (bs : List Byte) => ofBytes bs == 0 && !s'.late) (by decide +kernel)⟩
def got3 : EUnit := { got := some [3] }
theorem witness_EngineEvents_element : (∀ k, earlierSame (gthAt k got3) 0 [3] = false)
    ∧ (∃ s1 bs, posRead (svOf (gthAt .gath got3) (stCmd (gthAt .gath got3) .empty)) (gthAt .gath got3) 0x1C0C 4 .k = (s1, .ok bs)
        ∧ ((posWrite s1 (gthAt .gath got3) 0x1D00 bs).2.isNone && !(posWrite s1 (gthAt .gath got3) 0x1D00 bs).1.late) = true)
    ∧ (∃ s1 bs, posRead (svOf (gthAt .scat got3) (stCmd (gthAt .scat got3) .empty)) (gthAt .scat got3) 0x1D00 4 .k = (s1, .ok bs)
        ∧ ((posWrite s1 (gthAt .scat got3) 0x1C0C bs).2.isNone && !(posWrite s1 (gthAt .scat got3) 0x1C0C bs).1.late) = true)
    ∧ (∃ s1 bs, posRead (svOf (gthAt .scatr got3) (stCmd (gthAt .scatr got3) .empty)) { gthAt .scatr got3 with ty := .i32 } 0x1D00 4 .k = (s1, .ok bs)
        ∧ (let r := posReduce s1 { gthAt .scatr got3 with ty := .i32 } (gatherCmd { gthAt .scatr got3 with ty := .i32 }) 0x1C0C bs
           r.2.isNone && !r.1.late) = true) :=
  ⟨fun k => rfl, okThat _ (fun (s1 : State) (bs : List Byte) => _) (by decide +kernel), okThat _ (fun (s1 : State) (bs : List Byte) => _) (by decide +kernel),
    okThat _ (fun (s1 : State) (bs : List Byte) => _) (by decide +kernel)⟩

/-! ### The Retriever -/

/-- A descriptor of a program of two rules at 0x1180, results of 32 bytes at 0x1E00 and a limit of one step. -/
def desc : List Word := [0x1000000000001180, 0x1E00, 0x0001004000200000, 0]
def trav (run : Bool) : Cmd := { cmd .trav [0x1100] with st := if run then .running else .queued, src := if run then desc else [], walks := 1 }
/-- A walk at the home of P = 0x1C00, whose first rule is given. -/
def walk (rule : Word) : WalkRec :=
  { cmd := 0, lane := 0, ctx := 0, st := .running, p := 0x1C00, k := 0x500000003, rules := [rule], retr := retrOf 0x1C00 0, hasSlot := true, g := some 0x1D00, n := 1 }
def stRetr (x : Cmd) (w : WalkRec) (mem : Memory := []) : State :=
  { st w0 with mem := mem ++ [(0x10000, 1)], cmds := [(0, x)], walks := [(3, w)], subj := { a := 3 } }
theorem witness_RetrieverEvents_descriptor : (trav false).held = false ∧ (trav false).st = .queued ∧ (wordAt (trav false).words 0).toNat % 32 = 0
    ∧ (walkDesc desc).bad = false
    ∧ ∃ s' bs, unitRead (stRetr (trav false) (walk 0)) 0 0 0x1100 32 = (s', .ok bs) ∧ (walkDesc (wordsOf bs)).bad = true :=
  ⟨rfl, rfl, by decide, by decide, okThat _ (fun (_ : State) (bs : List Byte) => (walkDesc (wordsOf bs)).bad) (by decide +kernel)⟩
def queuedWalk (p : Word) : WalkRec := { walk 0 with st := .queued, hasSlot := false, rules := [], p }
/-- RET of 8 bytes and MISS at 0x1180; a program of zeros is defective. -/
def progMem : Memory := [(0x1180, 8), (0x1187, 0x60), (0x118F, 0x70)]
def startW : WalkRec := { queuedWalk 0x1C00 with hasSlot := true, st := .running }
def defects (bs : List Byte) : Option (Word × Nat) := (wordsOf bs).zipIdx.find? fun p => ruleBad 1 p.2 p.1
theorem witness_RetrieverEvents_start : slotsUsed (stRetr (trav true) (queuedWalk 0x1C00) progMem) (walk 0).retr false < 48
    ∧ isFirst (stRetr (trav true) (queuedWalk 0x1C00) progMem) 3 (fun v => v.st == .queued && v.retr == (walk 0).retr && !v.hasSlot
        && (match walkCmd (stRetr (trav true) (queuedWalk 0x1C00) progMem) v with | some x => x.st == .running | none => false)) = true
    ∧ (∀ p ∈ (stRetr (trav true) (queuedWalk 0x1C00) progMem).walks, p.2.retr = (walk 0).retr →
        ¬(p.2.st = .parked ∧ p.2.reserved = true) ∧ ¬(p.2.st = .moving ∧ slotsUsed (stRetr (trav true) (queuedWalk 0x1C00) progMem) (walk 0).retr true < 16)) := by
  decide +kernel
theorem witness_RetrieverEvents_program : (∃ s' bs, unitRead (stRetr (trav true) startW progMem) 0 0 0x1180 16 = (s', .ok bs) ∧ (defects bs).isNone = true)
    ∧ (∃ s' bs, unitRead (stRetr (trav true) startW) 0 0 0x1180 16 = (s', .ok bs) ∧ (defects bs).isSome = true) :=
  ⟨okThat _ (fun (_ : State) (bs : List Byte) => (defects bs).isNone) (by decide +kernel), okThat _ (fun (_ : State) (bs : List Byte) => (defects bs).isSome) (by decide +kernel)⟩
def moving : WalkRec := { walk 0 with st := .moving, hasSlot := false }
def parkedW : WalkRec := { walk 0 with st := .parked, reserved := true }
theorem witness_RetrieverEvents_slots : (stRetr (trav true) moving).walks.find? 3 = some moving
    ∧ (∀ p ∈ (stRetr (trav true) moving).walks, p.2.st = .moving → p.2.retr = moving.retr → moving.arrived ≤ p.2.arrived)
    ∧ slotsUsed (stRetr (trav true) moving) moving.retr true < 16 ∧ slotsUsed (stRetr (trav true) parkedW) parkedW.retr false < 48 := by decide
/-- LDF, CMPK, CMPI, FOLLOW, HASHK, RET of 8 bytes and MISS, with the field at P. -/
def rules : List Word := [0x1C00000000000000, 0x2000000000000000, 0x3010000000000005, 0x4C00000000000000, 0x5000000000100004, 0x6000000000000008, 0x7000000000000000]
theorem witness_RetrieverEvents_rules : rules.all (fun r => let s0 := settleWalk (stRetr (trav true) (walk r)) 3 (walk r)
        s0.walks.find? 3 == some (walk r) && !s0.late && (match (walkXl s0 (walk r) 0x1C00).2 with | .ok pa => pa == 0x1C00 | .error _ => false)) = true
    ∧ (walk 0).since < 63 ∧ rules.map (fun r => (wrule r).op) = [1, 2, 3, 4, 5, 6, 7] ∧ fieldAt (walk 0) (wrule 0x1C00000000000000) % 2 ^ 3 = 0 := by decide +kernel
/-- A field that reads zero, and one that does not, at the limit and below it; nothing else changes. -/
theorem witness_RetrieverEvents_field : ∀ m : Memory, m = [] ∨ m = [(0x1C00, 8)] →
    ∃ s1 bs, walkRead (walkXl (settleWalk (stRetr (trav true) (walk 0x4C00000000000000) m) 3 (walk 0x4C00000000000000)) (walk 0x4C00000000000000) 0x1C00).1
        (walk 0x4C00000000000000) .k 0x1C00 8 = (s1, .ok bs)
      ∧ (ofBytes bs == (if m = [] then 0 else 8) && !s1.late && s1.walks.find? 3 == some (walk 0x4C00000000000000) && descOf s1 (walk 0x4C00000000000000) == walkDesc desc) = true := by
  intro m h
  obtain h | h := h <;> subst h
  all_goals exact okThat _ (fun (s1 : State) (bs : List Byte) => _) (by decide +kernel)
theorem witness_RetrieverEvents_limit : (walk 0).n = (walkDesc desc).limit ∧ ({ walk 0 with n := 0 } : WalkRec).n ≠ (walkDesc desc).limit := by decide
def endingW : WalkRec := { walk 0 with st := .ending, result := some (0, 0x1C00, [9]) }
theorem witness_RetrieverEvents_result : (stRetr (trav true) endingW).walks.find? 3 = some endingW ∧ (stRetr (trav true) endingW).cmds.find? 0 = some (trav true)
    ∧ ((stRetr (trav true) endingW).launch 0).rec_ = 0
    ∧ ∃ s1 ps, unitXl (svOf (trav true) (stRetr (trav true) endingW)) (endingW.retr / 8) 0 .write (piecesOf 0x1E00 17) = (s1, .ok ps)
      ∧ (let r := physWrites s1 0 0 ps (bytesOf 0 8 ++ bytesOf 0x1C00 8 ++ [9])
         r.2.isNone && !r.1.late) = true :=
  ⟨rfl, rfl, by decide, okThat _ (fun (s1 : State) (ps : List (Nat × Nat)) => _) (by decide +kernel)⟩

/-! ### Launches, teams and dispatchers -/

/-- Queue 0 with one record at 0x1400, of one team of the kernel at 0x1000, or at 0x1800, where no object is. -/
def launchMem (va : Byte) (status : Byte) : Memory :=
  ([(0x0, 1), (0x11, 0x14), (0x18, 1), (0x1F, 0x80), (0x1000, 0x80), (0x1002, 1), (0x1006, 2), (0x1007, 0x30), (0x1008, 8), (0x100C, 0x80), (0x1014, 8),
   (0x1015, 8), (0x1016, 0x20), (0x1087, 0xC0), (0x1401, va), (0x140B, 0x10), (0x140C, 1), (0x1447, status)] : Memory).filter fun p => p.2 != 0
def page1 (ctx : Nat) : Leaf := { ctx, size := 12, va := 1, pa := 1, rd := true, w := true, x := true }
def stL (mem : Memory) (launches : Map Launch := []) (tlb : List Leaf := [page1 1]) : State :=
  { dev := .running, mem := mem ++ [(0x10000, 1), (0x10010, 1)], dies := [(0, { ctxbase := 0x10001, tlb })], waves := [(ctlNo 0 0, { kind := .control })], launches }
/-- The launch of a record, as it stands when its checks begin. -/
def recOf (s : State) : List Word × Launch :=
  match physRead s 0x1400 128 with
  | .ok v => let ws := wordsOf (bytesOf v 128); (ws, recordOf (lqueue s 0) 0 0 0x1400 s.fresh ws)
  | _ => ([], {})
def judged (s : State) : Verdict :=
  let (ws, x) := recOf s
  let y : Launch := { x with rec_ := 0, quantum := 256 }
  let s1 : State := { s with seen := s.seen.set 0 1, launched := true, fresh := s.fresh + 1 }
  (judge ((s1.setLaunch 0 y).homeWrite 0x1440 (statusWord 1 0)) 0 0 y ws).2
theorem witness_LaunchEvents_accept : ∀ va : Byte, va = 0x10 ∨ va = 0x18 → let s := stL (launchMem va 0)
    serverUp s 0 0 = true ∧ (lqueue s 0).ok = true ∧ (lqueue s 0).base = 0x1400 ∧ seenOf s 0 ≠ (lqueue s 0).tail
    ∧ s.launches.find? (launchNo 0 0) = none ∧ bits (wordAt (recOf s).1 8) 63 56 < 2
    ∧ recordingOf s 0 0 (lqueue s 0).ctx = (0, 256) := by
  intro va h
  obtain h | h := h <;> subst h
  all_goals decide +kernel
theorem witness_LaunchEvents_judge : (match judged (stL (launchMem 0x10 0)) with | .run z => z.kernel.width == 16 | _ => false) = true
    ∧ (match judged (stL (launchMem 0x18 0)) with | .fail code => code == 3 | _ => false) = true := by decide +kernel
theorem witness_LaunchEvents_passed : bits (wordAt (recOf (stL (launchMem 0x10 2))).1 8) 63 56 ≥ 2 := by decide +kernel
def lnE (st : LaunchSt) : Launch := { st, nteams := 1, ended := 1, record := 0x1400, done := 0x1500 }
theorem witness_LaunchEvents_end : ∀ st : LaunchSt, st = .running ∨ st = .aborting → let s := stL [] [(0, lnE st)]
    launchQuiet s 0 = true ∧ binsHold s 0 = false ∧ dqEmpty s (lnE st) = true ∧ MemInv s ∧ (∀ d, (s.die d).leash = []) ∧ doneOk (lnE st).done = true
    ∧ unmapped s (lnE st).done = false ∧ serverUp s (serverOf (lnE st).queue).1 (serverOf (lnE st).queue).2 = true
    ∧ Writable s ((lnE st).record + 0x40) 8 ∧ Writable s (lnE st).done 8 := by
  intro st h
  obtain h | h := h <;> subst h
  all_goals exact ⟨by decide, by decide, by decide, by unfold MemInv; decide, noLeash _ rfl rfl, by decide, by decide, by decide, writable _ _ _ rfl, writable _ _ _ rfl⟩
def lnP : Launch := { nteams := 1, dmask := 1, record := 0x1400, kernel := { va := 0x1000, entry := 0x80, clen := 8, safe := [(0x80, 0x80, 0x80, 32)] } }
theorem witness_LaunchEvents_place : lineUp (stL [] [(0, lnP)]) 0 = true ∧ headOf (stL [] [(0, lnP)]) 0 = .dealt 0 0 ∧ lnP.kernel.waves = 1
    ∧ (match planDie (dieOcc (stL [] [(0, lnP)]) 0) 0 lnP.kernel.pair lnP.kernel (tileLens lnP.kernel lnP.tiles) lnP.kernel.waves with
        | some (p, _) => (clusterAt (stL [] [(0, lnP)]) (p.core / 64) (clusterOf p.core)).gate == .on && p.spots.length == 1
            && !p.dirty (stL [] [(0, lnP)])
        | none => false) = true := by decide +kernel
/-- A save area at 0x1600 with wave 0 and its lane 0. -/
def stLine (v : Saved) : State := { stL [(0x1602, 1), (0x1620, 1)] [(0, { lnP with ctx := 1 })] with dies := [(0, { ctxbase := 0x10001, tlb := [page1 1], line := [v] })] }
def savedT : Saved := { launch := 0, number := 0, saved := true, area := 0x1600 }
theorem witness_LaunchEvents_restore : lineUp (stLine savedT) 0 = true ∧ headOf (stLine savedT) 0 = .line savedT
    ∧ (match trySaved (stLine savedT) 0 savedT savedT.away with | .placed _ => true | _ => false) = true := by decide +kernel
theorem witness_LaunchEvents_advert : lineUp { stL [] with time := 4096 } 0 = true
    ∧ (({ stL [] with time := 4096 } : State).die 0).advertAt + 4096 ≤ ctlNow { stL [] with time := 4096 } 0 := by decide
def lnS2 : Launch := { lnP with dmask := 3 }
def stSend : State :=
  { stL [] [(0, lnS2)] with time := 65536, dies := [(0, { head := some (0, 0, 0), adverts := [(0, 0), (1, 0), (0, 0), (0, 0)] })] }
theorem witness_LaunchEvents_send : lineUp stSend 0 = true ∧ (stSend.die 0).flight = none ∧ (stSend.die 0).returned = none
    ∧ headName stSend 0 (headOf stSend 0) = some (0, 0) ∧ (0 : Nat) + 65536 ≤ ctlNow stSend 0
    ∧ ((diesOf lnS2).find? fun e => let a := ((stSend.die 0).adverts[e]?).getD (0, 0)
        e != 0 && !(stSend.die 0).blocked.contains e && (if lnS2.kernel.pair then a.2 != 0 else a.1 != 0)) = some 1 := by decide
/-- A team on its way from die 1 to die 0; one that needs 17 waves of 64 lanes finds no room for its registers. -/
def stFlight (v : Saved) (nv : Nat) : State :=
  let k : Kernel := { lnP.kernel with nv, ns := 256, width := 64, team := 6144 }
  { stL [] [(0, { lnP with kernel := k })] with dies := [(0, {}), (1, { flight := some (0, v) })] }
def fresh0 : Saved := { launch := 0, number := 0, saved := false }
theorem witness_LaunchEvents_receive : lineUp (stFlight fresh0 320) 0 = true ∧ sender (stFlight { fresh0 with hold := true } 320) 0 = some (1, { fresh0 with hold := true })
    ∧ sender (stFlight fresh0 320) 0 = some (1, fresh0)
    ∧ (match tryMoved (stFlight fresh0 320) 0 fresh0 true with | .full => true | _ => false) = true
    ∧ (match tryMoved { stL [] [(0, lnP)] with dies := [(1, { flight := some (0, fresh0) })] } 0 fresh0 true with | .placed _ => true | _ => false) = true := by
  decide +kernel
theorem witness_LaunchEvents_returned : (({ stL [] with dies := [(0, { returned := some (1, fresh0) })] } : State).die 0).returned = some (1, fresh0) := by decide
def bin0 : Bin := { launch := 0, kernel := 0, threads := [{ arg := 5, team := noTeam }], since := 0 }
def gat0 : Gather := { launch := 0, ctx := 0, kernel := 0, pc := 0x4080, recs := [[1, 2]], since := 0 }
def stBins : State := { stL [] [(0, { lnS with bto := 256 })] with time := 256, cores := [(0, { bins := [bin0], gathering := [(3, gat0)] })] }
theorem witness_LaunchEvents_timeouts : (stBins.core 0).bins[0]? = some bin0 ∧ (stBins.launch 0).rec_ = 0 ∧ bin0.since + (stBins.launch 0).bto ≤ stBins.now 0
    ∧ (stBins.core 0).gathering.find? 3 = some gat0 ∧ gat0.since + (stBins.launch 0).bto ≤ stBins.now 0 := by decide
/-- A dispatch queue at 0x1400 with one item for the kernel at 0x4000. -/
def lnD : Launch := { lnS with dq := 0x1400, dmask := 1 }
def stDq : State := stL [(0x1404, 1), (0x1409, 0x18), (0x140F, 0x10), (0x1800, 0x80), (0x1801, 0x40), (0x1808, 5)] [(0, lnD)] [page1 0]
theorem witness_LaunchEvents_dispatch : coreWorks 0 0 = true ∧ byOrder (stDq.launches.filter fun p => p.2.st == .running && p.2.dq != 0 && p.2.dmask.getLsbD 0
      && !((stDq.core 0).dqStall.contains p.1) && !mustFollow stDq p.2) = [(0, lnD)]
    ∧ (match xlNow stDq 0 0 0x1400 .both with
        | (s1, .ok pa) => isDev pa && (match queueStep s1 { die := 0, port := slicePort (waveNo 0 0 0) pa } 0 pa 0 false false [] 1 with
            | .ok t [(entry, arg)] 1 => arg == 5 && !t.late && (match spawnKernel t 0 (bits entry 55 0) with | some k => !binBusy t 0 0 k | none => false)
            | _ => false)
        | _ => false) = true := by decide +kernel
def ready0 : Ready := { pa := 0x1500, va := none, ctx := 0 }
def stReady : State :=
  { stL [(0x1511, 0x40), (0x1518, 0x80), (0x1519, 0x40), (0x151F, 1), (0x1520, 9)] [(0, { lnS with task := true, dmask := 1, kernel := { va := 0x1000 } })] with dies := [(0, { ready := [ready0] })] }
theorem witness_LaunchEvents_record : (match bestRecord stReady 0 with
      | some c => (match c.out with | .taken t _ => !(t.core 0).gathering.isEmpty | _ => false) | none => false) = true
    ∧ (bestFormed stReady 0).isNone = true ∧ coreWorks (dieOfCore 0) (0 % 64) = true ∧ ∀ d, (stReady.die d).leash = [] :=
  ⟨by decide +kernel, by decide +kernel, by decide, noLeash _ rfl rfl⟩
def formed0 : Formed := { launch := 0, kernel := 0, kind := .spawned, pc := 0x4080, team := noTeam, threads := [[5], [6]] }
def stFormed : State := { stL [] [(0, lnS)] with cores := [(0, { formed := [formed0] })] }
theorem witness_LaunchEvents_wave : ((bestFormed stFormed 0).map Prod.fst) = some formed0 ∧ (bestRecord stFormed 0).isNone = true ∧ (clusterAt stFormed 0 0).gate = .on
    ∧ formed0.threads.length ≤ 64 ∧ (1 : Nat) < (kernelAt lnS 0).width ∧ 0 < (kernelAt lnS 0).nv := by decide +kernel
def lnCo : Launch := { nteams := 1, co := true, dmask := 1, record := 0x1400 }
theorem witness_LaunchEvents_barrier : (stL [(0x1438, 1)] [(0, lnCo)]).launches.find? 0 = some lnCo
    ∧ (lnCo.releases + 1) * lnCo.nteams ≤ kRead (stL [(0x1438, 1)] [(0, lnCo)]) (lnCo.record + 0x38) 8 := by decide
def lnRound : Launch := { lnCo with rounds := [(0, 0, 1, [0, 3])] }
def stRound : State := { stL [] [(0, lnRound)] with time := 256, waves := [(0, { w0 with lanes := List.replicate 16 { pc := 0x1000, wait := .inRound } })] }
theorem witness_LaunchEvents_round : ((stRound.launch 0).rounds.find? fun r => r.1 == 0) = some (0, 0, 1, [0, 3]) ∧ (0 : Nat) + 256 * 1 ≤ ctlNow stRound 0
    ∧ clusterOf (coreOf 0) ∈ [0, 3].take 4 ∧ ((stRound.wave 0).lane 15).wait = .inRound := by decide

/-! ### Traps and pre-emption -/

def trapR (trap : Trap) (wave : Nat := 0) : TrapRec :=
  { id := 4, wave, serial := 7, ctx := 0, waveId := 0, team := 0, launch := 0, trap, lanes := 1, group := 0xFFFF, pc := 0x1000, value := 0, ucode := 0,
    seq := 0, part := 0, parts := 1, written := none }
def wTr : Wave := { w0 with stopped := true, traps := [4] }
/-- A record that waits to be written to a ring of 64 entries at 0x20000. -/
def stRec : State := { st wTr with dies := [(0, { traps := [trapR .illegalInstruction], regs := [(Off.trBase, 0x20010)] })] }
theorem witness_TrapAndPreemptionEvents_write : nextRecord stRec 0 = some (trapR .illegalInstruction) ∧ MemInv stRec ∧ (∀ d, (stRec.die d).leash = [])
    ∧ bit (stRec.reg 0 Off.trBase) 4 = true ∧ bits (stRec.reg 0 Off.trBase) 51 12 * 4096 = 0x20000
    ∧ ((stRec.reg 0 Off.trTail).toNat + 2 ^ 32 - (stRec.reg 0 Off.trHead).toNat % 2 ^ 32) % 2 ^ 32 < 2 ^ 6
    ∧ ((trapR .illegalInstruction).words stRec)[0]?.isSome = true ∧ isCached 0x20000 = true ∧ unmapped stRec 0x20000 = false
    ∧ unmapped stRec (0x20000 + 63) = false :=
  ⟨by decide, by unfold MemInv; decide, noLeash _ rfl rfl, by decide, by decide, by decide, by decide, by decide, by decide, by decide⟩
/-- A ring whose base lies where no memory is. -/
theorem witness_TrapAndPreemptionEvents_hole : unmapped stRec (bits (0x200000000010 : Word) 51 12 * 4096) = true ∧ bit (0x200000000010 : Word) 4 = true := by decide
/-- An action on the record at index 9, which has been written; the launch runs. -/
def stAct (act : Word) (trap : Trap) : State :=
  { stCtl Off.trAct (act + 9) { b := 9 } with waves := [(0, wTr)], dies := [(0, { traps := [{ trapR trap with written := some 9 }] })] }
theorem witness_TrapAndPreemptionEvents_actions :
    ctlDue (stAct 0x2000000000000000 .user) 0 Off.trAct (fun x => bits x 63 61 == 1 && bits x 31 0 == 9) = some (.msg 0, 0x2000000000000009, 0)
    ∧ ctlDue (stAct 0x4000000000000000 .illegalInstruction) 0 Off.trAct (fun x => bits x 63 61 == 2 && bits x 31 0 == 9) = some (.msg 0, 0x4000000000000009, 0)
    ∧ ctlDue (stAct 0x6000000000000000 .illegalInstruction) 0 Off.trAct (fun x => bits x 63 61 == 3 && bits x 31 0 == 9) = some (.msg 0, 0x6000000000000009, 0)
    ∧ (stAct 0 .illegalInstruction).trapAt 0 (BitVec.ofNat 32 9) = some { trapR .illegalInstruction with written := some 9 } ∧ (stAct 0 .illegalInstruction).waveAt 0 7 = some wTr
    ∧ TrapRec.cls { trapR .illegalInstruction with written := some 9 } = 0 ∧ atHeader (stAct 0 .illegalInstruction) 0 { trapR .illegalInstruction with written := some 9 } = false
    ∧ wTr.traps = [4] ∧ (stAct 0 .illegalInstruction).launches.find? 0 = some {} ∧ ({} : Launch).st = .running := by decide +kernel
/-- At a clause header, and in a class that SKIP aborts. -/
theorem witness_TrapAndPreemptionEvents_skipAborts :
    atHeader { stAct 0 .illegalInstruction with mem := [(0x1007, 0xC0), (0x10000, 1)], dies := [(0, { ctxbase := 0x10001, tlb := [{ ctx := 0, size := 12, va := 1, pa := 1, rd := true, w := true, x := true }] })] } 0
        { trapR .illegalInstruction with written := some 9 } = true := by decide +kernel
theorem witness_TrapAndPreemptionEvents_control : (({ st w0 with dies := [(0, { traps := [trapR .illegalInstruction (ctlNo 0 1)] })] } : State).die 0).traps.find?
      (fun r => r.wave == ctlNo 0 1) = some (trapR .illegalInstruction (ctlNo 0 1)) ∧ ((st w0).port.getD 0x1030 0).toNat = 0
    ∧ (st w0).wave? (ctlNo 0 1) = none ∧ (st w0).dev = .running ∧ serverOf 4 = (0, 1)
    ∧ ({ queue := 4 } : Launch).st = .running ∧ dealtTo { dmask := 1, nteams := 1 } 0 = true := by decide
/-- A request on team 5 of the launch of queue 0, slot 0. -/
def preqW (op : Nat) : Word := BitVec.ofNat 64 (5 * 2 ^ 32 + op)
def stPreq (op : Nat) (ts : Map Team) (line : List Saved) : State :=
  { stCtl Off.trPreq (preqW op) { b := 5 } with teams := ts, dies := [(0, { line })], launches := [(0, { nteams := 8, dmask := 1 })] }
def team5 : Team := { number := 5, waves := [(0, 0)] }
def saved5 : Saved := { launch := 0, number := 5, saved := true, hold := true }
theorem witness_TrapAndPreemptionEvents_requests : (∀ op, op < 5 → ctlDue (stPreq op [(2, team5)] []) 0 Off.trPreq
      (fun x => bits x 2 0 == op && preqOf x == { team := 5, queue := 0, slot := 0 }) = some (.msg 0, preqW op, 0))
    ∧ residentTeam (stPreq 1 [(2, team5)] []) { team := 5, queue := 0, slot := 0 } = some (2, team5) ∧ team5.saving = false ∧ team5.save = .none
    ∧ (stPreq 2 [(2, team5)] []).launches.find? 0 = some { nteams := 8, dmask := 1 }
    ∧ residentTeam (stPreq 1 [] []) { team := 5, queue := 0, slot := 0 } = none
    ∧ savedTeam (stPreq 3 [] [saved5]) { team := 5, queue := 0, slot := 0 } = some saved5 ∧ saved5.hold = true
    ∧ savedTeam (stPreq 2 [] []) { team := 9, queue := 0, slot := 0 } = none ∧ undealt { nteams := 8, dmask := 1 } 9 = none := by decide
/-- Wave 0 of a team to be saved waits at a barrier; the entry of tid 255 names 0x1600. -/
def lnK : Launch := { nteams := 1, dmask := 1, kernel := { va := 0x1000, entry := 0x80, clen := 8, safe := [(0x80, 0x80, 0x80, 32)] } }
def wSv : Wave := { w0 with lanes := List.replicate 15 { pc := 0x1000, wait := .bar 0 } ++ [{ st := .exited }] }
def tmSv : Team := { waves := [(0, 0)], save := .pending true 0 }
def stSv : State :=
  let leaf (n : Nat) : Leaf := { ctx := 0, size := 12, va := n, pa := n, rd := true, w := true, x := true }
  { st wSv with mem := [(0x3FC9, 0x16), (0x10000, 1)], teams := [(0, tmSv)], launches := [(0, lnK)], dies := [(0, { ctxbase := 0x10001, tlb := [leaf 1, leaf 3] })] }
theorem witness_TrapAndPreemptionEvents_entry : stSv.wave? 0 = some wSv ∧ mayEnter stSv 0 wSv tmSv = true ∧ lnK.kernel.safe ≠ [] ∧ coreOn stSv (coreOf 0) = true
    ∧ recMode stSv wSv = 0 ∧ entryRecord stSv 0 wSv lnK.kernel = some 0
    ∧ ((startSave stSv 0).2.isNone && (writePair (startSave stSv 0).1 0 0 wSv.live 0).2.isNone) = true := by decide +kernel
/-- The team's wave has left its routine, and a wave that had ended before is absent. -/
def tmDone : Team := { tmSv with waves := [], saving := true, area := 0x1600, saveWs := [0, 1], entered := [0] }
theorem witness_TrapAndPreemptionEvents_saved : tmDone.saving = true ∧ tmDone.waves = [] ∧ strayStores { stSv with waves := [], teams := [(0, tmDone)] } 0 = false
    ∧ (tmDone.saveWs.filter fun wi => !tmDone.entered.contains wi) = [1]
    ∧ ∃ s1, writeAbsent { stSv with waves := [], teams := [(0, tmDone)] } 0 [1] = (s1, none) :=
  ⟨rfl, rfl, by decide, by decide, noneThat _ (by decide +kernel)⟩

/-! ### The host, the peers and the firmware -/

/-- The host at an address, with bytes or a length. -/
def stHst (a b : Nat) (bytes : List Byte := []) (dev : DevSt := .running) : State :=
  { dev, subj := { a, b, bytes }, mem := [(0x4000001, 7)], dies := [(0, {})] }
theorem witness_HostEvents_write : devFailed (stHst 0 0) = false ∧ MemInv (stHst 0 0) ∧ (∀ d, ((stHst 0 0).die d).leash = []) ∧ (stHst 0 0).bad = []
    ∧ reachable (stHst 0 0) 0x4000000 2 = true ∧ inFirmware 0x4000000 2 = false ∧ reachable (stHst 0 0) 0x3FFFFFF 1 = true
    ∧ inFirmware 0x3FFFFFF 1 = true ∧ inFirmware 0xFFF 1 = false ∧ reachable (stHst 0 0) (2 ^ 40) 8 = false
    ∧ place (2 ^ 40) ≠ .host ∧ place (2 ^ 51) = .host := by
  refine ⟨rfl, by unfold MemInv; decide, noLeash _ rfl rfl, ?_⟩
  decide
theorem witness_HostEvents_read : (stHst 0 0).firstBad 0x4000000 2 = none ∧ ({ stHst 0 0 with bad := [(0x200000, { kind := 1, fresh := true })] } : State).firstBad 0x4000000 2 ≠ none
    ∧ reachable { stHst 0 0 with bad := [(0x200000, { kind := 1, fresh := true })] } 0x4000000 2 = true
    ∧ losesWrite { stHst 0 0 with bad := [(0x200000, { kind := 1, fresh := true })] } 0x200000 0x4000000 2 = true := by decide
theorem witness_HostEvents_bar0 : bar0Ok 0xFFFF8 8 false = true ∧ bar0Ok 0xFFFF8 4 false = false ∧ bar0Ok 0x1008 8 true = true ∧ bar0Ok 0xFFF 1 false = true
    ∧ mbBusy (stHst 0 0) = false ∧ mbBusy { stHst 0 0 with port := [(0x1028, 0x8000000000000000)] } = true := by decide
/-- Port 3 is up, serves reads and writes, and its window is the 64 KiB at 0x4000000. -/
def stPeer (q : PeerReq) : State :=
  { stHst 0 0 with subj := { a := 3, peer := some q }, port := [(fpCtl 3, 0xB000000000000000), (fpWin 3, 0x4000000), (fpEnd 3, 0x4000000)].foldl (fun m p => Map.set m p.1 p.2) [] }
theorem witness_HostEvents_peer : peerServed (stPeer (.read 0x4000000 32)) 3 (.read 0x4000000 32) = true
    ∧ peerServed (stPeer (.write 0x400FFFF [1])) 3 (.write 0x400FFFF [1]) = true ∧ peerServed (stPeer (.exch 0x4000000 .b64 5)) 3 (.exch 0x4000000 .b64 5) = true
    ∧ peerServed (stPeer (.read 0x4010000 1)) 3 (.read 0x4010000 1) = false ∧ (3 : Nat) ∉ (stPeer (.read 0 1)).down ∧ (stPeer (.read 0 1)).firstBad 0x4000000 32 = none
    ∧ (∀ a n, Writable (stPeer (.read 0 1)) a n) :=
  ⟨by decide, by decide, by decide, by decide, by decide, by decide, fun a n => writable _ a n rfl⟩
/-- A command is pending: its code, and the two arguments latched with it. -/
def stMail (code a n : Nat) (dev : DevSt) : State :=
  { stHst 0 0 [] dev with port := [(0x1008, BitVec.ofNat 64 code), (0x1028, 0x8000000000000000), (0x20010, BitVec.ofNat 64 a), (0x20018, BitVec.ofNat 64 n)] }
theorem witness_HostEvents_load : mbBusy (stMail 1 0x4000000 512 .ready) = true ∧ mbCmd (stMail 1 0x4000000 512 .ready) = 1
    ∧ loadAllowed (stMail 1 0x4000000 512 .ready) = true ∧ loadAllowed (stMail 1 0x4000000 512 .training) = false
    ∧ reachable (stMail 1 0x4000000 512 .ready) 0x4000000 512 = true ∧ reachable (stMail 1 (2 ^ 40) 512 .ready) (2 ^ 40) 512 = false := by decide
theorem noHeader (b : List Byte) (f : Nat) (h : headerOk b 2 = false) : imageCode b 2 f ≠ 0 := by simp [imageCode, h]
/-- An image of zeros has no header; whether an image is good rests on the fused key, which is a free value. -/
theorem witness_HostEvents_image : ∃ s1 b, monitorRead (stMail 1 0x5000000 64 .ready) 0x5000000 64 = (s1, b) ∧ imageCode b 2 (floorOf s1 2) ≠ 0 :=
  ⟨_, (monitorRead (stMail 1 0x5000000 64 .ready) 0x5000000 64).2, rfl, noHeader _ _ (by decide +kernel)⟩
theorem witness_HostEvents_commands : (∀ a n, Writable (stMail 2 0x4000000 0x4000040 .ready) a n) ∧ reachable (stMail 2 0x4000000 0x4000040 .ready) 0x4000000 64 = true
    ∧ reachable (stMail 2 0x4000000 0x4000040 .ready) 0x4000040 400 = true ∧ reachable (stMail 3 0x4000000 0 .ready) 0x4000000 138 = true
    ∧ mbCmd (stMail 4 0 0 .running) = 4 ∧ (stMail 4 0 0 .running).dev = .running ∧ (stMail 4 0 0 .ready).dev ≠ .running
    ∧ (stMail 2 0 0 .ready).dev.up = true ∧ mbCmd (stMail 2 0 0 .ready) = 2 ∧ mbCmd (stMail 3 0 0 .ready) = 3
    ∧ State.reset.dev = .resetting := ⟨fun a n => writable _ a n rfl, by decide⟩

/-! ### The sequencer, replay, power and heat -/

/-- `st w0` with control registers of die 0. -/
def stRegs (regs : Map Word) (time : Nat := 0) : State := { st w0 with time, dies := [(0, { regs := regs })] }
/-- The sequencer is enabled; state 0 is armed by each cycle and counts cycles to 2, or to 1 with action 4. -/
def tsRegs (def0 state : Word) : Map Word :=
  [(0x5020, def0), (tsState, state), (tsCtl, 0x8000000000000000)].foldl (fun m p => m.set p.1 p.2) []
theorem witness_DebugAndPowerEvents_sequencer : (stRegs (tsRegs 0x0410000000000002 0)).dev.up = true
    ∧ bit ((stRegs []).reg 0 tsCtl) 63 = false ∧ bit ((stRegs (tsRegs 0x0410000000000002 0)).reg 0 tsCtl) 63 = true
    ∧ bit ((stRegs (tsRegs 0x0410000000000002 0)).reg 0 tsState) 61 = false
    ∧ bit ((stRegs (tsRegs 0x0410000000000002 0x2000000000000000)).reg 0 tsState) 61 = true
    ∧ bits ((stRegs (tsRegs 0x0410000000000002 0x2000000000000000)).reg 0 0x5020) 57 52 = 1
    ∧ bits ((stRegs (tsRegs 0x0410000000000002 0x2000000000000000)).reg 0 0x5020) 15 0 = 2 := by decide
/-- Sampling is on for core 0 every 16 cycles, with a ring of 32 records at 0x20000. -/
def stSample (w : List Nat) : State :=
  { stRegs ([(0x5190, 0x20000), (ssCtl, 0xC000000000000010), (ssCores, 1)].foldl (fun m p => Map.set m p.1 p.2) []) 16 with cores := [(0, { sampleFrom := some 0 })], waves := w.map fun k => (k, w0) }
theorem witness_DebugAndPowerEvents_sample : coreOn (stSample []) 0 = true ∧ bit ((stSample []).reg 0 ssCtl) 63 = true ∧ bit ((stSample []).reg 0 ssCtl) 62 = true
    ∧ bits ((stSample []).reg 0 ssCtl) 19 0 = 16 ∧ bit ((stSample []).reg 0 ssCores) 0 = true ∧ ((stSample []).core 0).slices[5]? = some ({ points := 0 } : SliceSt)
    ∧ 0 + (0 + 1) * 16 ≤ (stSample []).now 0 ∧ nextSlot (stSample []) 0 5 none = none ∧ nextSlot (stSample [waveNo 0 5 31]) 0 5 none = some 31
    ∧ ((stSample [waveNo 0 5 31]).ringPut 0 0x5190 ssCtl 5 15 (stallRecord (stSample [waveNo 0 5 31]) 0 5 31 0 w0)).2 = true := by decide +kernel
/-- A recorded launch whose one wave has ended its quantum. -/
def wEnd : Wave := { w0 with quantum := { ended := true } }
def stRound3 (phase : Nat) : State := { st wEnd with launches := [(0, { rec_ := 1, quantum := 256 })], replay := { phase } }
theorem witness_DebugAndPowerEvents_round : recLaunch (stRound3 0) = some (0, { rec_ := 1, quantum := 256 }) ∧ (stRound3 0).replay.struck = []
    ∧ wavesQuiet (stRound3 0) 0 = true ∧ workDone (stRound3 0) 0 1 = true ∧ (openRound (stRound3 0) 0 1).isSome = true
    ∧ (∀ p ∈ recWaves (stRound3 1) 0, p.2.quantum.grant = 0) ∧ recWaves (stRound3 1) 0 ≠ [] ∧ wordsPending (stRound3 1) 0 = false
    ∧ leashPending (stRound3 2) 0 false = false ∧ leashPending (stRound3 3) 0 true = false := by decide +kernel
theorem witness_DebugAndPowerEvents_reexecute : (∀ l, l < 16 → w0.live.getLsbD l = true ∧ (w0.lane l).st ≠ .parked)
    ∧ List.find? (fun (p : Nat × Wave) => p.1 == 0) [(0, wEnd)] = some (0, wEnd) ∧ wEnd.serial = w0.serial
    ∧ ({ struck := [0], snap := [(0, wEnd)] } : Replay).struck.contains 0 = true := by decide
def stCl (k : Cluster) (regs : Map Word := []) (time : Nat := 0) : State := { st w0 with time, waves := [], teams := [], dies := [(0, { regs, clusters := [(11, k)] })] }
theorem witness_DebugAndPowerEvents_regulator : (clusterAt (stCl { move := some { clock := 900, volt := 700 } }) 0 11).move = some { clock := 900, volt := 700 } := by decide
theorem witness_DebugAndPowerEvents_windows : (0 : Nat) < 256 ∧ coreWorks 0 0 = true ∧ coreOn (stCl {} [] 2048) 0 = true
    ∧ ((stCl {} [] 2048).core 0).ratioAt + 256 ≤ (stCl {} [] 2048).now 0 ∧ (clusterAt (stCl {} [] 2048) 0 11).last + 2048 ≤ clusterNow (stCl {} [] 2048) 0 11 := by decide
/-- An idle cluster whose GATE is 1, and one whose break-even hold of 128 cycles has ended. -/
def gateRegs : Map Word := [(pcHold, 2), (pcSet 11, 0x8000000000000000)].foldl (fun m p => m.set p.1 p.2) []
theorem witness_DebugAndPowerEvents_gate : bit ((stCl {} gateRegs).reg 0 (pcSet 11)) 63 = true ∧ clusterIdle (stCl {} gateRegs) 0 11 = true
    ∧ (clusterAt (stCl {} gateRegs) 0 11).gate = .on ∧ (clusterAt (stCl { gate := .hold 0 } gateRegs 128) 0 11).gate = .hold 0
    ∧ clusterIdle (stCl { gate := .hold 0 } gateRegs 128) 0 11 = true
    ∧ 0 + bits ((stCl { gate := .hold 0 } gateRegs 128).reg 0 pcHold) 15 0 * 64 ≤ clusterNow (stCl { gate := .hold 0 } gateRegs 128) 0 11 := by decide
theorem witness_DebugAndPowerEvents_ramp : (clusterAt (stCl { gate := .ramp }) 0 11).gate = .ramp ∧ 11 ∉ ((stCl { gate := .ramp }).die 0).arbiter
    ∧ (List.replicate 48 (1520 : Nat)).length = 48 ∧ (st w0).dev.up = true := by decide

end Sys2Proof.Tests
end

/-! ### The address checks of memory instructions (11_isa_memory.md R189, R198; 19_faults_preemption.md R377, R380) -/

section
namespace Sys2Proof.Machine.AddressChecks

/-! #### A precise trap at issue -/

/-- The issuing group holds its wave as it stands in the state. -/
theorem wave?_of_issuer {s : State} {i : Instr} {c : Iss} (h : s.issuer i = some c) : s.wave? c.key = some c.w := by
  unfold State.issuer at h
  split at h
  · cases h
  · split at h
    · cases h
    · rename_i hw
      cases h
      exact hw

/-- A wave as a precise trap of some of its lanes leaves it, with the number of the trap. -/
def stopWave (w : Wave) (lanes : Mask) (id : Nat) : Wave :=
  { w.dropHolder lanes with stopped := true, traps := w.traps ++ [id] }

theorem wave?_takeTrap_self {s : State} {k : Nat} {w : Wave} (hw : s.wave? k = some w) (t : Trap) (u : Nat)
    (lanes g : Mask) (pc v : Word) :
    (s.takeTrap k t u [(lanes, g, pc, v)]).wave? k = some (stopWave w lanes s.fresh) := by
  unfold State.takeTrap
  simp only [hw]
  exact (State.wave?_setWave_self ..).trans (by simp [stopWave])

theorem wave?_takeTrap_ne (s : State) {k j : Nat} (hj : j ≠ k) (t : Trap) (u : Nat) (ps : List (Mask × Mask × Word × Word)) :
    (s.takeTrap k t u ps).wave? j = s.wave? j := by
  unfold State.takeTrap
  split
  · rfl
  · exact State.wave?_setWave_ne _ _ hj

/-- Taking a trap of one part adds one record to the die of the wave (R379 to R381). -/
theorem traps_takeTrap {s : State} {k : Nat} {w : Wave} (hw : s.wave? k = some w) (t : Trap) (u : Nat)
    (lanes g : Mask) (pc v : Word) :
    ∃ r, ((s.takeTrap k t u [(lanes, g, pc, v)]).die (dieOf k)).traps = (s.die (dieOf k)).traps ++ [r] ∧ r.trap = t
      ∧ r.lanes = lanes ∧ r.group = g ∧ r.pc = pc ∧ r.value = v ∧ r.wave = k ∧ r.serial = w.serial ∧ r.written = none
      ∧ r.parts = 1 ∧ r.id = s.fresh := by
  unfold State.takeTrap
  simp only [hw]
  rw [State.die_updDie_self]
  exact ⟨_, rfl, rfl, rfl, rfl, rfl, rfl, rfl, rfl, rfl, rfl, rfl⟩

/-- Taking a trap performs nothing: memory, transactions, commands and teams keep their values. -/
theorem stores_takeTrap (s : State) (k : Nat) (t : Trap) (u : Nat) (ps : List (Mask × Mask × Word × Word)) :
    (s.takeTrap k t u ps).mem = s.mem ∧ (s.takeTrap k t u ps).txs = s.txs ∧ (s.takeTrap k t u ps).cmds = s.cmds
      ∧ (s.takeTrap k t u ps).teams = s.teams := by
  unfold State.takeTrap
  split <;> exact ⟨rfl, rfl, rfl, rfl⟩

theorem stopWave_regs (w : Wave) (lanes : Mask) (id : Nat) : SameRegs w (stopWave w lanes id) :=
  ⟨fun _ _ _ _ => rfl, fun _ _ => rfl, fun _ _ => rfl⟩

theorem stopWave_status (w : Wave) (lanes : Mask) (id : Nat) : SameStatus w (stopWave w lanes id) :=
  ⟨rfl, rfl, rfl, rfl, rfl, rfl, ⟨rfl, rfl, rfl, rfl⟩, rfl, rfl, rfl, rfl⟩

/-- A word that ends in a precise trap of its lane group leaves the group trapped (R377). -/
theorem trapped_takeTrap {s : State} {c : Iss} (hw : s.wave? c.key = some c.w) (k : Trap) (lanes : Mask) (v : Word) :
    Trapped s ((s.takeTrap c.key k 0 [(lanes, c.mask, c.pc, v)]).markIssued c) c k lanes v := by
  have hw' := wave?_takeTrap_self hw k 0 lanes c.mask c.pc v
  have hother := fun j (hj : j ≠ c.key) => wave?_takeTrap_ne s hj k 0 [(lanes, c.mask, c.pc, v)]
  obtain ⟨r, htraps, hk, hlanes, hgroup, hpc, hval, hwave, hserial, hwritten, hparts, hid⟩ :=
    traps_takeTrap hw k 0 lanes c.mask c.pc v
  obtain ⟨hmem, htxs, hcmds, hteams⟩ := stores_takeTrap s c.key k 0 [(lanes, c.mask, c.pc, v)]
  generalize s.takeTrap c.key k 0 [(lanes, c.mask, c.pc, v)] = u at *
  rw [markIssued_eq u c _ hw']
  generalize u.quantumOf c.w = q
  have hmark : State.wave { u.setWave c.key (markWave q c.mask (stopWave c.w lanes s.fresh)) with issued := true } c.key
      = markWave q c.mask (stopWave c.w lanes s.fresh) := State.wave_setWave_self ..
  constructor
  case trap =>
    rw [hmark]
    exact ⟨r, htraps, hk, hlanes, hgroup, hpc, hval, hwave, hserial, hwritten, hparts, by rw [hid]; rfl⟩
  case stopped => rw [hmark]; rfl
  case lanes =>
    intro l
    have hl := markWave_lane q c.mask (stopWave c.w lanes s.fresh) l
    rw [hmark]
    exact ⟨hl.pc, hl.st⟩
  case regs => rw [hmark]; exact markWave_regs _ _ _ _ _ _ (stopWave_regs ..)
  case status => rw [hmark]; exact markWave_status _ _ _ _ (stopWave_status ..)
  case mem => exact hmem
  case txs => exact htxs
  case cmds => exact hcmds
  case teams => exact hteams
  case others => exact fun j hj => (State.wave?_setWave_ne _ _ hj).trans (hother j hj)

/-- An instruction whose body ends in a precise trap. -/
theorem issue_trap {s : State} {i : Instr} {c : Iss} {body : State → Iss → Res} {k : Trap} {lanes : Mask} {v : Word}
    (h : Issues s i c) (hb : body s c = .trap k lanes v 0) :
    ∃ t, s.issue i body = .next t ∧ Trapped s t c k lanes v := by
  refine ⟨_, ?_, trapped_takeTrap (wave?_of_issuer h.group) k lanes v⟩
  unfold State.issue
  simp only [h.group, h.quantum, h.calm, h.checks, h.free, h.room, hb, Res.issued, State.settle, Bool.or_self,
    Bool.not_true, Bool.false_eq_true, if_false]

/-! #### The checks of a memory request, in their order -/

section
variable {s : State} {c : Iss} {r : MemReq} {go : State → List (Nat × Word × Nat) → State}

theorem memIssue_vaRange {x : Nat × Word} (hx : (r.xs.filter fun x => bits x.2 63 56 != 0).head? = some x) :
    memIssue s c r go = .trap .vaRange (selOf s c r.o) x.2 0 := by
  obtain ⟨ys, hys⟩ := List.head?_eq_some_iff.1 hx
  unfold memIssue
  simp only [hys]
  rfl

theorem memIssue_misaligned {x : Nat × Word} (hc : (r.xs.filter fun x => bits x.2 63 56 != 0) = [])
    (hx : (r.xs.filter fun x => x.2.toNat % r.align != 0).head? = some x) :
    memIssue s c r go = .trap .misaligned (selOf s c r.o) x.2 0 := by
  obtain ⟨ys, hys⟩ := List.head?_eq_some_iff.1 hx
  unfold memIssue
  simp only [hc, hys]
  rfl

/-- No counter is at its largest value. -/
theorem counterFull_false {w : Wave} (hl : w.ldc < 63) (hs : ∀ z, w.stc z < 63) (ldc : Bool) (zs : List Scope) :
    counterFull w ldc zs = false := by
  simp [counterFull, Nat.not_le.2 hl, hs]

/-- A translated atomic with an address in the on-chip map (R67, R198). -/
theorem memIssue_atomicTarget {ok : List (Nat × Word × Nat)} (ha : r.atomic = true)
    (ht : Translated s c r.need r.align r.xs ok) (hl : c.w.ldc < 63) (hs : ∀ z, c.w.stc z < 63)
    (hm : (ok.filter fun x => isMap x.2.2) ≠ []) :
    memIssue s c r go = .trap .atomicTarget (selOf s c r.o) 0 0 := by
  have hc : (r.xs.filter fun x => bits x.2 63 56 != 0) = [] := by simpa using fun a b h => ht.canon (a, b) h
  have ho : (r.xs.filter fun x => x.2.toNat % r.align != 0) = [] := by simpa using fun a b h => ht.aligned (a, b) h
  unfold memIssue
  simp only [hc, ho, counterFull_false hl hs, ht.gate, ha]
  simp [hm]

end

/-! #### The requests that memory instructions make -/

/-- Where group c issues i, its body is the issue of the memory request r. -/
def Requests (s : State) (c : Iss) (i : Instr) (r : MemReq) : Prop :=
  ∃ body go, exec i s = s.issue i body ∧ body s c = memIssue s c r go

theorem Requests.traps {s : State} {c : Iss} {i : Instr} {r : MemReq} {k : Trap} {lanes : Mask} {v : Word}
    (h : Requests s c i r) (hi : Issues s i c) (ht : ∀ go, memIssue s c r go = .trap k lanes v 0) :
    ∃ t, exec i s = .next t ∧ Trapped s t c k lanes v := by
  obtain ⟨body, go, hexec, hbody⟩ := h
  rw [hexec]
  exact issue_trap hi (hbody.trans (ht go))

/-- One access for each lane that acts. -/
def laneAccs (s : State) (c : Iss) (i : Instr) (o : Ops) (ea : Nat → Word) : List (Nat × Word) :=
  (actLanes (onceFor i) (selOf s c o)).map fun l => (l, ea l)

theorem laneAccs_of_not_once {i : Instr} (h : onceFor i = false) (s : State) (c : Iss) (o : Ops) (ea : Nat → Word) :
    laneAccs s c i o ea = (lanesOf (selOf s c o)).map fun l => (l, ea l) := by
  simp [laneAccs, actLanes, h]

/-- LD issues one request for its lanes (R189, R194). -/
theorem exec_ld (o : Ops) (m : MMod) (s : State) : exec (.ld o m) s = s.issue (.ld o m) fun s c =>
    loadFrom s c o m (onceFor (.ld o m)) false (laneAccs s c (.ld o m) o (addrOf s c o)) (selOf s c o) := rfl

/-- ST issues one request for its lanes (R189, R194). -/
theorem exec_st (o : Ops) (m : MMod) (s : State) : exec (.st o m) s = s.issue (.st o m) fun s c =>
    storeTo s c o m (onceFor (.st o m)) (laneAccs s c (.st o m) o (addrOf s c o))
      (fun l _ => readSrc s c.w o .c (mtyV m.ty) l) (selOf s c o) := rfl

/-- The request of LD, or of ST where `isStore` (R189, R190, R194). -/
def accessReq (s : State) (c : Iss) (i : Instr) (o : Ops) (m : MMod) (isStore : Bool) : MemReq :=
  { o, once := onceFor i, n := m.ty.bytes, align := m.ty.bytes, need := if isStore then .write else .read, atomic := false,
    isStore, ldc := !isStore, stc := if isStore then stcScopes (scopeOf o m) else [],
    xs := laneAccs s c i o (addrOf s c o) }

theorem requests_ld (s : State) (c : Iss) (o : Ops) (m : MMod) :
    Requests s c (.ld o m) (accessReq s c (.ld o m) o m false) :=
  ⟨_, _, exec_ld o m s, rfl⟩

theorem requests_st (s : State) (c : Iss) (o : Ops) (m : MMod) :
    Requests s c (.st o m) (accessReq s c (.st o m) o m true) :=
  ⟨_, _, exec_st o m s, rfl⟩

/-- The request of an atomic, a reduction or a binned request (R198 to R200). -/
def atomicReq (s : State) (c : Iss) (i : Instr) (o : Ops) (m : MMod) (align : Nat) (returns stores : Bool) : MemReq :=
  { o, once := onceFor i, n := m.ty.bytes, align, need := if stores then .both else .read, atomic := true,
    isStore := stores, ldc := returns, stc := if stores then stcScopes (scopeOf o m) else [],
    xs := laneAccs s c i o fun l => readSrc s c.w o .a b64 l }

/-- An atomic that replay does not perform on its side copies (R407) is the issue of its request: one of a wave that is
not recorded, one that returns nothing, or BREAD. -/
theorem atomicIssue_eq_memIssue {s : State} {c : Iss} {kind : TxKind} {returns : Bool}
    (h : recMode s c.w = 0 ∨ returns = false ∨ kind = .bread) (o : Ops) (m : MMod) (i : Instr) (align : Nat)
    (stores : Bool) (data data2 : Nat → Word) (dst dst2 : Opd) :
    ∃ go, atomicIssue s c o m i kind align returns stores data data2 dst dst2
      = memIssue s c (atomicReq s c i o m align returns stores) go := by
  unfold atomicIssue
  obtain h | rfl | rfl := h
  · simp only [h, bne_self_eq_false, Bool.false_and, Bool.false_eq_true, if_false]
    exact ⟨_, rfl⟩
  all_goals
    simp only [Bool.and_false, Bool.false_and, Bool.false_eq_true, if_false]
    exact ⟨_, rfl⟩

/-- The atomics with one operand and the reductions (R198). -/
def IsAtomic (i : Instr) (o : Ops) (m : MMod) : Prop :=
  i = .aadd o m ∨ i = .amin o m ∨ i = .amax o m ∨ i = .aand o m ∨ i = .aor o m ∨ i = .axor o m ∨ i = .aexch o m
    ∨ i = .redadd o m ∨ i = .redmin o m ∨ i = .redmax o m ∨ i = .redand o m ∨ i = .redor o m ∨ i = .redxor o m

theorem exec_atomic {i : Instr} {o : Ops} {m : MMod} (h : IsAtomic i o m) (s : State) :
    ∃ kind returns dst, exec i s = s.issue i fun s c =>
      atomicIssue s c o m i kind m.ty.bytes returns true (fun l => readSrc s c.w o .b (mtyV m.ty) l) (fun _ => 0) dst .zero := by
  rcases h with rfl | rfl | rfl | rfl | rfl | rfl | rfl | rfl | rfl | rfl | rfl | rfl | rfl <;> exact ⟨_, _, _, rfl⟩

theorem requests_atomic {i : Instr} {o : Ops} {m : MMod} (h : IsAtomic i o m) {s : State} {c : Iss}
    (hr : recMode s c.w = 0) : ∃ returns, Requests s c i (atomicReq s c i o m m.ty.bytes returns true) := by
  obtain ⟨kind, returns, dst, hexec⟩ := exec_atomic h s
  obtain ⟨go, hgo⟩ := atomicIssue_eq_memIssue (kind := kind) (returns := returns) (.inl hr) o m i m.ty.bytes true
    (fun l => readSrc s c.w o .b (mtyV m.ty) l) (fun _ => 0) dst .zero
  exact ⟨returns, _, go, hexec, hgo⟩

/-- BADD is an atomic that returns nothing, on a cell of 32 bytes (R200). -/
theorem exec_badd (o : Ops) (m : MMod) (s : State) : exec (.badd o m) s = s.issue (.badd o m) fun s c =>
    atomicIssue s c o m (.badd o m) .badd 32 false true (fun l => readSrc s c.w o .b (mtyV m.ty) l) (fun _ => 0)
      .zero .zero := rfl

/-- BREAD is an atomic that only reads, on a cell of 32 bytes (R200). -/
theorem exec_bread (o : Ops) (m : MMod) (s : State) : exec (.bread o m) s = s.issue (.bread o m) fun s c =>
    atomicIssue s c o m (.bread o m) .bread 32 true false (fun _ => 0) (fun _ => 0) o.d .zero := rfl

theorem requests_badd (s : State) (c : Iss) (o : Ops) (m : MMod) :
    Requests s c (.badd o m) (atomicReq s c (.badd o m) o m 32 false true) := by
  obtain ⟨go, hgo⟩ := atomicIssue_eq_memIssue (s := s) (c := c) (kind := .badd) (returns := false) (.inr (.inl rfl))
    o m (.badd o m) 32 true (fun l => readSrc s c.w o .b (mtyV m.ty) l) (fun _ => 0) .zero .zero
  exact ⟨_, go, exec_badd o m s, hgo⟩

theorem requests_bread (s : State) (c : Iss) (o : Ops) (m : MMod) :
    Requests s c (.bread o m) (atomicReq s c (.bread o m) o m 32 true false) := by
  obtain ⟨go, hgo⟩ := atomicIssue_eq_memIssue (s := s) (c := c) (kind := .bread) (returns := true) (.inr (.inr rfl))
    o m (.bread o m) 32 false (fun _ => 0) (fun _ => 0) o.d .zero
  exact ⟨_, go, exec_bread o m s, hgo⟩

/-! #### The traps of the checks -/

/-- The first access of a list of lanes that a test picks is that of the first lane whose address it picks. -/
theorem filter_accs_head? {ls : List Nat} {ea : Nat → Word} {p : Word → Bool} {l : Nat}
    (h : (ls.filter fun l => p (ea l)).head? = some l) :
    ((ls.map fun l => (l, ea l)).filter fun x => p x.2).head? = some (l, ea l) := by
  rw [List.filter_map, List.head?_map]
  simp only [Function.comp_def, h, Option.map_some]

theorem filter_accs_nil {ls : List Nat} {ea : Nat → Word} {p : Word → Bool} (h : (ls.filter fun l => p (ea l)) = []) :
    ((ls.map fun l => (l, ea l)).filter fun x => p x.2) = [] := by
  rw [List.filter_map]
  simp only [Function.comp_def, h, List.map_nil]

section
variable {s : State} {c : Iss} {i : Instr} {r : MemReq} {ea : Nat → Word} {l : Nat}

/-- A lane's address outside the address space traps every selected lane, whatever the alignment (R189, R377). -/
theorem Requests.vaRange (h : Requests s c i r) (hi : Issues s i c)
    (hxs : r.xs = (lanesOf (selOf s c r.o)).map fun l => (l, ea l))
    (hl : ((lanesOf (selOf s c r.o)).filter fun l => bits (ea l) 63 56 != 0).head? = some l) :
    ∃ t, exec i s = .next t ∧ Trapped s t c .vaRange (selOf s c r.o) (ea l) :=
  have hx : (r.xs.filter fun x => bits x.2 63 56 != 0).head? = some (l, ea l) := by
    rw [hxs]; exact filter_accs_head? (p := fun a => bits a 63 56 != 0) hl
  h.traps hi fun _ => memIssue_vaRange hx

/-- With every address in the address space, one that is no multiple of the access traps every selected lane. -/
theorem Requests.misaligned (h : Requests s c i r) (hi : Issues s i c)
    (hxs : r.xs = (lanesOf (selOf s c r.o)).map fun l => (l, ea l))
    (hc : ((lanesOf (selOf s c r.o)).filter fun l => bits (ea l) 63 56 != 0) = [])
    (hl : ((lanesOf (selOf s c r.o)).filter fun l => (ea l).toNat % r.align != 0).head? = some l) :
    ∃ t, exec i s = .next t ∧ Trapped s t c .misaligned (selOf s c r.o) (ea l) :=
  have hcanon : (r.xs.filter fun x => bits x.2 63 56 != 0) = [] := by
    rw [hxs]; exact filter_accs_nil (p := fun a => bits a 63 56 != 0) hc
  have hx : (r.xs.filter fun x => x.2.toNat % r.align != 0).head? = some (l, ea l) := by
    rw [hxs]; exact filter_accs_head? (p := fun a => a.toNat % r.align != 0) hl
  h.traps hi fun _ => memIssue_misaligned hcanon hx

end

/-- Settles O30: every instruction named issues one memory request for its selected lanes, whose checks come first. -/
theorem addressChecksTrap : Obligations.AddressChecksTrap := by
  unfold Obligations.AddressChecksTrap
  refine ⟨?_, ?_⟩
  · intro s c o m i align ea sel sum hform hi honce high odd
    have hreq : ∃ r, Requests s c i r ∧ r.o = o ∧ r.align = align ∧ r.xs = laneAccs s c i o ea := by
      obtain ⟨rfl | rfl, rfl, rfl⟩ | ⟨hatomic, rfl, rfl, hrec⟩ | ⟨rfl | rfl, rfl, rfl⟩ := hform
      · exact ⟨_, requests_ld s c o m, rfl, rfl, rfl⟩
      · exact ⟨_, requests_st s c o m, rfl, rfl, rfl⟩
      · obtain ⟨returns, h⟩ := requests_atomic hatomic hrec
        exact ⟨_, h, rfl, rfl, rfl⟩
      · exact ⟨_, requests_badd s c o m, rfl, rfl, rfl⟩
      · exact ⟨_, requests_bread s c o m, rfl, rfl, rfl⟩
    obtain ⟨r, h, rfl, rfl, hxs⟩ := hreq
    rw [laneAccs_of_not_once honce] at hxs
    exact ⟨fun l hl => h.vaRange hi hxs hl, fun hc l hl => h.misaligned hi hxs hc hl⟩
  · intro s c o m i ok hatomic hi honce hrec hldc hstc htrans inMap hmap
    obtain ⟨returns, h⟩ := requests_atomic hatomic hrec
    rw [← laneAccs_of_not_once honce] at htrans
    have hok : (ok.filter fun x => isMap x.2.2) ≠ [] := fun h0 => hmap (by simp only [inMap, h0, List.map_nil])
    exact h.traps hi fun _ => memIssue_atomicTarget rfl htrans hldc hstc hok

end Sys2Proof.Machine.AddressChecks
end
